-- ==== Sys2Proof/Word.lean ====
section
/-! DEFINITION. The data sizes of the Gailner (chapter "Scope and Conventions"): memory is addressed in 16-bit words only. -/

namespace Sys2Proof

/-- One byte of memory: half of a word, the unit in which `Host.Cell` holds memory. -/
abbrev Byte := BitVec 8

/-- 16 bits, the addressable unit. -/
abbrev Word := BitVec 16

/-- 32 bits, two words. -/
abbrev Pair := BitVec 32

/-- 64 bits, four words. -/
abbrev Quad := BitVec 64

/-- 128 bits, eight words. -/
abbrev Oct := BitVec 128

/-- One cache line, 32 words. -/
abbrev LineData := BitVec 512

end Sys2Proof
end

