-- ==== Sys2Proof/Syntax.lean ====
section
/-! DEFINITION. The commands of the Gailner: one constructor of `Instr` for each row of the table of steps, with the operands
of the row. -/

namespace Sys2Proof.Machine

/-- The slots of a bundle in the order R95 gives them: A, B, M, L. -/
inductive Slot where
  | a | b | m | l
  deriving DecidableEq, Repr

/-- Operation sizes of the integer groups (R97): word on W, pair on X, quad on Y. -/
inductive Size where
  | word | pair | quad
  deriving DecidableEq, Repr

/-- Access sizes of the LM group (R104). -/
inductive MSize where
  | word | pair | quad | oct
  deriving DecidableEq, Repr

/-- The functions of the R-format ALU majors (R97). -/
inductive AluFn where
  | add | addc | sub | subb | adds | subs | addus | subus | and | or | xor | andn | shl | shr | sar | rol
  | min | max | minu | maxu | neg | abs | mov | cmp | clz | popc | sext | zext
  deriving DecidableEq, Repr

/-- An R-format ALU operation: SZ, SF, function, D, S1, S2 as the fields of the operation word (R97). -/
structure AluOp where
  sz : Size
  sf : Bool
  fn : AluFn
  d  : Fin 64
  s1 : Fin 64
  s2 : Fin 64
  deriving DecidableEq, Repr

/-- The I-format operations (R98). -/
inductive ImmFn where
  | addi | andi | ori | xori | shli | shri | sari | cmpi
  deriving DecidableEq, Repr

/-- An I-format operation (R98). -/
structure ImmOp where
  fn  : ImmFn
  sz  : Size
  d   : Fin 64
  s1  : Fin 64
  imm : BitVec 12
  deriving DecidableEq, Repr

/-- MOVI with its KV field (R99). -/
structure MoviOp where
  kv  : Fin 4
  d   : Fin 64
  imm : Word
  deriving DecidableEq, Repr

/-- The conditions of BC (R102); COND 0xF is reserved and no constructor stands for it. -/
inductive Cond where
  | eq | ne | lo | hs | mi | pl | vs | vc | hi | ls | ge | lt | gt | le | al
  deriving DecidableEq, Repr

/-- LDW to STO (R104). -/
structure LmOp where
  sz   : MSize
  t    : Fin 64
  base : Fin 64
  bx   : Bool
  seg  : Fin 8
  u    : Bool
  disp : BitVec 9
  deriving DecidableEq, Repr

/-- MOVO (R106). -/
structure MovoOp where
  xd   : Fin 32
  xs   : Fin 32
  segd : Fin 8
  segs : Fin 8
  inc  : Bool
  deriving DecidableEq, Repr

/-- FLD (R107). -/
structure FldOp where
  xq   : Fin 32
  segq : Fin 8
  wt   : Fin 64
  ch   : Fin 4
  u    : Bool
  deriving DecidableEq, Repr

/-- FST (R107). -/
structure FstOp where
  xq   : Fin 32
  segq : Fin 8
  vs   : Fin 16
  ch   : Fin 4
  u    : Bool
  deriving DecidableEq, Repr

/-- CASP (R109). -/
structure CaspOp where
  xc  : Fin 32
  xn  : Fin 32
  xb  : Fin 32
  seg : Fin 8
  deriving DecidableEq, Repr

/-- Multiplies of major 0x01 of slot M (R110). -/
inductive MulFn where
  | mul | mulw | mulwu | mulh | mulhu
  deriving DecidableEq, Repr

/-- Divides of major 0x01 of slot M (R110). -/
inductive DivFn where
  | div | divu | rem | remu
  deriving DecidableEq, Repr

/-- An integer multiply (R110). -/
structure MulOp where
  fn : MulFn
  sz : Size
  d  : Fin 64
  s1 : Fin 64
  s2 : Fin 64
  deriving DecidableEq, Repr

/-- An integer divide or remainder (R110). -/
structure DivOp where
  fn : DivFn
  sz : Size
  d  : Fin 64
  s1 : Fin 64
  s2 : Fin 64
  deriving DecidableEq, Repr

/-- A Q multiply (R111): `q31` selects X registers, `r` the rounded forms. -/
structure MulqOp where
  q31 : Bool
  r   : Bool
  d   : Fin 64
  s1  : Fin 64
  s2  : Fin 64
  deriving DecidableEq, Repr

/-- Floating formats (R112). -/
inductive Fmt where
  | h | s | d
  deriving DecidableEq, Repr

/-- The operations of major 0x08 of slot M (R112). -/
inductive FpFn where
  | add | sub | mul | min | max | neg | abs | cmp | cmps | class | frec | frsq
  deriving DecidableEq, Repr

/-- Operands of a two-operand or one-operand floating operation (R112). -/
structure FpOp where
  fmt : Fmt
  d   : Fin 64
  s1  : Fin 64
  s2  : Fin 64
  deriving DecidableEq, Repr

/-- Operands of FMA and FMSB (R113). -/
structure Fp3Op where
  fmt : Fmt
  d   : Fin 64
  s1  : Fin 64
  s2  : Fin 64
  s3  : Fin 64
  deriving DecidableEq, Repr

/-- The type codes of FCVT (R114). -/
inductive CvtTy where
  | f16 | f32 | f64 | sw | sp | sq | uw | up | uq
  deriving DecidableEq, Repr

/-- FCVT (R114). -/
structure FcvtOp where
  dst : CvtTy
  src : CvtTy
  d   : Fin 64
  s1  : Fin 64
  tz  : Bool
  deriving DecidableEq, Repr

/-- VMAC and VMACL (R115). -/
structure VmacOp where
  ad   : Fin 4
  va   : Fin 16
  vb   : Fin 16
  lane : Fin 8
  bc   : Bool
  z    : Bool
  neg  : Bool
  deriving DecidableEq, Repr

/-- VFMA (R116). -/
structure VfmaOp where
  vd   : Fin 16
  va   : Fin 16
  vb   : Fin 16
  vc   : Fin 16
  bc   : Bool
  lane : Fin 8
  deriving DecidableEq, Repr

/-- The sweep lane functions (R117). -/
inductive SweepFn where
  | vadd | vadds | vsub | vsubs | vshl | vsar | vsel | vbcst | vins | vget
  deriving DecidableEq, Repr

/-- A sweep lane operation (R117). -/
structure SweepOp where
  fn   : SweepFn
  vd   : Fin 16
  va   : Fin 16
  vb   : Fin 16
  ws   : Fin 64
  lane : Fin 8
  deriving DecidableEq, Repr

/-- VEXT (R118). -/
structure VextOp where
  vd    : Fin 16
  as    : Fin 4
  shift : Fin 64
  rnd   : Bool
  sat   : Bool
  deriving DecidableEq, Repr

/-- VAPUT (R118). -/
structure VaputOp where
  ad : Fin 4
  va : Fin 16
  vb : Fin 16
  vc : Fin 16
  deriving DecidableEq, Repr

/-- The count operand of REP and REPI (R121): an immediate or CT. -/
inductive RepKind where
  | repImm (count : Fin 512)
  | repCt
  deriving DecidableEq, Repr

/-- The cache line operations (R123). -/
inductive CacheFn where
  | prefd | prefi | pref2 | dcwb | dcinv | dcwbi | icinv | dlock | dunlk | ilock | iunlk
  deriving DecidableEq, Repr

/-- Operands of a cache line operation (R123). -/
structure CacheArg where
  xb  : Fin 32
  seg : Fin 8
  deriving DecidableEq, Repr

/-- TLBI (R122). -/
structure TlbiOp where
  scope : Fin 4
  wr    : Fin 64
  ya    : Fin 16
  deriving DecidableEq, Repr

/-- TWALK (R122). -/
structure TwalkOp where
  wr : Fin 64
  ya : Fin 16
  yb : Fin 16
  deriving DecidableEq, Repr

/-- One operation of a slot, decoded (R96 to R124). `emul` is an operation of majors 0x30 to 0x3F with its word (R126). -/
inductive CoreOp where
  | nop
  | alu (o : AluOp)
  | imm (o : ImmOp)
  | movi (o : MoviOp)
  | br (disp : BitVec 26)
  | bc (cond : Cond) (disp : BitVec 22)
  | bz (wt : Fin 64) (disp : BitVec 20)
  | bnz (wt : Fin 64) (disp : BitVec 20)
  | call (disp : BitVec 26)
  | bri (xt : Fin 32)
  | calli (xt : Fin 32)
  | ret
  | load (o : LmOp)
  | store (o : LmOp)
  | movo (o : MovoOp)
  | fld (o : FldOp)
  | fst (o : FstOp)
  | lseg (sg : Fin 8) (ws : Fin 64)
  | mfs (sg : Fin 8) (ws : Fin 64)
  | casp (o : CaspOp)
  | mul (o : MulOp)
  | div (o : DivOp)
  | mulq (o : MulqOp)
  | fp (fn : FpFn) (o : FpOp)
  | fma (neg : Bool) (o : Fp3Op)
  | fcvt (o : FcvtOp)
  | vmac (o : VmacOp)
  | vfma (o : VfmaOp)
  | sweep (o : SweepOp)
  | vext (o : VextOp)
  | vaput (o : VaputOp)
  | mfc (creg : Fin 128) (xr : Fin 32)
  | mtc (creg : Fin 128) (xr : Fin 32)
  | rep (k : RepKind)
  | repi
  | syse (lv : Fin 4) (code : Word)
  | sysr
  | eret
  | wend
  | tlbw (wr : Fin 64)
  | tlbi (o : TlbiOp)
  | twalk (o : TwalkOp)
  | cache (fn : CacheFn) (o : CacheArg)
  | mbar (kind : Fin 16)
  | pflush (scope : Fin 2)
  | pbar
  | emul (w : Pair)
  deriving DecidableEq, Repr


/-! ### Operands of the commands outside the core -/

/-- What every command of the launch controller carries beside its operands: the party that submitted it, its completion lane,
its handle (R315), its authorization block (R358), and whether the journal's flash took its first entry (R362). -/
structure Req where
  party  : Fin 64
  lane   : Fin 8192
  handle : Word
  keyId  : Pair
  nonce  : Pair
  r      : BitVec 384
  s      : BitVec 384
  flash  : Bool
  deriving DecidableEq, Repr

/-- What the check of a read finds beside what State holds: nothing, a single-bit error, or an uncorrectable error that arose
in the array (R247, R322, R332). -/
inductive EccFind where
  | ok | corrected | bad
  deriving DecidableEq, Repr

/-- What a QDR channel is asked to do (R323, R327). -/
inductive QdrOp where
  | read
  | write (x : Oct)
  | casp (cmp new : Pair)
  deriving DecidableEq, Repr

/-- A request at a QDR channel: word offset in the channel, one or two quads, what to do, for which party, guaranteed or
best-effort, whether port A and port B are busy in that QCLK, and what the read of the first quad and of the second finds. -/
structure QdrReq where
  ch    : Fin 4
  off   : BitVec 25
  oct   : Bool
  op    : QdrOp
  party : Fin 64
  guar  : Bool
  busyA : Bool
  find  : EccFind
  find2 : EccFind := .ok
  busyB : Bool := false
  deriving DecidableEq, Repr

/-- What a read of an LPDDR line finds in the devices beside what State holds: a single-bit error, or uncorrectable quads by
mask (R332). -/
inductive LpdFind where
  | ok | corrected
  | bad (quads : BitVec 8)
  deriving DecidableEq, Repr

/-- What sends at a ring interface (R10, R290): a requester by its code (R455), or the block of a stop: an L2, a memory
controller, the lane engine, the event hub, a port or a block of the system stop. -/
inductive Agent where
  | unit (u : Fin 67)
  | block (stop : Fin 21)
  deriving DecidableEq, Repr

/-- A read at the LPDDR controllers: the source agent, the party (none for the launch controller), the address, what the read
finds, and what the partner's does when a freeze forwards it there (R338), whether the comparators disagree (R335), and whether
the read still waits in its queue when the command ends (R334). -/
structure LpdRead where
  agent  : Agent
  party  : Option (Fin 64)
  addr   : BitVec 36
  find   : LpdFind
  differ : Bool := false
  mirror : LpdFind := .ok
  waits  : Bool := false
  deriving DecidableEq, Repr

/-- A write at the LPDDR controllers; a write of part of a quad also carries what the read that each controller merges it with
finds (R332). -/
structure LpdWrite where
  agent : Agent
  party : Option (Fin 64)
  addr  : BitVec 36
  size  : MSize
  data  : Oct
  find0 : LpdFind := .ok
  find1 : LpdFind := .ok
  deriving DecidableEq, Repr

/-- An on-chip array as the scrub reads it (R249): tight memory, L1D or L1I data or L1 tags of an array set, or the L2 of an
eight; with the word of tight memory, or the way and set of a line and, of its data, the oct. -/
inductive ScrubAt where
  | tight (set : Fin 72) (off : Word)
  | l1d (set : Fin 72) (way : Fin 4) (line : Fin 128) (oct : Fin 4)
  | l1i (set : Fin 72) (way : Fin 4) (line : Fin 128) (oct : Fin 4)
  | tags (set : Fin 72) (code : Bool) (way : Fin 4) (line : Fin 128)
  | l2 (eight : Fin 8) (way : Fin 16) (line : Fin 1024) (oct : Fin 4)
  | l2tags (eight : Fin 8) (way : Fin 16) (line : Fin 1024)
  deriving DecidableEq, Repr

/-- What a gPTP exchange brings (R371): an announcement of a grandmaster with its priority1, what else ranks it and the steps
to it; a two-step synchronisation, with the origin's time as corrected on the way and the time of its reception; the four times
of a peer-delay exchange. -/
inductive GptpBody where
  | announce (prio1 : Byte) (rest : BitVec 104) (steps : Word)
  | sync (origin received : Quad)
  | peerDelay (t1 t2 t3 t4 : Quad)
  deriving DecidableEq, Repr

/-- A gPTP message as a plant port receives it. -/
structure GptpMsg where
  port : Fin 2
  body : GptpBody
  deriving DecidableEq, Repr

/-- How the training of the pair link ends (R394): the lanes this end deskewed, and whether both ends hold four. -/
structure AlignEnd where
  good : BitVec 5
  both : Bool
  deriving DecidableEq, Repr

/-- What the partner sends in ATTENTION (R395, R396, R444): whether the exchange ended in time, whether its report verifies,
its UID and nonce, its live or else admitted plan, its mirror table, its roles' inputs, its TB, the measured round trip, and
the catch it names where it is the one to name the first. -/
structure Partner where
  inTime    : Bool
  reportOk  : Bool
  uid       : Quad
  live      : Bool
  admitted  : Bool
  planId    : Pair
  planSeq   : Pair
  digest    : BitVec 384
  nonce     : Quad
  mirror    : List Pair
  drove     : Bool
  pref      : Bool
  activeFor : Quad
  tb        : Quad
  rtt       : Word
  start     : Quad
  deriving DecidableEq, Repr

/-- The decision of a chip at its commit catch (R51): whether it holds an ARMED bank, and that plan's PLANID, SEQ and digest. -/
structure PlanMark where
  armed  : Bool
  planId : Pair
  seq    : Pair
  digest : BitVec 384
  deriving DecidableEq, Repr

/-- What a pair-link flit carries (R51, R393, R397, R400, R403): a TB stamp, a negative acknowledgement, mirror data, the
mirror's end, the partner's decision on its armed plan, or on the mirror table it holds armed and whether that is this chip's,
and a yield. -/
inductive PairBody where
  | idle (tb : Quad)
  | nak
  | mirror (x : BitVec 256)
  | mirrorEnd (stroke : Quad)
  | decision (m : PlanMark)
  | mirrorDecision (same : Bool)
  | yield_
  deriving DecidableEq, Repr

/-- What is found of a lane of the pair link (R398): the lane, whether it has lost block lock, and its errors in the last
millisecond. -/
structure LaneFault where
  lane   : Fin 5
  lost   : Bool
  errors : Word
  deriving DecidableEq, Repr

/-- A flit as it arrives on the pair link, with the acknowledgement it carries: the sequence number its sender expects next. -/
structure PairFlit where
  crcOk : Bool
  seq   : BitVec 12
  ack   : BitVec 12
  body  : PairBody
  deriving DecidableEq, Repr

/-- A cache way whose clearing completes (R238): a way of the L2 of an eight, or of L1I (`code`) or L1D of a core. -/
inductive ClearAt where
  | l2 (eight : Fin 8) (way : Fin 16)
  | l1 (core : Fin 64) (code : Bool) (way : Fin 4)
  deriving DecidableEq, Repr

/-- What the fuses of the part hold (R353, R359, R433): the device secret, the UID, the lifecycle state at manufacture, and the
maker's key, whose digest is fused, under its KEYID. -/
structure Fuses where
  secret    : BitVec 256
  uid       : Quad
  lifecycle : Fin 5
  makerKey  : Pair
  makerX    : BitVec 384
  makerY    : BitVec 384
  deriving DecidableEq, Repr

/-- A slot of the credential store as the flash came with it (R359): role 0 empty, 1 operator, 2 installer, 3 revoked. -/
structure CredSet where
  role  : Fin 4
  keyId : Pair
  x     : BitVec 384
  y     : BitVec 384
  deriving DecidableEq, Repr

/-- A copy of the directory of the boot flash (R439): whether its CRC-32 is valid, its SEQ, and the slots of launch firmware
its flags mark as active and as pending. -/
structure DirCopy where
  crcOk   : Bool
  seq     : Pair
  active  : Fin 2
  pending : Option (Fin 2)
  deriving DecidableEq, Repr

/-- What step FLASH finds (R438 to R440): whether xSPI was set up, and the two copies of the directory. -/
structure FlashRead where
  ok    : Bool
  copy0 : DirCopy
  copy1 : DirCopy
  deriving DecidableEq, Repr

/-- What step CREDENTIALS reads (R439, R440): the region CREDS, what BOOTPARM holds with the words of that region as they are
signed, and whether the journal's chain holds. -/
structure BootCreds where
  slots   : List CredSet
  partner : Quad
  twait   : Word
  pwait   : Word
  pairen  : Bool
  plt0    : Pair
  plt1    : Pair
  parm    : List Word
  chainOk : Bool
  deriving DecidableEq, Repr

/-- What PORTTAB holds for a field port (R439): FPPROF0 to FPPROF2, FPCFG and AUTOON. -/
structure FieldSet where
  port   : Fin 32
  p0     : Pair
  p1     : Pair
  p2     : Pair
  cfg    : Pair
  autoOn : Bool
  deriving DecidableEq, Repr

/-- The region PORTTAB (R439): its words as they are signed, and what they hold for the ports. -/
structure PortTab where
  words : List Word
  ports : List FieldSet
  deriving DecidableEq, Repr

/-- The kinds of traffic that the tables of R291 and R292 list: an access or register access, a far operation, an access or
delivery of a pinned lane's step, the response to a request of either class, an event occurrence or notification, a hand-off at
a sample instant, traffic the plan schedules for a plant port or the pair link, and traffic of the launch controller. -/
inductive Traffic where
  | access
  | farOp
  | laneStep
  | reply (guar : Bool)
  | notice
  | handOff
  | planned
  | management
  deriving DecidableEq, Repr

/-- A flit an agent offers to its ring interface (R290 to R292): the agent, destination stop, kind of traffic, party, tag and
oct. -/
structure FlitArg where
  agent : Agent
  dst   : Fin 21
  kind  : Traffic
  party : Fin 64
  tag   : Word
  data  : Oct
  deriving DecidableEq, Repr

/-- What a ring interface places (R300): its stop, and the flit an agent offers there now, if any. -/
structure Placing where
  stop : Fin 21
  flit : Option FlitArg
  deriving DecidableEq, Repr

/-- A QDR window of the live plan (R33): its channel and its entry. -/
structure QwinAt where
  ch : Fin 4
  i  : Fin 1024
  deriving DecidableEq, Repr

/-- How far the remirror of a controller has come (R339): whether its training passed, the device lines copied, and the quads
that the reads of the partner find uncorrectable, by device line. -/
structure Remirrored where
  k       : Fin 2
  trained : Bool
  lines   : BitVec 29
  found   : List (BitVec 28 × BitVec 8) := []
  deriving DecidableEq, Repr

/-- Who waits for the response of a request (R303): a core, after a stall of some cycles, the lane engine for a step of a lane,
or another agent. -/
inductive Waiter where
  | core (core : Fin 64) (cycles : Word)
  | lane (lane : Fin 8192)
  | other (agent : Agent)
  deriving DecidableEq, Repr

/-- What a flit meets on its way (R290); the consumer of one whose data is uncorrectable is named with it, and the address of
the oct that a write carries. -/
inductive FlitErr where
  | none | corrected | header
  | data (who : Waiter) (store : Option (BitVec 36) := none)
  deriving DecidableEq, Repr

/-- The key of a request whose response timed out (R303): its ring, destination stop, party and tag, and who waited. -/
structure TimeoutArg where
  ring  : Fin 4
  dst   : Fin 21
  party : Fin 64
  tag   : Word
  who   : Waiter
  deriving DecidableEq, Repr

/-- The instructions of the test access port (R466). -/
inductive TapInstr where
  | bypass | idcode | sample | extest | clamp | highz
  deriving DecidableEq, Repr

/-- A scan of the test access port: of its instruction register, or of the data register the instruction selects, with the bits
shifted in at TDI, first bit first. -/
inductive TapScan where
  | ir (i : TapInstr)
  | dr (bits : List Bool)
  deriving DecidableEq, Repr

/-- A PEND, ENA or MASK group (R283, R285): group 0 to 31 of a party's window, or of the launch controller's page of all
sources. -/
inductive GroupKind where
  | pend | ena | mask
  deriving DecidableEq, Repr

/-- A group register (R283, R285). -/
structure GroupAt where
  all  : Bool
  kind : GroupKind
  g    : Fin 32
  deriving DecidableEq, Repr

/-- The selector registers of R189. -/
inductive SelReg where
  | vecs | vecm | stks | stkm | syscss | syscsm
  deriving DecidableEq, Repr

/-- The safe points of R452; `none_` for a live register. -/
inductive SafePt where
  | none_ | catch_ | commit | training | pair | tbctl
  deriving DecidableEq, Repr

end Sys2Proof.Machine

namespace Sys2Proof

open Machine

/-- A command: one constructor for each row of the table of steps. (DESIGN CHOICE, log entry 12) -/
inductive Instr where
  /-- R95. A bundle issues: all four slots are decoded and checked as a whole before any slot acts, and the cause to take is
  chosen by rank and slot order. -/
  | bundleIssue (core : Fin 64)
  /-- R64. An operation's result is written to its register at the end of cycle c + L - 1; same-cycle landings are resolved by
  issue order and slot priority. -/
  | resultLanding (core : Fin 64)
  /-- R97. An R-format integer, logic, shift, compare or move operation computes D := S1 op S2 and, with SF set, writes the
  integer flags. -/
  | aluOperation (core : Fin 64) (onB : Bool) (o : AluOp)
  /-- R98. ADDI, ANDI, ORI, XORI, SHLI, SHRI, SARI or CMPI computes with a sign-extended 12-bit immediate. -/
  | immediateOperation (core : Fin 64) (onB : Bool) (o : ImmOp)
  /-- R99. MOVI loads a register from IMM16 as its KV field selects. -/
  | movi (core : Fin 64) (onB : Bool) (o : MoviOp)
  /-- R101. A direct branch issues its two delay slots and then its target at c + 3. -/
  | br (core : Fin 64) (disp : BitVec 26)
  /-- R102. A conditional branch tests FL at issue against its COND field and is taken or not, with two delay slots. -/
  | bc (core : Fin 64) (cond : Cond) (disp : BitVec 22)
  /-- R101. BZ branches when the named W register is zero. -/
  | bz (core : Fin 64) (wt : Fin 64) (disp : BitVec 20)
  /-- R101. BNZ branches when the named W register is not zero. -/
  | bnz (core : Fin 64) (wt : Fin 64) (disp : BitVec 20)
  /-- R74. CALL writes LK with the offset after the second delay slot and branches to its target. -/
  | call (core : Fin 64) (disp : BitVec 26)
  /-- R103. BRI branches to the offset in an X register, at c + 3 if predicted and c + 5 otherwise. -/
  | bri (core : Fin 64) (xt : Fin 32)
  /-- R103. CALLI reads its target register, writes LK and branches indirectly. -/
  | calli (core : Fin 64) (xt : Fin 32)
  /-- R103. RET branches to the offset held in LK at issue. -/
  | ret (core : Fin 64)
  /-- R104. LDW, LDP, LDQ or LDO forms a segment offset, is checked in the order of R205, and loads into the target register. -/
  | load (core : Fin 64) (o : LmOp)
  /-- R104. STW, STP, STQ or STO writes the target register, read at issue, to memory after the checks of R205. -/
  | store (core : Fin 64) (o : LmOp)
  /-- R106. MOVO copies one oct between two segment offsets, reading in c + 1, with optional increment of both offsets. -/
  | movo (core : Fin 64) (o : MovoOp)
  /-- R69. A far load copies one oct from QDR to the context's tight-memory region in its ACCESS entry's first granule. -/
  | fld (core : Fin 64) (o : FldOp)
  /-- R69. A far store copies the oct of a V register to a QDR address in its ACCESS entry's first granule. -/
  | fst (core : Fin 64) (o : FstOp)
  /-- R69. An outstanding far operation completes its QDR transfer by the end of its ACCESS span. -/
  | farOperationComplete (core : Fin 64)
  /-- R108. LSEG loads a segment register with a selector and captures and checks its descriptor. -/
  | lseg (core : Fin 64) (sg : Fin 8) (ws : Fin 64)
  /-- R108. MFS writes a W register with the selector held in a segment register. -/
  | mfs (core : Fin 64) (sg : Fin 8) (ws : Fin 64)
  /-- R109. CASP reads a pair and writes a new pair if it equals the compare value, indivisibly at the memory, stalling the
  core until the reply. -/
  | casp (core : Fin 64) (o : CaspOp)
  /-- R134. MUL, MULW, MULWU, MULH or MULHU forms a product on the iterative multiplier at the contract latency. -/
  | mul (core : Fin 64) (o : MulOp)
  /-- R135. DIV, DIVU, REM or REMU forms a quotient or remainder, with defined saturating results for division by zero and
  overflow. -/
  | div (core : Fin 64) (o : DivOp)
  /-- R138. A Q15 or Q31 multiply returns the truncated or rounded product, saturating only for -1 times -1. -/
  | mulq15 (core : Fin 64) (o : MulqOp)
  /-- R143. FADD adds two floating operands, rounded once by ST.RM. -/
  | fadd (core : Fin 64) (o : FpOp)
  /-- R143. FSUB subtracts two floating operands, rounded once by ST.RM. -/
  | fsub (core : Fin 64) (o : FpOp)
  /-- R143. FMUL multiplies two floating operands, rounded once by ST.RM. -/
  | fmul (core : Fin 64) (o : FpOp)
  /-- R113. FMA computes S3 + S1 x S2 with one rounding. -/
  | fma (core : Fin 64) (o : Fp3Op)
  /-- R113. FMSB computes S3 - S1 x S2 with one rounding. -/
  | fmsb (core : Fin 64) (o : Fp3Op)
  /-- R150. FMIN returns the smaller operand with defined zero and NaN handling. -/
  | fmin (core : Fin 64) (o : FpOp)
  /-- R150. FMAX returns the larger operand with defined zero and NaN handling. -/
  | fmax (core : Fin 64) (o : FpOp)
  /-- R149. FNEG inverts the sign bit and passes every other bit unchanged. -/
  | fneg (core : Fin 64) (o : FpOp)
  /-- R149. FABS clears the sign bit and passes every other bit unchanged. -/
  | fabs (core : Fin 64) (o : FpOp)
  /-- R151. FCMP writes a relation mask and sets NV only for a signalling NaN. -/
  | fcmp (core : Fin 64) (o : FpOp)
  /-- R151. FCMPS writes a relation mask and sets NV for any NaN. -/
  | fcmps (core : Fin 64) (o : FpOp)
  /-- R112. FCLASS writes the class mask of the operand as stored. -/
  | fclass (core : Fin 64) (o : FpOp)
  /-- R156. FREC writes the bit-exact 8-bit reciprocal estimate. -/
  | frec (core : Fin 64) (o : FpOp)
  /-- R157. FRSQ writes the bit-exact 8-bit reciprocal-square-root estimate. -/
  | frsq (core : Fin 64) (o : FpOp)
  /-- R114. FCVT converts between floating and integer types, rounding and saturating as R152 to R154 fix. -/
  | fcvt (core : Fin 64) (o : FcvtOp)
  /-- R115. VMAC adds eight 16-bit products, lane-wise or broadcast, into a 40-bit accumulator with clamping. -/
  | vmac (core : Fin 64) (o : VmacOp)
  /-- R116. VFMA performs eight binary16 fused multiply-adds and ORs their flags into FL. -/
  | vfma (core : Fin 64) (o : VfmaOp)
  /-- R117. VADD, VADDS, VSUB, VSUBS, VSHL, VSAR, VSEL, VBCST, VINS or VGET acts on sweep lanes at latency 2. -/
  | sweepLaneOperation (core : Fin 64) (o : SweepOp)
  /-- R118. VEXT shifts, rounds and optionally saturates each accumulator lane into a V register. -/
  | vext (core : Fin 64) (o : VextOp)
  /-- R118. VAPUT writes each accumulator lane from three V register words. -/
  | vaput (core : Fin 64) (o : VaputOp)
  /-- R119. MFC reads a core control register into an X register, subject to its least level. -/
  | mfc (core : Fin 64) (creg : Fin 128) (xr : Fin 32)
  /-- R119. MTC writes a core control register from an X register, subject to its least level and field limits. -/
  | mtc (core : Fin 64) (creg : Fin 128) (xr : Fin 32)
  /-- R189. MTC to VECS, VECM, STKS, STKM, SYSCSS or SYSCSM reads and captures the descriptor of the written selector. -/
  | mtcSelector (core : Fin 64) (which : SelReg) (xr : Fin 32)
  /-- R166. An MTC to PKEYH commits the staged scrambling key and flushes the running context's predictor entries. -/
  | pkeyhWrite (core : Fin 64) (xr : Fin 32)
  /-- R219. An MTC to TLBRD copies TLB entry INDEX into the four TLB staging registers. -/
  | tlbrdWrite (core : Fin 64) (xr : Fin 32)
  /-- R222. Writing WCCTL.INV invalidates every walk-cache entry of the current world. -/
  | wcctlInv (core : Fin 64) (xr : Fin 32)
  /-- R81. REP captures a count of at most 256 and issues the repeated bundle that many times without interruption. -/
  | rep (core : Fin 64) (k : RepKind)
  /-- R87. REPI captures a count from CT and issues the repeated bundle, decrementing CT after each iteration, interruptible
  between iterations. -/
  | repi (core : Fin 64)
  /-- R187. SYSE enters a higher level through the shadow registers without touching memory. -/
  | syse (core : Fin 64) (lv : Fin 4) (code : Word)
  /-- R188. SYSR returns from a system call through the shadow registers of the current level. -/
  | sysr (core : Fin 64)
  /-- R186. ERET reads and checks the 16-word frame, restores ST, FL, CSG and PC, and resumes with any pending delay slots or
  repetition. -/
  | eret (core : Fin 64)
  /-- R28. WEND ends a window's work early and feathers the core until the closing instant or, in an open window, the next
  event delivery. -/
  | wend (core : Fin 64)
  /-- R213. TLBW writes TLB entry WR from the staging registers, invalid if the staged leaf is not well-formed. -/
  | tlbw (core : Fin 64) (wr : Fin 64)
  /-- R217. TLBI invalidates TLB and walk-cache entries of the current world by SCOPE. -/
  | tlbi (core : Fin 64) (o : TlbiOp)
  /-- R220. TWALK walks the page tables for a linear address, stalling per read, and writes a status code and possibly the
  leaf. -/
  | twalk (core : Fin 64) (o : TwalkOp)
  /-- R234. PREFD fills a line into L1D without stalling, or does nothing where it would fault. -/
  | prefd (core : Fin 64) (o : CacheArg)
  /-- R234. PREFI fills a line into L1I without stalling, or does nothing where it would fault. -/
  | prefi (core : Fin 64) (o : CacheArg)
  /-- R234. PREF2 fills a line into the party's L2 ways only. -/
  | pref2 (core : Fin 64) (o : CacheArg)
  /-- R234. DCWB writes a dirty L1D line to L2 and then to memory, leaving both copies clean. -/
  | dcwb (core : Fin 64) (o : CacheArg)
  /-- R234. DCINV invalidates a line in L1D and L2, discarding dirty data and unlocking it. -/
  | dcinv (core : Fin 64) (o : CacheArg)
  /-- R234. DCWBI writes back and then invalidates a line in L1D and L2. -/
  | dcwbi (core : Fin 64) (o : CacheArg)
  /-- R234. ICINV invalidates a line in L1I. -/
  | icinv (core : Fin 64) (o : CacheArg)
  /-- R235. DLOCK fills and locks an L1D line in a lockable way, recording the result in LKSTAT. -/
  | dlock (core : Fin 64) (o : CacheArg)
  /-- R234. DUNLK unlocks an L1D line, leaving it valid. -/
  | dunlk (core : Fin 64) (o : CacheArg)
  /-- R235. ILOCK fills and locks an L1I line in a lockable way, recording the result in LKSTAT. -/
  | ilock (core : Fin 64) (o : CacheArg)
  /-- R234. IUNLK unlocks an L1I line, leaving it valid. -/
  | iunlk (core : Fin 64) (o : CacheArg)
  /-- R242. MBAR stalls until the earlier accesses of its selected kinds have reached their points of visibility. -/
  | mbar (core : Fin 64) (kind : Fin 16)
  /-- R172. PFLUSH invalidates the running context's or the current world's predictor state. -/
  | pflush (core : Fin 64) (scope : Fin 2)
  /-- R173. PBAR completes earlier predictor updates and discards the fetch-ahead buffer. -/
  | pbar (core : Fin 64)
  /-- R167. A branch updates the BTB, direction table, history and return stack at the end of cycle c + 3. -/
  | predictorUpdate (core : Fin 64)
  /-- R175. In an open window the fetch unit reads ahead along the predicted or sequential path, allocating nothing and raising
  nothing. -/
  | fetchAhead (core : Fin 64)
  /-- R80. The fill of a missed line arrives and every unit resumes, landing results at their contract distances. -/
  | fillArrival (core : Fin 64) (cycles : Word)
  /-- R477. The reply to an uncached or register-space load arrives, completing the held bundle or raising DBUS on a bus
  error. -/
  | uncachedReply (core : Fin 64) (err : Bool) (cycles : Word)
  /-- R183. After in-flight results land, the core checks and pushes the 16-word frame, exchanges stacks and vectors to the
  handler of level H, including for INTR. -/
  | exceptionEntry (core : Fin 64)
  /-- R277. A rise of the hub's request line wakes a core feathered after WEND in an open window. -/
  | coreWake (core : Fin 64)
  /-- R22. The timebase reaches a catch instant; a new stroke begins, the stroke number advances and ring frames and gate lists
  restart. -/
  | catchInstant (go : Option PlanMark)
  /-- R25. At a window's START in a stroke where it runs, the cox ungates the core and does the entry work in the entry band. -/
  | windowStart (core : Fin 64) (i : Fin 4096)
  /-- R56. At the closing instant issue stops, overruns are judged, and the cox does the exit work in the guard band. -/
  | closingInstant (core : Fin 64)
  /-- R56. An open window still in an uninterruptible operation BOUND granules after the closing instant is abandoned, saved
  and marked damaged. -/
  | nistall (core : Fin 64)
  /-- R48. PLAN_LOAD copies a plan image into the inactive bank and runs the plan checker, leaving it ADMITTED or EMPTY. -/
  | planLoad (q : Req) (addr : Quad) (len : Pair)
  /-- R50. PLAN_ARM arms the admitted bank for a switch catch after the ALIGN, LATE and PARTNER checks. -/
  | planArm (q : Req) (t : Quad)
  /-- R48. PLAN_DISARM returns an ARMED bank to ADMITTED unless the commit catch has decided go. -/
  | planDisarm (q : Req)
  /-- R48. PLAN_DISCARD returns an ADMITTED bank to EMPTY. -/
  | planDiscard (q : Req)
  /-- R238. The clearing of a way completes, allowing its lookup and allocation and the dependent scrubs and power-down. -/
  | clearingComplete (way : ClearAt)
  /-- R253. An eight unused by the live plan is power-gated after its clearing has finished. -/
  | eightPowerDown (e : Fin 8)
  /-- R259. The self-test of a pipeline in TEST ends; the pipeline becomes SPARE, or RETIRED and journaled. -/
  | coreSelfTestComplete (pi : Fin 72) (pass : Bool)
  /-- R260. ARRAY_MOVE mirrors writes to the spare array set and starts a background copy of the core's arrays. -/
  | arrayMove (q : Req) (core : Fin 64)
  /-- R260. The background array copy completes and the spare array set takes over the connection at the next catch. -/
  | arrayCopyComplete (e : Fin 8)
  /-- R268. CORE_SUBST raises a rank 4 substitution trigger for an architectural core. -/
  | coreSubst (q : Req) (core : Fin 64)
  /-- R268. CORE_TEST starts the self-test of a SPARE or RETIRED pipeline. -/
  | coreTest (q : Req) (pi : Fin 72)
  /-- R261. Once per millisecond each pipeline's aging monitor measures its timing margin and may warn. -/
  | agingSample (pi : Fin 72) (margin : BitVec 10)
  /-- R266. The checker finds a twin's register write, access or window event differs; both pipelines stop and the mismatch is
  recorded. -/
  | lockstepMismatch (core : Fin 64) (kind : Fin 5) (item : Pair)
  /-- R253. An eight powering up after a commit catch finishes within 40 µs, with cleared arrays, and ESTAT.PWR moves from
  powering up to on. -/
  | eightPowerUpComplete (e : Fin 8)
  /-- R272. An occurrence of a source arrives at the hub and sets PEND if ENA is 1. -/
  | eventOccurrence (source : Fin 0x32F)
  /-- R276. Every 4 NCLK the hub recomputes effective targets and best candidates and drives each target's request line. -/
  | hubEvaluation
  /-- R281. A target's moderation timer reaches DELAY granules and releases its request line. -/
  | moderationTimerExpiry (target : Fin 128)
  /-- R278. A read of IACK acknowledges the best candidate, pushing it on the running-priority stack, or returns 0x3FF. -/
  | iack (unit : Fin 67)
  /-- R279. A write of IEOI pops the running-priority stack and clears ACTIVE of the popped source. -/
  | ieoi (unit : Fin 67) (x : Pair)
  /-- R282. A write of CFGW sets the priority, target and fallback of one owned source in one cycle. -/
  | cfgw (unit : Fin 67) (x : Pair)
  /-- R287. A write of SWSET raises an occurrence of an owned software source. -/
  | swset (unit : Fin 67) (x : Pair)
  /-- R285. A write to a PEND, ENA or MASK group sets the owned bits that WMASK selects. -/
  | groupWrite (unit : Fin 67) (group : GroupAt) (x : Pair)
  /-- R301. A flit reaches its destination ring interface and is accepted, corrected, or refused for room or sequence. -/
  | flitArrival (ring : Fin 4) (src : Fin 21) (t : Quad) (err : FlitErr)
  /-- R300. A ring interface places a seated, best-effort or refused flit into the slot at its stop. -/
  | flitPlacement (ring : Fin 4) (dt : BitVec 32) (f : Placing)
  /-- R301. The acceptance or refusal mark reaches the source 46 NCLK after placement, releasing or re-sending the retained
  flits. -/
  | acceptanceMark (ring : Fin 4) (src : Fin 21) (t : Quad)
  /-- R303. A source that waits 65,536 NCLK for a response receives an error response and logs the key. -/
  | responseTimeout (o : TimeoutArg)
  /-- R305. A write of LSTAT.EN starts or stops a lane, taking its configuration whole. -/
  | lstatWrite (unit : Fin 67) (lane : Fin 8192) (x : Pair)
  /-- R306. A write of LPTR.PIDX hands descriptors to the lane engine, or puts the lane in ERROR. -/
  | doorbell (unit : Fin 67) (lane : Fin 8192) (x : Pair)
  /-- R308. When both rings hold descriptors and a unit is free the engine copies a message and writes both statuses. -/
  | messageCopy (lane : Fin 8192)
  /-- R312. A read of LNRD returns and clears the lowest notified lane of the reader's party for LNSEL.SRC. -/
  | lnrd (unit : Fin 67)
  /-- R310. A port hand-off at a sample instant writes one sample oct to a pinned lane's address. -/
  | pinnedInboundStep (lane : Fin 8192)
  /-- R310. At a TRIGGER window's closing instant a pinned lane reads one oct and delivers it to its port. -/
  | pinnedOutboundStep (lane : Fin 8192)
  /-- R315. A command descriptor on a command lane gets a handle and is passed to the launch controller. -/
  | commandSubmission (lane : Fin 8192)
  /-- R317. A long operation completes and its record is written at the completion lane's CIDX, freeing its handle. -/
  | completionRecord (lane : Fin 8192)
  /-- R323. A QDR channel assigns an accepted request to a port and performs it. -/
  | qdrAccess (r : QdrReq)
  /-- R33. At a QDR window's start instant the channel reserves its ports for one party. -/
  | qdrWindowStart (ch : Fin 4) (i : Fin 1024)
  /-- R33. At the end instant of a QDR window the channel releases its reserved ports to best-effort requests. -/
  | qdrWindowEnd (ch : QwinAt)
  /-- R325. After 100 ms the controller recalibrates impedance in the first free stretch of 64 QCLK. -/
  | qdrRecalibration (ch : Fin 4)
  /-- R328. The patrol scrub reads a quad in an idle port cycle and corrects or poisons it. -/
  | qdrPatrolScrub (ch : Fin 4) (find : EccFind)
  /-- R334. An LPDDR controller serves a read, checking ECC and classing any error. -/
  | lpddrRead (r : LpdRead)
  /-- R334. An LPDDR write is accepted into both mirrors' queues and drained to the devices. -/
  | lpddrWrite (r : LpdWrite)
  /-- R336. Every 4 ms the controller reads MR4 of every die and sets the refresh rate. -/
  | mr4Reading (k : Fin 2) (code : Fin 8)
  /-- R336. The per-bank refresh interval expires and the controller refreshes a bank. -/
  | lpddrRefresh (k : Fin 2) (chan : Fin 4) (rank : Fin 2) (bank : Fin 8)
  /-- R338. The LPDDR patrol scrub reads a line once per 2^LDRUN.PASSLOG hours and corrects it, or finds an uncorrectable error
  that may freeze the controller. -/
  | lpddrPatrolScrub (k : Fin 2) (find : LpdFind)
  /-- R341. MEM_DIAG retrains a frozen controller and tests the row of the error. -/
  | memDiag (q : Req) (k : Fin 2) (result : Word) (count : Pair)
  /-- R339. MEM_REMIRROR retrains a controller and copies every device line from its partner in SYNC. -/
  | memRemirror (q : Req) (k : Fin 2)
  /-- R339. The remirror copy ends and the controller becomes LIVE. -/
  | remirrorComplete (k : Remirrored)
  /-- R249. An on-chip array is scrubbed one oct in an idle cycle, correcting or logging errors. -/
  | arrayScrub (place : ScrubAt) (find : EccFind)
  /-- R344. After reset and scrub the new owner's entry takes effect and lanes and sources reset. -/
  | handOverClaim (kind : Fin 6) (first : Fin 0x1000000) (ok : Bool)
  /-- R350. The restart work of a partition ends and it becomes RUN at the next catch. -/
  | restartWorkComplete (k : Fin 256)
  /-- R348. PART_START makes a STOPPED partition RUN from the next catch. -/
  | partStart (q : Req) (k : Word)
  /-- R348. PART_STOP makes a partition STOPPED. -/
  | partStop (q : Req) (k : Word)
  /-- R350. PART_RESTART calls for a restart of a partition. -/
  | partRestart (q : Req) (k : Word)
  /-- R355. WORLD_RESTART starts a restart of the Web or Deckle world. -/
  | worldRestart (q : Req) (deckle : Bool)
  /-- R354. A write to DWKICK by a Deckle monitor reloads the watchdog. -/
  | dwkick (unit : Fin 67)
  /-- R354. The Deckle watchdog reaches 0 and starts a Deckle world restart. -/
  | deckleWatchdogExpiry
  /-- R355. The Deckle world is reset, remeasured and reloaded, or becomes FAILED. -/
  | deckleWorldRestart (deckle : Bool) (image : List Word)
  /-- R357. A write of GATEREQ gates or ungates a port if every user is the requester. -/
  | gatereq (unit : Fin 67) (x : Pair)
  /-- R353. ATTEST writes a signed attestation report to the requester's buffer. -/
  | attest (q : Req) (nonce : Quad) (addr : Quad)
  /-- R365. EVENT_ACK acknowledges an alarm record. -/
  | eventAck (q : Req) (seq : Quad)
  /-- R367. JOURNAL_READ copies journal entries to the requester's buffer. -/
  | journalRead (q : Req) (first : Quad) (count : Pair) (addr : Quad)
  /-- R359. CRED_ENROL enrols a credential in a store slot. -/
  | credEnrol (q : Req) (slot : Word) (role : Word) (x : BitVec 384) (y : BitVec 384) (keyId : Pair)
  /-- R359. CRED_REVOKE revokes a credential slot. -/
  | credRevoke (q : Req) (slot : Word)
  /-- R367. POLICY_SET sets OPPOL and ROLECFG. -/
  | policySet (q : Req) (oppol : Quad) (cfg : Pair)
  /-- R439. FW_UPDATE writes the inactive firmware slot and marks it pending. -/
  | fwUpdate (q : Req) (addr : Quad) (len : Pair)
  /-- R360. LIFECYCLE sets the target lifecycle state entered at the next POR. -/
  | lifecycle (q : Req) (target : Word)
  /-- R364. ANCHOR_RENEW advances the anchor EPOCH and resets STEP. -/
  | anchorRenew (q : Req)
  /-- R376. At a sample instant a field port hands its sample oct to the lane engine for each named lane. -/
  | sampleInstant (n : Fin 32) (i : Fin 64)
  /-- R378. At a transmit instant a field port sends a frame with the last delivered oct, or counts a stale instant. -/
  | transmitInstant (n : Fin 32) (i : Fin 64)
  /-- R376. A received field-port frame loads the sample register or goes to the best-effort lane. -/
  | fieldFrameReceived (n : Fin 32) (bytes : List Byte) (fcsOk : Bool) (stamp : Quad)
  /-- R381. Every 500 ns the supervisor converts VS and IS and judges the trip conditions. -/
  | supervisorConversion (n : Fin 32) (vs : Word) (is : Word) (fast : Bool) (checkOk : Bool)
  /-- R383. A write of FPCTL.REARM closes the supply switch subject to TOFF and limits. -/
  | rearm (unit : Fin 67) (n : Fin 32)
  /-- R383. After TSOFT the port leaves SOFT and becomes ON. -/
  | softStartEnd (n : Fin 32)
  /-- R375. Auto-negotiation brings a field-port link up or down. -/
  | fieldLinkChange (n : Fin 32) (up : Bool) (p24 : Bool) (req24 : Bool) (insist : Bool) (leader : Bool)
  /-- R403. PORT_PROFILE stages a port's supervisor profile for the next catch. -/
  | portProfile (q : Req) (n : Fin 32) (p0 : Pair) (p1 : Pair) (p2 : Pair)
  /-- R388. A plant-port gate control list entry begins and sets the gates. -/
  | gateControlEntry (k : Fin 2) (i : Fin 256)
  /-- R390. A plant-port frame is handed to the inbound lane with its receive stamp. -/
  | plantFrameReceived (k : Fin 2) (bytes : List Byte) (fcsOk : Bool) (stamp : Quad)
  /-- R387. Plant-port training fails after 500 ms and restarts. -/
  | trainingTimeout (k : Fin 2)
  /-- R387. A plant port completes training and gains link, or loses block lock and link, restarting training and raising
  source +0. -/
  | plantLinkChange (k : Fin 2) (up : Bool)
  /-- R389. A stream's recovery resets after RESETMS without a frame. -/
  | streamRecoveryReset (k : Fin 2) (i : Fin 64)
  /-- R403. PAIR_BIND records the partner UID. -/
  | pairBind (q : Req) (uid : Quad)
  /-- R403. PAIR_MIRROR stages the mirror table and switches it at a catch. -/
  | pairMirror (q : Req) (t : Quad) (cfg : Pair) (mstart : Pair) (apply : Pair) (mirs : List Pair)
  /-- R371. A gPTP message is processed by the launch controller's servo. -/
  | gptpMessage (m : GptpMsg)
  /-- R371. The selected time source is lost, so the servo keeps the last RATE and sets TBSTAT.HOLD. -/
  | timeSourceLost
  /-- R368. TB reaches a TBALARM instant and raises its source. -/
  | tbAlarm (k : Fin 4)
  /-- R370. The launch controller steps TB while no plan bank is live or armed. -/
  | tbStep (t : Quad)
  /-- R373. A read of TBNOWL latches the high half into the requester's TBNOWH. -/
  | tbnowlRead (unit : Fin 67)
  /-- R394. The pair link trains and deskews its lanes. -/
  | align (e : AlignEnd)
  /-- R395. The chips exchange signed reports and enter GO or leave. -/
  | attention (x : Partner)
  /-- R397. A pair-link flit arrives and is checked, acknowledged or replayed. -/
  | pairFlit (f : PairFlit)
  /-- R397. No valid flit for 4 µs drops the pair link to SILENT. -/
  | linkLoss
  /-- R398. A failed pair-link lane moves to the spare. -/
  | laneFailure (x : LaneFault)
  /-- R398. A failed pair-link lane completes its background retraining and becomes the spare. -/
  | pairLaneRetrained (k : Fin 5)
  /-- R399. A yield message makes the partner active at the next catch. -/
  | yieldMessage
  /-- R400. At MSTART the active chip sends mirrored regions to the standby. -/
  | mirrorStart
  /-- R414. A trigger moves trace to WAKE and writes a TRIG frame. -/
  | trigger (src : Fin 6)
  /-- R414. After TRWAKE trace writes END and stops. -/
  | wakeEnd
  /-- R414. A write of TRCTL.FIRE is trigger source 0. -/
  | traceFire (unit : Fin 67) (x : Pair)
  /-- R413. A full encoder drops packets and emits OVF then SYNC. -/
  | traceOverflow (core : Fin 64)
  /-- R412. A trace encoder sends a frame to the funnel. -/
  | frameSend (core : Fin 64)
  /-- R416. DIAG_WRITE writes a TRC or PMC register and commits. -/
  | diagWrite (q : Req) (page : Word) (off : Word) (x : Pair)
  /-- R416. DIAG_READ copies registers or trace data to the requester's buffer. -/
  | diagRead (q : Req) (src : Word) (first : Pair) (count : Pair) (addr : Quad)
  /-- R420. A counter passes its limit, wraps and raises source 0x327. -/
  | counterOverflow (pi : Fin 72) (k : Fin 8)
  /-- R421. A read of PMCNTkL latches the high half into the requester's bank. -/
  | pmcntRead (unit : Fin 67) (pi : Fin 72) (k : Fin 8)
  /-- R421. A write of PMCNTkH loads the counter with both halves. -/
  | pmcntWrite (unit : Fin 67) (pi : Fin 72) (k : Fin 8) (lo : Pair) (hi : Pair)
  /-- R422. A block counter window ends and its count is copied and compared. -/
  | blockCounterWindowEnd
  /-- R423. A write of PMSNAPCTL.ARM arms the finish snapshot. -/
  | snapshotArm (unit : Fin 67) (freeze : Bool)
  /-- R423. At the snapshot instant every counter is copied and may freeze. -/
  | finishSnapshot
  /-- R423. A write of PMSNAPCTL.THAW ends a counter freeze. -/
  | thaw (unit : Fin 67)
  /-- R433. PORST_N low or VDD_AON loss resets the chip to ROM. -/
  | porReset
  /-- R433. A WARM reset stops the chip and restarts start-up at FLASH. -/
  | warmReset
  /-- R436. CHIP_RESET starts a WARM reset 1 ms after journaling. -/
  | chipReset (q : Req)
  /-- R433. The launch firmware watchdog expires and causes a WARM reset. -/
  | firmwareWatchdogExpiry
  /-- R433. TRST_N resets the test access port. -/
  | tapReset
  /-- R427. A clock monitor finds a lost or off-frequency clock and responds. -/
  | clockFault (clk : Fin 7)
  /-- R427. Every 10 ms after a PCLK10 or LCLK PLL unlocks, relock is tried, and on success the plant ports retrain or the pair
  link may train again. -/
  | serdesPllRelock (pair : Bool) (ok : Bool)
  /-- R429. Debounced PWRFAIL_N low stops the chip and enters holdover. -/
  | holdoverEntry
  /-- R431. Restored power restarts start-up at CLOCKS. -/
  | holdoverExit
  /-- R461. A falling power-good input acts as PWRFAIL_N low. -/
  | powerGoodFall (k : Fin 3)
  /-- R462. A backup rail such as VDDQ_LPD or VDD2_LPD leaves its range during holdover, ending the holdover with loss of the
  LPDDR contents. -/
  | backupRailLoss (resets : Bool)
  /-- R428. In SAFE, start-up is retried from FLASH every 10 s. -/
  | safeRetry
  /-- R440. Start-up step ROM runs self-test and reads fuses. -/
  | stepRom (ok : Bool) (f : Fuses)
  /-- R440. Start-up step FLASH sets up xSPI and reads the directory. -/
  | stepFlash (d : FlashRead)
  /-- R440. Start-up step FIRMWARE loads and measures the launch firmware. -/
  | stepFirmware (a : List Word) (b : List Word)
  /-- R440. Start-up step CREDENTIALS loads the store, anchor and journal. -/
  | stepCredentials (b : BootCreds)
  /-- R440. Start-up step CLOCKS locks the PLLs and arms the monitors. -/
  | stepClocks (ok : BitVec 6)
  /-- R440. Start-up step QDR trains and zeroes the QDR channels. -/
  | stepQdr (ok : BitVec 4)
  /-- R440. Start-up step LPDDR trains both controllers and loads keys. -/
  | stepLpddr (ok : BitVec 2)
  /-- R440. Start-up step WORLDS verifies and measures both world images. -/
  | stepWorlds (web : List Word) (deckle : List Word)
  /-- R440. Start-up step FIELD applies PORTTAB and starts negotiation. -/
  | stepField (tab : PortTab)
  /-- R440. Start-up step PLANT trains plant ports and starts gPTP. -/
  | stepPlant (tb : Quad)
  /-- R443. Start-up step ADMIT chooses and admits the first plan and loads world images. -/
  | stepAdmit (image : List Word)
  /-- R444. Start-up step PAIR trains the pair link through ATTENTION. -/
  | stepPair
  /-- R440. Start-up step RELEASE arms the first catch and releases the eights. -/
  | stepRelease
  /-- R451. A write of COMMIT.GO captures the page's staged set. -/
  | commitGo (unit : Fin 67) (page : Fin 512)
  /-- R452. At its safe point a captured register loads its live copy. -/
  | safePointLoad (page : Fin 512) (sp : SafePt)
  /-- R360. A write of ERRINJ.ARM arms one error injection. -/
  | errinjArm (unit : Fin 67) (page : Fin 512) (kind : Fin 4)
  /-- R4. A read of an RC field returns and clears it. -/
  | rcRead (unit : Fin 67) (page : Fin 512) (off : Fin 2048)
  /-- R454. A write to a register with no row of its own follows its access code. -/
  | registerWrite (unit : Fin 67) (page : Fin 512) (off : Fin 2048) (x : Pair)
  deriving DecidableEq, Repr

end Sys2Proof
end

