-- ==== Sys2Proof/Decode.lean ====
section
/-! DEFINITION. Commands as words. The Gailner takes its commands from outside and the table of steps gives none of them bits,
so no word spells a command. (The operation words of its cores are decoded in Machine/OpDecode.lean.) -/

namespace Sys2Proof

/-- The command a word of `nbits` bits spells by the table: none. -/
def decodeTableWord (_nbits _w : Nat) : Option Instr := none

end Sys2Proof
end

