-- ==== Sys2Proof/Machine/Bits.lean ====
section
/-! DEFINITION. Bit fields and sign readings, by the notation of "Scope and Conventions" (`bits(x, h, l)`, `sext`, `zext`). -/

namespace Sys2Proof.Machine

/-- `bits(x, h, l)` of a number. -/
def bits (x h l : Nat) : Nat := (x >>> l) % 2 ^ (h + 1 - l)

/-- Bit `n` of a number. -/
def bitN (x n : Nat) : Bool := x.testBit n

/-- The number a flag stands for. -/
def b2n (b : Bool) : Nat := if b then 1 else 0

/-- `x` with the field `[h:l]` replaced by the low bits of `v`. -/
def setBits (x h l v : Nat) : Nat :=
  let m := 2 ^ (h + 1 - l)
  x - (bits x h l) <<< l + (v % m) <<< l

/-- The signed reading of the low `w` bits of `x`. -/
def sgn (w x : Nat) : Int :=
  let y := x % 2 ^ w
  if y < 2 ^ (w - 1) then (y : Int) else (y : Int) - 2 ^ w

/-- The low `w` bits of an integer: wrapping modulo 2^w (R130). -/
def wrap (w : Nat) (x : Int) : Nat := (x % (2 ^ w : Int)).toNat

/-- `sext` of an `n`-bit number to `w` bits. -/
def sextTo (n w x : Nat) : Nat := wrap w (sgn n x)

/-- Clamp an integer to a range; the flag says whether it was clamped. -/
def clamp (lo hi x : Int) : Int × Bool :=
  if x < lo then (lo, true) else if hi < x then (hi, true) else (x, false)

/-- Word `j` of a number that holds words in the order of R2 (lowest address least significant). -/
def wordOf (x j : Nat) : Word := BitVec.ofNat 16 (x >>> (16 * j))

/-- The number whose word `j` is the `j`-th of the list (R2). -/
def ofWords : List Word → Nat
  | [] => 0
  | w :: ws => w.toNat + ofWords ws <<< 16

/-- The first `n` words of a number, lowest first. -/
def toWords (n x : Nat) : List Word := (List.range n).map (wordOf x)

end Sys2Proof.Machine
end

