-- ==== Sys2Proof/Machine/Flags.lean ====
section
/-! DEFINITION. Integer, shift, saturating and fixed-point results with every flag they give (R97 to R100, R110, R111, R130 to
R138), as functions of the operand values alone. -/

namespace Sys2Proof.Machine

/-- The width of a size in bits (R130). -/
def Size.width : Size → Nat
  | .word => 16
  | .pair => 32
  | .quad => 64

/-- A result with the flags C, V, N, Z of R131 and whether a clamp set QS (R133). -/
structure AluRes where
  val : Nat
  c   : Bool
  v   : Bool
  n   : Bool
  z   : Bool
  sat : Bool
  deriving DecidableEq, Repr

/-- N and Z by the rule of R131: bit w - 1 of the result, and result = 0. -/
def resNZ (w val : Nat) (c v sat : Bool) : AluRes :=
  ⟨val, c, v, val.testBit (w - 1), decide (val = 0), sat⟩

/-- S1 + S2 + carry: C is the carry out of bit w - 1, V the signed overflow (R131). -/
def addRes (w a b cin : Nat) : AluRes :=
  let s := sgn w a + sgn w b + cin
  resNZ w ((a + b + cin) % 2 ^ w) (decide (2 ^ w ≤ a + b + cin)) (decide (s ≠ sgn w (wrap w s))) false

/-- S1 - S2 - borrow: C is 1 when S1 < S2 + borrow unsigned, V the signed overflow (R131). -/
def subRes (w a b cin : Nat) : AluRes :=
  let s := sgn w a - sgn w b - cin
  resNZ w (wrap w ((a : Int) - b - cin)) (decide (a < b + cin)) (decide (s ≠ sgn w (wrap w s))) false

/-- A clamped result: C is 0 and V is 1 when it was clamped (R131, R133). -/
def satRes (w : Nat) (r : Int × Bool) : AluRes :=
  resNZ w (wrap w r.1) false r.2 r.2

/-- The range of a signed value of width w. -/
def smin (w : Nat) : Int := -(2 ^ (w - 1) : Int)

/-- The largest signed value of width w. -/
def smax (w : Nat) : Int := (2 ^ (w - 1) : Int) - 1

/-- SHL by n (R132). -/
def shlRes (w a n : Nat) : AluRes :=
  if n = 0 then resNZ w a false false false
  else if n < w then resNZ w ((a <<< n) % 2 ^ w) (a.testBit (w - n)) false false
  else resNZ w 0 (decide (n = w) && a.testBit 0) false false

/-- SHR by n (R132). -/
def shrRes (w a n : Nat) : AluRes :=
  if n = 0 then resNZ w a false false false
  else if n < w then resNZ w (a >>> n) (a.testBit (n - 1)) false false
  else resNZ w 0 (decide (n = w) && a.testBit (w - 1)) false false

/-- SAR by n (R132). -/
def sarRes (w a n : Nat) : AluRes :=
  if n = 0 then resNZ w a false false false
  else if n < w then resNZ w (wrap w (sgn w a / 2 ^ n)) (a.testBit (n - 1)) false false
  else resNZ w (if a.testBit (w - 1) then 2 ^ w - 1 else 0) (a.testBit (w - 1)) false false

/-- ROL by n mod w; C is bit 0 of the result when n mod w ≠ 0 (R131, R132). -/
def rolRes (w a n : Nat) : AluRes :=
  let k := n % w
  let r := ((a <<< k) + (a >>> (w - k))) % 2 ^ w
  if k = 0 then resNZ w a false false false else resNZ w r (r.testBit 0) false false

/-- The number of leading zeros of `a` in width `w`; w for 0 (R133). -/
def clz (w a : Nat) : Nat := if a = 0 then w else w - 1 - Nat.log2 a

/-- The number of one bits of `a` below bit `w`. -/
def popc (w a : Nat) : Nat := ((List.range w).filter (fun i => a.testBit i)).length

/-- A logic, move, minimum, maximum, count or extension result: C = V = 0 (R131). -/
def plainRes (w val : Nat) : AluRes := resNZ w val false false false

/-- The result and flags of an R-format ALU function (R97, R131 to R133): operands as numbers below 2^w, the shift count `n`
from the lowest word of S2, and FL.C and FL.Z as they stand at issue. -/
def aluRes (fn : AluFn) (w a b n : Nat) (fc fz : Bool) : AluRes :=
  match fn with
  | .add => addRes w a b 0
  | .addc => let r := addRes w a b (b2n fc); { r with z := fz && r.z }
  | .sub | .cmp => subRes w a b 0
  | .subb => let r := subRes w a b (b2n fc); { r with z := fz && r.z }
  | .adds => satRes w (clamp (smin w) (smax w) (sgn w a + sgn w b))
  | .subs => satRes w (clamp (smin w) (smax w) (sgn w a - sgn w b))
  | .addus => satRes w (clamp 0 (2 ^ w - 1) ((a : Int) + b))
  | .subus => satRes w (clamp 0 (2 ^ w - 1) ((a : Int) - b))
  | .and => plainRes w (a &&& b)
  | .or => plainRes w (a ||| b)
  | .xor => plainRes w (a ^^^ b)
  | .andn => plainRes w (a &&& (2 ^ w - 1 - b))
  | .shl => shlRes w a n
  | .shr => shrRes w a n
  | .sar => sarRes w a n
  | .rol => rolRes w a n
  | .min => plainRes w (if sgn w a ≤ sgn w b then a else b)
  | .max => plainRes w (if sgn w a ≤ sgn w b then b else a)
  | .minu => plainRes w (Nat.min a b)
  | .maxu => plainRes w (Nat.max a b)
  | .neg => { resNZ w (wrap w (-(a : Int))) (decide (a ≠ 0)) (decide (sgn w a = smin w)) false with }
  | .abs => satRes w (clamp (smin w) (smax w) (sgn w a).natAbs)
  | .mov => plainRes w a
  | .clz => plainRes w (clz w a)
  | .popc => plainRes w (popc w a)
  | .sext => plainRes w (sextTo (w / 2) w a)
  | .zext => plainRes w (a % 2 ^ (w / 2))

/-- Whether a function can saturate and so set QS (R100, R133). -/
def AluFn.saturates : AluFn → Bool
  | .adds | .subs | .addus | .subus | .abs => true
  | _ => false

/-- A multiply result (R110, R134): the value in its destination width. -/
def mulRes (fn : MulFn) (w a b : Nat) : Nat :=
  match fn with
  | .mul => (a * b) % 2 ^ w
  | .mulw => wrap (2 * w) (sgn w a * sgn w b)
  | .mulwu => a * b
  | .mulh => wrap (2 * w) (sgn w a * sgn w b) >>> w
  | .mulhu => (a * b) >>> w

/-- A divide or remainder result with QS (R135). -/
def divRes (fn : DivFn) (w a b : Nat) : Nat × Bool :=
  let sa := sgn w a
  let sb := sgn w b
  match fn with
  | .div =>
    if b = 0 then (if 0 ≤ sa then wrap w (smax w) else wrap w (smin w), true)
    else if sa = smin w ∧ sb = -1 then (wrap w (smax w), true)
    else (wrap w (Int.tdiv sa sb), false)
  | .rem => if b = 0 then (a, false) else (wrap w (Int.tmod sa sb), false)
  | .divu => if b = 0 then (2 ^ w - 1, true) else (a / b, false)
  | .remu => if b = 0 then (a, false) else (a % b, false)

/-- A Q product (R138): floor or rounded, with the one saturating case. -/
def mulqRes (w : Nat) (r : Bool) (a b : Nat) : Nat × Bool :=
  let p := sgn w a * sgn w b
  let f := w - 1
  let q := if r then (p + 2 ^ (f - 1)) / 2 ^ f else p / 2 ^ f
  let cl := clamp (smin w) (smax w) q
  (wrap w cl.1, cl.2)

/-- Whether a condition of R102 holds for the flags C, V, N, Z. -/
def Cond.holds (k : Cond) (c v n z : Bool) : Bool :=
  match k with
  | .eq => z
  | .ne => !z
  | .lo => c
  | .hs => !c
  | .mi => n
  | .pl => !n
  | .vs => v
  | .vc => !v
  | .hi => !c && !z
  | .ls => c || z
  | .ge => n == v
  | .lt => n != v
  | .gt => !z && n == v
  | .le => z || n != v
  | .al => true

end Sys2Proof.Machine
end

