-- ==== Sys2Proof/Machine/Float.lean ====
section
/-! DEFINITION. Floating results and flags (R112 to R114, R116, R142 to R158, R161 to R163): every operation computes the exact
result on integers and rounds it once. -/

namespace Sys2Proof.Machine

/-- The sticky flags NV, DZ, OF, UF, NX of FL (R155). -/
structure FpFlags where
  nv : Bool := false
  dz : Bool := false
  of : Bool := false
  uf : Bool := false
  nx : Bool := false
  deriving DecidableEq, Repr

/-- Flags ORed together (R116, R155). -/
def FpFlags.or (a b : FpFlags) : FpFlags :=
  ⟨a.nv || b.nv, a.dz || b.dz, a.of || b.of, a.uf || b.uf, a.nx || b.nx⟩

/-- The bits of FL that flags stand for (the FL table of "Core Execution and the Timing Contract"). -/
def FpFlags.mask (f : FpFlags) : Pair :=
  BitVec.ofNat 32 (b2n f.nv * 0x100 + b2n f.dz * 0x200 + b2n f.of * 0x400 + b2n f.uf * 0x800 + b2n f.nx * 0x1000)

/-- Fraction bits of a format (R142). -/
def Fmt.frac : Fmt → Nat
  | .h => 10
  | .s => 23
  | .d => 52

/-- Exponent bits of a format (R142). -/
def Fmt.ebits : Fmt → Nat
  | .h => 5
  | .s => 8
  | .d => 11

/-- Bias of a format (R142). -/
def Fmt.bias (f : Fmt) : Nat := 2 ^ (f.ebits - 1) - 1

/-- Width of a format. -/
def Fmt.width (f : Fmt) : Nat := 1 + f.ebits + f.frac

/-- The exponent of the lowest bit of a subnormal. -/
def Fmt.emin (f : Fmt) : Int := 1 - (f.bias : Int) - f.frac

/-- The exponent field of infinities and NaNs. -/
def Fmt.emax (f : Fmt) : Nat := 2 ^ f.ebits - 1

/-- A floating datum: a NaN (signalling or not), an infinity, or the finite value (-1)^s · m · 2^e. -/
inductive FVal where
  | nan (sig : Bool)
  | inf (s : Bool)
  | fin (s : Bool) (m : Nat) (e : Int)
  deriving DecidableEq, Repr

/-- The datum an encoding stands for (R142). -/
def unpack (f : Fmt) (x : Nat) : FVal :=
  let s := x.testBit (f.width - 1)
  let ex := (x >>> f.frac) % 2 ^ f.ebits
  let fr := x % 2 ^ f.frac
  if ex = f.emax then (if fr = 0 then .inf s else .nan (!fr.testBit (f.frac - 1)))
  else if ex = 0 then .fin s fr f.emin
  else .fin s (fr + 2 ^ f.frac) (f.emin + (ex : Int) - 1)

/-- Whether an encoding is a subnormal. -/
def isSubnormal (f : Fmt) (x : Nat) : Bool :=
  decide ((x >>> f.frac) % 2 ^ f.ebits = 0) && decide (x % 2 ^ f.frac ≠ 0)

/-- The sign bit of an encoding in place. -/
def signBit (f : Fmt) (s : Bool) : Nat := b2n s <<< (f.width - 1)

/-- An infinity. -/
def infBits (f : Fmt) (s : Bool) : Nat := signBit f s + f.emax <<< f.frac

/-- A zero. -/
def zeroBits (f : Fmt) (s : Bool) : Nat := signBit f s

/-- The largest finite value of a sign. -/
def maxBits (f : Fmt) (s : Bool) : Nat := infBits f s - 1

/-- The canonical NaN (R148). -/
def canonNaN (f : Fmt) : Nat := f.emax <<< f.frac + 2 ^ (f.frac - 1)

/-- The operand as read: with FZ a subnormal is a zero of the same sign (R147). -/
def flushIn (f : Fmt) (fz : Bool) (x : Nat) : Nat :=
  if fz && isSubnormal f x then zeroBits f (x.testBit (f.width - 1)) else x

/-- The rounding attribute ST.RM: 0 nearest even, 1 toward zero, 2 toward positive, 3 toward negative. -/
abbrev Rm := Fin 4

/-- Whether a magnitude q + r/2^k is rounded up, by attribute and sign. -/
def roundUp (rm : Rm) (s : Bool) (q r half : Nat) : Bool :=
  if r = 0 then false else
  match rm.val with
  | 0 => decide (half < r) || (decide (r = half) && q.testBit 0)
  | 1 => false
  | 2 => !s
  | _ => s

/-- m · 2^e as a multiple of 2^g, rounded once by the attribute; the flag says that it was inexact. -/
def roundAt (rm : Rm) (s : Bool) (m : Nat) (e g : Int) : Nat × Bool :=
  if g ≤ e then (m <<< (e - g).toNat, false)
  else
    let k := (g - e).toNat
    let q := m >>> k
    let r := m % 2 ^ k
    (q + b2n (roundUp rm s q r (2 ^ (k - 1))), decide (r ≠ 0))

/-- Round a nonzero exact value into a format (R143 to R145, R147). -/
def roundPack (f : Fmt) (rm : Rm) (fz : Bool) (s : Bool) (m : Nat) (e : Int) : Nat × FpFlags :=
  let p := f.frac + 1
  let g := e + (Nat.log2 m : Int) - f.frac
  -- rounded as if the exponent range were unbounded
  let u := roundAt rm s m e g
  let carry := decide (2 ^ p ≤ u.1)
  let mu := if carry then u.1 / 2 else u.1
  let gu := if carry then g + 1 else g
  let top : Int := (f.emax : Int) - 2 + f.emin
  if top < gu then
    let toInf := match rm.val with
      | 0 => true
      | 1 => false
      | 2 => !s
      | _ => s
    (if toInf then infBits f s else maxBits f s, { of := true, nx := true })
  else if gu < f.emin then
    if fz then (zeroBits f s, { uf := true, nx := true })
    else
      let d := roundAt rm s m e f.emin
      (signBit f s + d.1, { uf := d.2, nx := d.2 })
  else
    (signBit f s + ((gu - f.emin).toNat + 1) <<< f.frac + (mu - 2 ^ f.frac), { nx := u.2 })

/-- The signed integer a finite datum is at a common exponent not above its own. -/
def scaled (s : Bool) (m : Nat) (e g : Int) : Int :=
  let v : Int := m <<< (e - g).toNat
  if s then -v else v

/-- Round an exact signed sum v · 2^g; `zs` is the sign of an exact zero (R146). -/
def roundSum (f : Fmt) (rm : Rm) (fz zs : Bool) (v g : Int) : Nat × FpFlags :=
  if v = 0 then (zeroBits f zs, {}) else roundPack f rm fz (decide (v < 0)) v.natAbs g

/-- The sign of an exact zero sum of two terms (R146). -/
def zeroSumSign (rm : Rm) (s1 s2 : Bool) : Bool := if s1 = s2 then s1 else decide (rm.val = 3)

/-- Whether a datum is a signalling NaN. -/
def FVal.isSig : FVal → Bool
  | .nan b => b
  | _ => false

/-- Whether a datum is a NaN. -/
def FVal.isNan : FVal → Bool
  | .nan _ => true
  | _ => false

/-- The sign of a datum that is no NaN. -/
def FVal.sign : FVal → Bool
  | .nan _ => false
  | .inf s => s
  | .fin s _ _ => s

/-- S3 + S1 × S2 with one rounding; `neg` negates the product (R113, R143, R148). -/
def fmaVal (f : Fmt) (rm : Rm) (fz neg : Bool) (a b c : FVal) : Nat × FpFlags :=
  let bad : Nat × FpFlags := (canonNaN f, { nv := true })
  let prodInvalid := match a, b with
    | .inf _, .fin _ m _ => decide (m = 0)
    | .fin _ m _, .inf _ => decide (m = 0)
    | _, _ => false
  if a.isSig || b.isSig || c.isSig || prodInvalid then bad
  else if a.isNan || b.isNan || c.isNan then (canonNaN f, {})
  else
    let ps := (a.sign != b.sign) != neg
    match a, b, c with
    | .fin _ ma ea, .fin _ mb eb, .fin sc mc ec =>
      let pe := ea + eb
      let g := if pe ≤ ec then pe else ec
      roundSum f rm fz (zeroSumSign rm ps sc) (scaled ps (ma * mb) pe g + scaled sc mc ec g) g
    | .fin _ _ _, .fin _ _ _, .inf sc => (infBits f sc, {})
    | _, _, .inf sc => if sc = ps then (infBits f ps, {}) else bad
    | _, _, _ => (infBits f ps, {})

/-- FMA or FMSB on encodings. -/
def fpFma (f : Fmt) (rm : Rm) (fz neg : Bool) (x y z : Nat) : Nat × FpFlags :=
  let r := fun q => unpack f (flushIn f fz q)
  fmaVal f rm fz neg (r x) (r y) (r z)

/-- FADD and FSUB (R112, R146, R148). -/
def fpAdd (f : Fmt) (rm : Rm) (fz sub : Bool) (x y : Nat) : Nat × FpFlags :=
  let a := unpack f (flushIn f fz x)
  let b := unpack f (flushIn f fz y)
  if a.isSig || b.isSig then (canonNaN f, { nv := true })
  else if a.isNan || b.isNan then (canonNaN f, {})
  else
    let bs := b.sign != sub
    match a, b with
    | .fin sa ma ea, .fin _ mb eb =>
      let g := if ea ≤ eb then ea else eb
      roundSum f rm fz (zeroSumSign rm sa bs) (scaled sa ma ea g + scaled bs mb eb g) g
    | .inf sa, .inf _ => if sa = bs then (infBits f sa, {}) else (canonNaN f, { nv := true })
    | .inf sa, _ => (infBits f sa, {})
    | _, _ => (infBits f bs, {})

/-- FMUL (R112, R148). -/
def fpMul (f : Fmt) (rm : Rm) (fz : Bool) (x y : Nat) : Nat × FpFlags :=
  let a := unpack f (flushIn f fz x)
  let b := unpack f (flushIn f fz y)
  if a.isSig || b.isSig then (canonNaN f, { nv := true })
  else if a.isNan || b.isNan then (canonNaN f, {})
  else
    let s := a.sign != b.sign
    match a, b with
    | .fin _ ma ea, .fin _ mb eb =>
      if ma * mb = 0 then (zeroBits f s, {}) else roundPack f rm fz s (ma * mb) (ea + eb)
    | .fin _ m _, .inf _ => if m = 0 then (canonNaN f, { nv := true }) else (infBits f s, {})
    | .inf _, .fin _ m _ => if m = 0 then (canonNaN f, { nv := true }) else (infBits f s, {})
    | _, _ => (infBits f s, {})

/-- The order of two data that are no NaNs; `zlt` orders -0 below +0 (R150), otherwise they are equal (R151). -/
def fcompare (zlt : Bool) (a b : FVal) : Ordering :=
  match a, b with
  | .fin sa ma ea, .fin sb mb eb =>
    let g := if ea ≤ eb then ea else eb
    let x := scaled sa ma ea g
    let y := scaled sb mb eb g
    if x < y then .lt
    else if y < x then .gt
    else if x = 0 ∧ zlt then (if sa = sb then .eq else if sa then .lt else .gt)
    else .eq
  | .inf sa, .inf sb => if sa = sb then .eq else if sa then .lt else .gt
  | .inf sa, _ => if sa then .lt else .gt
  | _, .inf sb => if sb then .gt else .lt
  | _, _ => .eq

/-- FMIN and FMAX (R147, R150). -/
def fpMinMax (f : Fmt) (fz mx : Bool) (x y : Nat) : Nat × FpFlags :=
  let x' := flushIn f fz x
  let y' := flushIn f fz y
  let a := unpack f x'
  let b := unpack f y'
  let fl : FpFlags := { nv := a.isSig || b.isSig }
  if a.isNan && b.isNan then (canonNaN f, fl)
  else if a.isNan then (y', fl)
  else if b.isNan then (x', fl)
  else
    let lt := fcompare true a b == .lt
    (if lt == mx then y' else x', fl)

/-- FCMP and FCMPS: the relation mask (R112, R151). -/
def fpCmp (f : Fmt) (fz quiet : Bool) (x y : Nat) : Nat × FpFlags :=
  let a := unpack f (flushIn f fz x)
  let b := unpack f (flushIn f fz y)
  if a.isNan || b.isNan then (8, { nv := a.isSig || b.isSig || !quiet })
  else
    match fcompare false a b with
    | .lt => (1, {})
    | .eq => (2, {})
    | .gt => (4, {})

/-- FCLASS: the class mask of the operand as stored (R112). -/
def fpClass (f : Fmt) (x : Nat) : Nat :=
  match unpack f x with
  | .nan true => 0x100
  | .nan false => 0x200
  | .inf true => 0x001
  | .inf false => 0x080
  | .fin s m _ =>
    if m = 0 then (if s then 0x008 else 0x010)
    else if isSubnormal f x then (if s then 0x004 else 0x020)
    else (if s then 0x002 else 0x040)

/-- An estimate E/256 · 2^k with 257 ≤ E ≤ 511 in a format (R156 to R158). -/
def packEst (f : Fmt) (s : Bool) (est : Nat) (k : Int) : Nat × FpFlags :=
  let ex := k + f.bias
  if ex ≥ f.emax then (infBits f s, { of := true, nx := true })
  else if ex ≤ 0 then (zeroBits f s, { uf := true, nx := true })
  else (signBit f s + ex.toNat <<< f.frac + (est - 256) <<< (f.frac - 8), {})

/-- The exponent and the top `n` fraction bits of a nonzero normalised magnitude m · 2^e (R156). -/
def normTop (n m : Nat) (e : Int) : Int × Nat :=
  let l := Nat.log2 m
  (e + l, ((m <<< n) >>> l) % 2 ^ n)

/-- FREC (R156, R158). -/
def fpRec (f : Fmt) (fz : Bool) (x : Nat) : Nat × FpFlags :=
  match unpack f (flushIn f fz x) with
  | .nan sg => (canonNaN f, { nv := sg })
  | .inf s => (zeroBits f s, {})
  | .fin s m e =>
    if m = 0 then (infBits f s, { dz := true })
    else
      let t := normTop 7 m e
      let d := 257 + 2 * t.2
      packEst f s ((2 * 131072 + d) / (2 * d)) (-t.1 - 1)

/-- floor(512 / sqrt(num/den) + 1/2): the largest E with (2E - 1)² · num ≤ 1024² · den (R157). -/
def rsqEst (num den : Nat) : Nat :=
  ((List.range 600).filter (fun k => decide ((2 * k + 1) * (2 * k + 1) * num ≤ 1048576 * den))).length

/-- FRSQ (R157, R158). -/
def fpRsq (f : Fmt) (fz : Bool) (x : Nat) : Nat × FpFlags :=
  match unpack f (flushIn f fz x) with
  | .nan sg => (canonNaN f, { nv := sg })
  | .inf s => if s then (canonNaN f, { nv := true }) else (zeroBits f false, {})
  | .fin s m e =>
    if m = 0 then (infBits f s, { dz := true })
    else if s then (canonNaN f, { nv := true })
    else
      let t := normTop 6 m e
      let v := 128 + (2 * t.2 + 1)
      if t.1 % 2 = 0 then packEst f false (rsqEst v 128) (-(t.1 / 2) - 1)
      else packEst f false (rsqEst (2 * v) 128) (-((t.1 - 1) / 2) - 1)

/-- The operations of major 0x08 (R112). -/
def fpRes (fn : FpFn) (f : Fmt) (rm : Rm) (fz : Bool) (x y : Nat) : Nat × FpFlags :=
  match fn with
  | .add => fpAdd f rm fz false x y
  | .sub => fpAdd f rm fz true x y
  | .mul => fpMul f rm fz x y
  | .min => fpMinMax f fz false x y
  | .max => fpMinMax f fz true x y
  | .neg => (x ^^^ signBit f true, {})
  | .abs => (x % 2 ^ (f.width - 1), {})
  | .cmp => fpCmp f fz true x y
  | .cmps => fpCmp f fz false x y
  | .class => (fpClass f x, {})
  | .frec => fpRec f fz x
  | .frsq => fpRsq f fz x

/-- The floating format of a conversion type. -/
def CvtTy.fmt? : CvtTy → Option Fmt
  | .f16 => some .h
  | .f32 => some .s
  | .f64 => some .d
  | _ => none

/-- Whether an integer conversion type is signed. -/
def CvtTy.signed : CvtTy → Bool
  | .sw | .sp | .sq => true
  | _ => false

/-- The width of a conversion type. -/
def CvtTy.width : CvtTy → Nat
  | .f16 | .sw | .uw => 16
  | .f32 | .sp | .up => 32
  | .f64 | .sq | .uq => 64

/-- Float to integer (R147, R153). -/
def cvtToInt (t : CvtTy) (f : Fmt) (rm : Rm) (fz : Bool) (x : Nat) : Nat × FpFlags :=
  let w := t.width
  let lo : Int := if t.signed then smin w else 0
  let hi : Int := if t.signed then smax w else 2 ^ w - 1
  match unpack f (flushIn f fz x) with
  | .nan _ => (0, { nv := true })
  | .inf s => (wrap w (if s then lo else hi), { nv := true })
  | .fin s m e =>
    let r := roundAt rm s m e 0
    let v : Int := if s then -(r.1 : Int) else r.1
    if v < lo then (wrap w lo, { nv := true })
    else if hi < v then (wrap w hi, { nv := true })
    else (wrap w v, { nx := r.2 })

/-- FCVT on encodings (R114, R152 to R154). -/
def fcvtRes (dst src : CvtTy) (rm : Rm) (fz tz : Bool) (x : Nat) : Nat × FpFlags :=
  match dst.fmt?, src.fmt? with
  | some fd, some fs =>
    match unpack fs (flushIn fs fz x) with
    | .nan sg => (canonNaN fd, { nv := sg })
    | .inf sg => (infBits fd sg, {})
    | .fin sg m e => if m = 0 then (zeroBits fd sg, {}) else roundPack fd rm fz sg m e
  | none, some fs => cvtToInt dst fs (if tz then 1 else rm) fz x
  | some fd, none =>
    let v : Int := if src.signed then sgn src.width x else (x : Int)
    roundSum fd rm fz false v 0
  | none, none => (x, {})

end Sys2Proof.Machine
end

