-- ==== Sys2Proof/Machine/OpDecode.lean ====
section
/-! DEFINITION. The 32-bit operation words of "Instruction Set Reference": which operations a slot can carry and which field
values are legal (R62, R94, R96 to R124), and the decoder from words to operations. -/

namespace Sys2Proof.Machine

/-- Whether a register field names a register of the file its size selects: the unused high bits must be 0 (R94). -/
def regOk (sz : Size) (r : Fin 64) : Bool :=
  match sz with
  | .word => true
  | .pair => decide (r.val < 32)
  | .quad => decide (r.val < 16)

/-- The register file size of a floating format (R112). -/
def fmtSize : Fmt → Size
  | .h => .word
  | .s => .pair
  | .d => .quad

/-- The register file size of a conversion type (R114). -/
def cvtSize : CvtTy → Size
  | .f16 | .sw | .uw => .word
  | .f32 | .sp | .up => .pair
  | .f64 | .sq | .uq => .quad

/-- The ALU functions marked Q in R97, the ones that exist at quad size. -/
def aluQuad : AluFn → Bool
  | .add | .addc | .sub | .subb | .and | .or | .xor | .andn | .shl | .shr | .sar | .mov | .cmp => true
  | _ => false

/-- The ALU functions whose S2 must be 0 (R97). (DEDUCED, log entry 66) -/
def aluOneOperand : AluFn → Bool
  | .neg | .abs | .mov | .clz | .popc => true
  | _ => false

/-- Field legality of an R-format ALU operation in a slot (R94, R97). (DEDUCED, log entry 66) -/
def aluLegal (s : Slot) (o : AluOp) : Bool :=
  (s == .a || s == .b)
  && (o.sz != .quad || (s == .a && aluQuad o.fn))
  && (!aluOneOperand o.fn || o.s2.val == 0)
  && (match o.fn with
      | .cmp => o.d.val == 0 && regOk o.sz o.s1 && regOk o.sz o.s2
      | .sext | .zext => o.sz == .pair && regOk .pair o.d
      | _ => regOk o.sz o.d && regOk o.sz o.s1 && regOk o.sz o.s2)

/-- Whether an I-format operation is a shift, whose count is IMM12 [5:0] (R98). -/
def immShift : ImmFn → Bool
  | .shli | .shri | .sari => true
  | _ => false

/-- Field legality of an I-format operation in a slot (R94, R98). -/
def immLegal (s : Slot) (o : ImmOp) : Bool :=
  (s == .a || s == .b)
  && (o.sz != .quad || s == .a)
  && regOk o.sz o.s1
  && (if o.fn == .cmpi then o.d.val == 0 else regOk o.sz o.d)
  && (!immShift o.fn || bits o.imm.toNat 11 6 == 0)

/-- Field legality of MOVI (R99): KV 3 exists in slot A only. -/
def moviLegal (s : Slot) (o : MoviOp) : Bool :=
  match o.kv.val with
  | 0 => s == .a || s == .b
  | 3 => s == .a && regOk .quad o.d
  | _ => (s == .a || s == .b) && regOk .pair o.d

/-- The register of an LM target: W, X, Y or V by the access size (R104). -/
def lmTargetOk (sz : MSize) (t : Fin 64) : Bool :=
  match sz with
  | .word => true
  | .pair => decide (t.val < 32)
  | .quad | .oct => decide (t.val < 16)

/-- Field legality of an LM operation (R104). -/
def lmLegal (o : LmOp) : Bool :=
  lmTargetOk o.sz o.t && (!o.bx || decide (o.base.val < 32))

/-- Field legality of a multiply (R110). -/
def mulLegal (o : MulOp) : Bool :=
  regOk o.sz o.s1 && regOk o.sz o.s2
  && (match o.fn, o.sz with
      | .mul, _ => regOk o.sz o.d
      | _, .quad => false
      | .mulw, .word | .mulwu, .word => regOk .pair o.d
      | .mulw, .pair | .mulwu, .pair => regOk .quad o.d
      | _, _ => regOk o.sz o.d)

/-- Field legality of a divide (R110). -/
def divLegal (o : DivOp) : Bool :=
  o.sz != .quad && regOk o.sz o.d && regOk o.sz o.s1 && regOk o.sz o.s2

/-- Field legality of a Q multiply (R111). -/
def mulqLegal (o : MulqOp) : Bool :=
  let z := if o.q31 then Size.pair else Size.word
  regOk z o.d && regOk z o.s1 && regOk z o.s2

/-- The floating operations whose S2 must be 0 (R112). -/
def fpOneOperand : FpFn → Bool
  | .neg | .abs | .class | .frec | .frsq => true
  | _ => false

/-- The floating operations that write a W register (R112). -/
def fpToWord : FpFn → Bool
  | .cmp | .cmps | .class => true
  | _ => false

/-- Field legality of a floating operation of major 0x08 (R112). -/
def fpLegal (fn : FpFn) (o : FpOp) : Bool :=
  regOk (fmtSize o.fmt) o.s1
  && (if fpOneOperand fn then o.s2.val == 0 else regOk (fmtSize o.fmt) o.s2)
  && (fpToWord fn || regOk (fmtSize o.fmt) o.d)

/-- Field legality of FMA and FMSB (R113). -/
def fmaLegal (o : Fp3Op) : Bool :=
  let z := fmtSize o.fmt
  regOk z o.d && regOk z o.s1 && regOk z o.s2 && regOk z o.s3

/-- Whether a conversion type is a floating one (R114). -/
def cvtFloat : CvtTy → Bool
  | .f16 | .f32 | .f64 => true
  | _ => false

/-- Field legality of FCVT: equal types and integer to integer are illegal (R114). -/
def fcvtLegal (o : FcvtOp) : Bool :=
  o.dst != o.src && (cvtFloat o.dst || cvtFloat o.src) && regOk (cvtSize o.dst) o.d && regOk (cvtSize o.src) o.s1

/-- Field legality of a sweep lane operation: fields a function does not use must be 0 (R117). -/
def sweepLegal (o : SweepOp) : Bool :=
  match o.fn with
  | .vadd | .vadds | .vsub | .vsubs => o.ws.val == 0 && o.lane.val == 0
  | .vshl | .vsar => o.vb.val == 0 && o.lane.val == 0
  | .vsel => o.lane.val == 0
  | .vbcst => o.va.val == 0 && o.vb.val == 0 && o.lane.val == 0
  | .vins => o.vb.val == 0
  | .vget => o.vd.val == 0 && o.vb.val == 0

/-- The control registers R119 and the chapters it names assign. -/
def cregAssigned (n : Nat) : Bool :=
  n ≤ 0x03 || (0x10 ≤ n && n ≤ 0x14) || (0x20 ≤ n && n ≤ 0x2F) || (0x40 ≤ n && n ≤ 0x4F && n != 0x47)
  || (0x60 ≤ n && n ≤ 0x63)

/-- Whether a slot can carry an operation and its fields are legal there: otherwise it is an illegal operation (R62, R94). -/
def opLegal (s : Slot) : CoreOp → Bool
  | .nop => true
  | .alu o => aluLegal s o
  | .imm o => immLegal s o
  | .movi o => moviLegal s o
  | .br _ | .bc _ _ | .bz _ _ | .bnz _ _ | .call _ | .bri _ | .calli _ | .ret => s == .b
  | .load o | .store o => s == .l && lmLegal o
  | .movo _ | .fld _ | .fst _ | .mfs _ _ | .casp _ => s == .l
  | .lseg sg _ => s == .l && sg.val != 0
  | .mul o => s == .m && mulLegal o
  | .div o => s == .m && divLegal o
  | .mulq o => s == .m && mulqLegal o
  | .fp fn o => s == .m && fpLegal fn o
  | .fma _ o => s == .m && fmaLegal o
  | .fcvt o => s == .m && fcvtLegal o
  | .vmac _ | .vfma _ | .vext _ | .vaput _ => s == .m
  | .sweep o => s == .m && sweepLegal o
  | .mfc n _ | .mtc n _ => s == .b && cregAssigned n.val
  | .rep _ | .repi | .syse _ _ | .sysr | .eret | .wend => s == .b
  | .tlbw _ | .tlbi _ | .twalk _ | .cache _ _ => s == .b
  | .mbar k => s == .b && k.val != 0
  | .pflush _ | .pbar => s == .b
  | .emul _ => true

/-- A 6-bit register field. -/
def f6 (n lo : Nat) : Fin 64 := Fin.ofNat 64 (n >>> lo)

/-- A 5-bit register field. -/
def f5 (n lo : Nat) : Fin 32 := Fin.ofNat 32 (n >>> lo)

/-- A 4-bit register field. -/
def f4 (n lo : Nat) : Fin 16 := Fin.ofNat 16 (n >>> lo)

/-- A 3-bit field. -/
def f3 (n lo : Nat) : Fin 8 := Fin.ofNat 8 (n >>> lo)

/-- A 2-bit field. -/
def f2 (n lo : Nat) : Fin 4 := Fin.ofNat 4 (n >>> lo)

/-- The size a two-bit SZ field selects; 3 is reserved (R97). -/
def szOf : Nat → Option Size
  | 0 => some .word
  | 1 => some .pair
  | 2 => some .quad
  | _ => none

/-- The format a two-bit FMT field selects; 3 is reserved (R112). -/
def fmtOf : Nat → Option Fmt
  | 0 => some .h
  | 1 => some .s
  | 2 => some .d
  | _ => none

/-- The function table of R97. -/
def aluFnOf (n : Nat) : Option AluFn :=
  [AluFn.add, .addc, .sub, .subb, .adds, .subs, .addus, .subus, .and, .or, .xor, .andn, .shl, .shr, .sar, .rol,
   .min, .max, .minu, .maxu, .neg, .abs, .mov, .cmp, .clz, .popc, .sext, .zext][n]?

/-- The condition table of R102. -/
def condOf (n : Nat) : Option Cond :=
  [Cond.eq, .ne, .lo, .hs, .mi, .pl, .vs, .vc, .hi, .ls, .ge, .lt, .gt, .le, .al][n]?

/-- The type codes of R114. -/
def cvtTyOf : Nat → Option CvtTy
  | 0x0 => some .f16
  | 0x1 => some .f32
  | 0x2 => some .f64
  | 0x4 => some .sw
  | 0x5 => some .sp
  | 0x6 => some .sq
  | 0x8 => some .uw
  | 0x9 => some .up
  | 0xA => some .uq
  | _ => none

/-- The function table of R117. -/
def sweepFnOf (n : Nat) : Option SweepFn :=
  [SweepFn.vadd, .vadds, .vsub, .vsubs, .vshl, .vsar, .vsel, .vbcst, .vins, .vget][n]?

/-- The operation table of R123. -/
def cacheFnOf (n : Nat) : Option CacheFn :=
  [CacheFn.prefd, .prefi, .pref2, .dcwb, .dcinv, .dcwbi, .icinv, .dlock, .dunlk, .ilock, .iunlk][n]?

/-- The operation table of R112; 0x03 and 0x0B are unassigned. -/
def fpFnOf : Nat → Option FpFn
  | 0x00 => some .add
  | 0x01 => some .sub
  | 0x02 => some .mul
  | 0x04 => some .min
  | 0x05 => some .max
  | 0x06 => some .neg
  | 0x07 => some .abs
  | 0x08 => some .cmp
  | 0x09 => some .cmps
  | 0x0A => some .class
  | 0x0C => some .frec
  | 0x0D => some .frsq
  | _ => none

/-- An R-format ALU word (R93, R97). -/
def decAlu (n : Nat) : Option CoreOp := do
  let sz ← szOf (bits n 7 6)
  let fn ← aluFnOf (bits n 4 0)
  return .alu ⟨sz, bitN n 5, fn, f6 n 20, f6 n 14, f6 n 8⟩

/-- An I-format word (R93, R98). -/
def decImm (fn : ImmFn) (n : Nat) : Option CoreOp := do
  let sz ← szOf (bits n 13 12)
  return .imm ⟨fn, sz, f6 n 20, f6 n 14, BitVec.ofNat 12 n⟩

/-- Major 0x01 of slot M (R110). -/
def decMul (n : Nat) : Option CoreOp := do
  let sz ← szOf (bits n 7 6)
  let m (fn : MulFn) : Option CoreOp := some (.mul ⟨fn, sz, f6 n 20, f6 n 14, f6 n 8⟩)
  let d (fn : DivFn) : Option CoreOp := some (.div ⟨fn, sz, f6 n 20, f6 n 14, f6 n 8⟩)
  match bits n 5 0 with
  | 0x00 => m .mul
  | 0x01 => m .mulw
  | 0x02 => m .mulwu
  | 0x03 => m .mulh
  | 0x04 => m .mulhu
  | 0x08 => d .div
  | 0x09 => d .divu
  | 0x0A => d .rem
  | 0x0B => d .remu
  | _ => none

/-- An LM-format word (R93, R104). -/
def lmOf (sz : MSize) (n : Nat) : LmOp :=
  ⟨sz, f6 n 20, f6 n 14, bitN n 13, f3 n 10, bitN n 9, BitVec.ofNat 9 n⟩

/-- Majors 0x01 to 0x0A of slots A and B, the ALU groups (R96). -/
def decAB (maj n : Nat) : Option CoreOp :=
  match maj with
  | 0x01 => decAlu n
  | 0x02 => decImm .addi n
  | 0x03 => decImm .andi n
  | 0x04 => decImm .ori n
  | 0x05 => decImm .xori n
  | 0x06 => decImm .shli n
  | 0x07 => decImm .shri n
  | 0x08 => decImm .sari n
  | 0x09 => decImm .cmpi n
  | 0x0A => if bits n 17 16 = 0 then some (.movi ⟨f2 n 18, f6 n 20, BitVec.ofNat 16 n⟩) else none
  | _ => none

/-- The branch, control, translation, cache, barrier and prediction majors of slot B (R101 to R103, R119 to R124). -/
def decB (maj n : Nat) : Option CoreOp :=
  match maj with
  | 0x10 => some (.br (BitVec.ofNat 26 n))
  | 0x11 => (condOf (bits n 25 22)).map fun c => .bc c (BitVec.ofNat 22 n)
  | 0x12 => some (.bz (f6 n 20) (BitVec.ofNat 20 n))
  | 0x13 => some (.bnz (f6 n 20) (BitVec.ofNat 20 n))
  | 0x14 => some (.call (BitVec.ofNat 26 n))
  | 0x15 =>
    if bits n 18 0 ≠ 0 then none else
    match bits n 25 24 with
    | 0 => some (.bri (f5 n 19))
    | 1 => some (.calli (f5 n 19))
    | 2 => if bits n 23 19 = 0 then some .ret else none
    | _ => none
  | 0x18 =>
    if bits n 23 9 ≠ 0 then none else
    match bits n 25 24 with
    | 0 => some (.rep (.repImm (Fin.ofNat 512 n)))
    | 1 => if bits n 8 0 = 0 then some (.rep .repCt) else none
    | 2 => if bits n 8 0 = 0 then some .repi else none
    | _ => none
  | 0x19 =>
    match bits n 25 22 with
    | 0 => if bits n 19 16 = 0 then some (.syse (f2 n 20) (BitVec.ofNat 16 n)) else none
    | 1 => if bits n 21 0 = 0 then some .sysr else none
    | 2 => if bits n 21 0 = 0 then some .eret else none
    | 3 => if bits n 21 0 = 0 then some .wend else none
    | _ => none
  | 0x1A =>
    if bits n 17 17 ≠ 0 ∨ bits n 11 0 ≠ 0 then none
    else if bitN n 25 then some (.mtc (Fin.ofNat 128 (n >>> 18)) (f5 n 12))
    else some (.mfc (Fin.ofNat 128 (n >>> 18)) (f5 n 12))
  | 0x1B =>
    if bits n 5 0 ≠ 0 then none else
    match bits n 25 22 with
    | 0 => if bits n 21 20 = 0 ∧ bits n 13 6 = 0 then some (.tlbw (f6 n 14)) else none
    | 1 => if bits n 9 6 = 0 then some (.tlbi ⟨f2 n 20, f6 n 14, f4 n 10⟩) else none
    | 2 => some (.twalk ⟨f6 n 14, f4 n 10, f4 n 6⟩)
    | _ => none
  | 0x1C =>
    if bits n 13 0 ≠ 0 then none
    else (cacheFnOf (bits n 17 14)).map fun c => .cache c ⟨f5 n 21, f3 n 18⟩
  | 0x1D =>
    match bits n 25 22 with
    | 0 => if bits n 21 4 = 0 then some (.mbar (f4 n 0)) else none
    | 1 => if bits n 21 1 = 0 then some (.pflush (Fin.ofNat 2 n)) else none
    | 2 => if bits n 21 0 = 0 then some .pbar else none
    | _ => none
  | _ => decAB maj n

/-- The majors of slot M (R110 to R118). -/
def decM (maj n : Nat) : Option CoreOp :=
  match maj with
  | 0x01 => decMul n
  | 0x02 => if bits n 7 2 = 0 then some (.mulq ⟨bitN n 1, bitN n 0, f6 n 20, f6 n 14, f6 n 8⟩) else none
  | 0x08 => do
    let fmt ← fmtOf (bits n 7 6)
    let fn ← fpFnOf (bits n 5 0)
    return .fp fn ⟨fmt, f6 n 20, f6 n 14, f6 n 8⟩
  | 0x09 => (fmtOf (bits n 1 0)).map fun f => .fma false ⟨f, f6 n 20, f6 n 14, f6 n 8, f6 n 2⟩
  | 0x0A => (fmtOf (bits n 1 0)).map fun f => .fma true ⟨f, f6 n 20, f6 n 14, f6 n 8, f6 n 2⟩
  | 0x0B => do
    let dst ← cvtTyOf (bits n 7 4)
    let src ← cvtTyOf (bits n 3 0)
    if bits n 13 9 = 0 then return .fcvt ⟨dst, src, f6 n 20, f6 n 14, bitN n 8⟩ else none
  | 0x10 =>
    if bits n 9 0 = 0 then some (.vmac ⟨f2 n 24, f4 n 20, f4 n 16, f3 n 13, bitN n 12, bitN n 11, bitN n 10⟩) else none
  | 0x11 =>
    if bits n 5 0 = 0 then some (.vfma ⟨f4 n 22, f4 n 18, f4 n 14, f4 n 10, bitN n 9, f3 n 6⟩) else none
  | 0x12 =>
    if bitN n 0 then none
    else (sweepFnOf (bits n 7 4)).map fun fn => .sweep ⟨fn, f4 n 22, f4 n 18, f4 n 14, f6 n 8, f3 n 1⟩
  | 0x13 =>
    if bits n 9 0 ≠ 0 then none else
    match bits n 25 24 with
    | 0 => some (.vext ⟨f4 n 20, f2 n 18, f6 n 12, bitN n 11, bitN n 10⟩)
    | 1 => some (.vaput ⟨f2 n 22, f4 n 18, f4 n 14, f4 n 10⟩)
    | _ => none
  | _ => none

/-- The majors of slot L (R104 to R109). -/
def decL (maj n : Nat) : Option CoreOp :=
  match maj with
  | 0x01 => some (.load (lmOf .word n))
  | 0x02 => some (.load (lmOf .pair n))
  | 0x03 => some (.load (lmOf .quad n))
  | 0x04 => some (.load (lmOf .oct n))
  | 0x05 => some (.store (lmOf .word n))
  | 0x06 => some (.store (lmOf .pair n))
  | 0x07 => some (.store (lmOf .quad n))
  | 0x08 => some (.store (lmOf .oct n))
  | 0x09 => if bits n 8 0 = 0 then some (.movo ⟨f5 n 21, f5 n 16, f3 n 13, f3 n 10, bitN n 9⟩) else none
  | 0x0A => if bits n 8 0 = 0 then some (.fld ⟨f5 n 21, f3 n 18, f6 n 12, f2 n 10, bitN n 9⟩) else none
  | 0x0B =>
    if bits n 8 0 = 0 ∧ bits n 13 12 = 0 then some (.fst ⟨f5 n 21, f3 n 18, f4 n 14, f2 n 10, bitN n 9⟩) else none
  | 0x0C =>
    if bits n 15 0 ≠ 0 then none
    else if bitN n 16 then some (.mfs (f3 n 23) (f6 n 17)) else some (.lseg (f3 n 23) (f6 n 17))
  | 0x0D => if bits n 7 0 = 0 then some (.casp ⟨f5 n 21, f5 n 16, f5 n 11, f3 n 8⟩) else none
  | _ => none

/-- The operation a slot reads from an operation word; `none` is an illegal operation (R94). Of major 0x00 R96 names the word 0
alone a NOP: every other word of it is an illegal operation. (DESIGN CHOICE, log entry 96) -/
def decodeOp (s : Slot) (w : Pair) : Option CoreOp :=
  let n := w.toNat
  let maj := bits n 31 26
  if n = 0 then some .nop
  else if 0x30 ≤ maj then some (.emul w)
  else
    let o := match s with
      | .a => decAB maj n
      | .b => decB maj n
      | .m => decM maj n
      | .l => decL maj n
    o.filter (opLegal s)

/-- The four operation words of a bundle (R92): slot A in words 0 and 1, B in 2 and 3, M in 4 and 5, L in 6 and 7. -/
def slotWord (s : Slot) (b : Oct) : Pair :=
  match s with
  | .a => b.extractLsb' 0 32
  | .b => b.extractLsb' 32 32
  | .m => b.extractLsb' 64 32
  | .l => b.extractLsb' 96 32

end Sys2Proof.Machine
end

