-- ==== Sys2Proof/Machine/Table.lean ====
section
/-! DEFINITION. Sparse tables: the plain data every indexed piece of state is kept in. A table lists (key, value) pairs with
strictly rising keys, and no pair that equals what an unlisted key reads as, so that equal tables are equal data. -/

namespace Sys2Proof.Machine

/-- A sparse table. What an unlisted key reads as is given at each read and write. -/
abbrev Tbl (α : Type) := List (Nat × α)

/-- The value at key `k`; `d` is what an unlisted key reads as. -/
def tget {α : Type} (d : α) : Tbl α → Nat → α
  | [], _ => d
  | (j, x) :: t, k => if j = k then x else tget d t k

/-- The table without key `k`. -/
def terase {α : Type} : Tbl α → Nat → Tbl α
  | [], _ => []
  | (j, x) :: t, k => if j = k then terase t k else (j, x) :: terase t k

/-- Put `(k, v)` in its place in a rising table that does not list `k`. -/
def tinsert {α : Type} : Tbl α → Nat → α → Tbl α
  | [], k, v => [(k, v)]
  | (j, x) :: t, k, v => if k < j then (k, v) :: (j, x) :: t else (j, x) :: tinsert t k v

/-- The table with key `k` holding `v`: writing what an unlisted key reads as removes the entry. -/
def tset {α : Type} [DecidableEq α] (d : α) (t : Tbl α) (k : Nat) (v : α) : Tbl α :=
  if v = d then terase t k else tinsert (terase t k) k v

/-- The table without the `n` keys from `lo`. -/
def tclear {α : Type} (t : Tbl α) (lo n : Nat) : Tbl α := t.filter (fun e => e.1 < lo || lo + n ≤ e.1)

/-- The table in which the `n` keys from `lo` hold `xs`, a rising list of pairs within them. -/
def tsplice {α : Type} (t : Tbl α) (lo n : Nat) (xs : Tbl α) : Tbl α :=
  t.filter (fun e => e.1 < lo) ++ xs ++ t.filter (fun e => lo + n ≤ e.1)

/-- The table in which the `n` keys from `dst` hold what those from `src` hold. -/
def tcopy {α : Type} (t : Tbl α) (src dst n : Nat) : Tbl α :=
  tsplice t dst n ((t.filter (fun e => src ≤ e.1 && e.1 < src + n)).map (fun e => (dst + (e.1 - src), e.2)))

/-- The canonical form of a table. -/
def twf {α : Type} [DecidableEq α] (d : α) (t : Tbl α) : Bool :=
  t.all (fun e => decide (e.2 ≠ d)) && decide (t.Pairwise (fun a b => a.1 < b.1))

end Sys2Proof.Machine
end

