-- ==== Sys2Proof/Machine/State.lean ====
section
/-! DEFINITION. The state of the chip as plain data, the ways a step can stop, and the state after power-on reset. -/

namespace Sys2Proof.Machine

/-! ### The core: registers, in-flight results, translation, prediction (chapters "Core Execution" to "Segments") -/

/-- A segment register, or a captured descriptor held with a selector: the selector, the descriptor oct as captured, and
whether it was captured valid (R199 to R202). -/
structure SegReg where
  sel   : Word := 0
  raw   : Oct := 0
  valid : Bool := false
  deriving DecidableEq, Repr

/-- A TLB entry (R213): `pte` keeps the fields of the leaf that the entry holds, at their places in a leaf, and 0 elsewhere. -/
structure TlbEntry where
  v     : Bool := false
  world : Bool := false
  asid  : BitVec 12 := 0
  vpn   : BitVec 30 := 0
  pte   : Quad := 0
  deriving DecidableEq, Repr

/-- A walk-cache entry (R222): level 2 holds L2I, level 1 holds L2I and L1I. -/
structure WcEntry where
  world : Bool
  asid  : BitVec 12
  level : Nat
  idx   : Nat
  ppn   : Nat
  deriving DecidableEq, Repr

/-- The causes of R179. -/
inductive Cause where
  | ifseg | iftlb | ifprot | ifbus | ifmiss | illegal | priv | sched | farop | align | dseg | dtlb | dprot | dmark
  | dmiss | dbus | decc | emul | intr
  deriving DecidableEq, Repr

/-- A cause as a bundle raises it: its slot, the ADDR and INFO words of the frame (R184), and the linear address for FLTLIN
(R214 to R216). -/
structure Raised where
  cause : Cause
  slot  : Slot := .a
  addr  : Nat := 0
  info  : Nat := 0
  lin   : Option Nat := none
  deriving DecidableEq, Repr

/-- What a landing result writes (R64, R65); `tdata` is the trace packet of a load or a MOVO, emitted when its data is known
(R406). -/
inductive LWrite where
  | w (n : Nat) (x : Word)
  | v (n : Nat) (x : Oct)
  | acc (n lane : Nat) (x : BitVec 40)
  | vmac (n : Nat) (zero : Bool) (prods : List Int)
  | flags (c v n z : Bool)
  | sticky (m : Pair)
  | stRw (mask x : Pair)
  | fl (x : Pair)
  | ct (x : Pair)
  | lk (x : Pair)
  | creg (n : Nat) (x : Pair)
  | eff (n : Nat) (x : Pair)
  | edesc (n : Nat) (s : SegReg)
  | seg (n : Nat) (s : SegReg)
  | core (n : Nat) (x : Pair)
  | coreEff (n : Nat) (x : Pair)
  | key (x : Quad)
  | tlbw (n : Nat) (e : TlbEntry)
  | tlbi (scope : Nat) (world : Bool) (asid : BitVec 12) (lin : Nat)
  | tdata (rng : Nat) (wr : Bool) (addr size : Nat) (x : Oct)
  deriving DecidableEq, Repr

/-- A result in flight: written at the end of cycle `at`; `issue` and `pri` order results that land together (R65). -/
structure Landing where
  at_   : Nat
  issue : Nat
  pri   : Nat
  wr    : LWrite
  deriving DecidableEq, Repr

/-- Where a checked access goes (R208, R230). -/
inductive Target where
  | tight (off : Nat)
  | mem (addr : Nat) (cached : Bool)
  | reg (addr : Nat)
  deriving DecidableEq, Repr

/-- A store in flight: performed at the end of cycle `at` (R68). `movo` reads its source first. -/
structure PStore where
  at_  : Nat
  dst  : Target
  n    : Nat
  data : Oct
  src  : Option Target := none
  deriving DecidableEq, Repr

/-- A pending branch: its target, the delay-slot bundles still to issue, and the empty issue cycles before the target (R72,
R77). -/
structure Branch where
  target : Pair
  left   : Nat
  gap    : Nat
  deriving DecidableEq, Repr

/-- A repetition in progress (R81 to R89): REPI or REP, and the iterations still to run. -/
structure Repeat where
  repi : Bool
  k    : Nat
  deriving DecidableEq, Repr

/-- The reissue an ERET with EMUCTL.REISSUE asks for (R128): the slot replaced by a NOP, and EMUCTL and EMURES. -/
structure Reissue where
  slot : Slot
  ctl  : Pair
  res  : Quad
  deriving DecidableEq, Repr

/-- The architectural state of a context: what a window's start loads or clears and an open window saves (R26, R27, R178).
`creg` is what MFC reads of the context's control registers, `eff` what the hardware acts on (they differ for the cycle or two
by which an MTC acts late), `edesc` the descriptors held with selectors in control registers (R189). -/
structure Arch where
  w     : Tbl Word := []
  v     : Tbl Oct := []
  a     : Tbl (BitVec 40) := []
  lk    : Pair := 0
  st    : Pair := 0
  fl    : Pair := 0
  ct    : Pair := 0
  pc    : Pair := 0
  seg   : Tbl SegReg := []
  creg  : Tbl Pair := []
  eff   : Tbl Pair := []
  edesc : Tbl SegReg := []
  br    : Option Branch := none
  rep   : Option Repeat := none
  hold  : List Word := []
  reissue : Option Reissue := none
  deriving DecidableEq, Repr

/-- Kinds of BTB entry (R164). -/
inductive BrKind where
  | direct | conditional | indirect | call
  deriving DecidableEq, Repr

/-- A branch target buffer entry (R164, R166); `use` orders the ways of a set for replacement. -/
structure BtbEntry where
  valid  : Bool := false
  tag    : BitVec 11 := 0
  ptag   : BitVec 14 := 0
  kind   : BrKind := .direct
  stored : Pair := 0
  use    : Nat := 0
  deriving DecidableEq, Repr

/-- A predictor update a branch has caused and that is not made yet, with the context tag of the branch (R165, R167). -/
structure PredUpd where
  at_    : Nat
  tag    : BitVec 11
  pc     : Pair
  kind   : Option BrKind
  taken  : Bool
  target : Pair
  push   : Option Pair
  pop    : Bool
  deriving DecidableEq, Repr

/-- The predictor of a pipeline (R164): an unlisted direction counter reads 1 (R167). -/
structure Predictor where
  btb  : Tbl BtbEntry := []
  dir  : Tbl (BitVec 2) := []
  hist : BitVec 12 := 0
  rs   : List Pair := []
  key  : Quad := 0
  keyEff : Quad := 0
  upd  : List PredUpd := []
  tick : Nat := 0
  deriving DecidableEq, Repr

/-- A line of the fetch-ahead buffer (R174 to R176): the line of the code it holds, by its number in linear addresses, its
physical number, its data as it was read, and whether it was read from L2. -/
structure FetchLine where
  code  : Nat
  line  : Nat
  data  : LineData
  l2    : Bool := false
  deriving DecidableEq, Repr

/-- An ACCESS entry as the running window uses it (R42, R69). -/
structure AccE where
  window : Nat
  ch     : Nat
  wr     : Bool
  first  : Nat
  span   : Nat
  deriving DecidableEq, Repr

/-- The running context: what the cox loads from the plan at a window's start (R25, R43, R45). -/
structure RunCtx where
  win     : Nat := 0
  ctx     : Nat := 0
  open_   : Bool := false
  party   : Nat := 0
  world   : Bool := false
  part    : Nat := 0
  level   : Nat := 0
  pred    : Bool := false
  asid    : BitVec 12 := 0
  l1i     : BitVec 4 := 0
  l1d     : BitVec 4 := 0
  tmBase  : Nat := 0
  tmSize  : Nat := 0
  saveBase : Nat := 0
  bound   : Nat := 0
  xl1i    : Bool := false
  xl1d    : Bool := false
  xwb     : Bool := false
  start   : Nat := 0
  closeAt : Nat := 0
  codeAt  : Nat := 0
  acc     : List AccE := []
  deriving DecidableEq, Repr

/-- A far operation outstanding (R69): its direction, the key pair of its world, QDR word address, tight-memory offset or data,
the cycle it issued in, the first cycle after the last granule of its ACCESS span, and the offset of its bundle. -/
structure FarOp where
  wr    : Bool
  key   : Nat
  qaddr : Nat
  toff  : Nat
  data  : Oct
  issue : Nat
  until_ : Nat
  off   : Nat := 0
  deriving DecidableEq, Repr

/-- Why a pipeline in an open window does not issue (R80, R109, R477). (DEDUCED, log entry 17) -/
inductive Stall where
  /-- A line of L1I is being filled for the fetch of the bundle at an offset. -/
  | ifetch (line off : Nat)
  /-- The bundle's operations wait for one or more lines of L1D, then act; `done` lists the lines that have come so far, `lost`
  those among them whose read by a TWALK ended as an error of the ring (R220). -/
  | miss (done lost : List Nat) (ops : List (Slot × CoreOp)) (adv : Bool)
  /-- The bundle's operations wait for the reply of an uncached access, then act (R477). -/
  | uncached (done lost : List Nat) (ops : List (Slot × CoreOp)) (adv : Bool)
  deriving DecidableEq, Repr

/-- What a pipeline is doing (R25, R28, R180, R192, R193, R252). -/
inductive RunState where
  /-- Outside windows, clock gated. -/
  | feathered
  /-- In a window, issuing. -/
  | run
  /-- After WEND. -/
  | ended
  /-- After a cause in a timed window (R180): cause code and offset of the faulting bundle. -/
  | faulted (code off : Nat)
  /-- After an abandon at a crab return (R192). -/
  | abandoned
  /-- After a fault in the crab handler (R193). -/
  | halted
  /-- Stopped by a lockstep mismatch until the next catch (R266). -/
  | mismatched
  deriving DecidableEq, Repr

/-- A pipeline: the issue logic of a core (R250). At reset PCTL holds 7, as its Reset column says. `got` holds bundles fetched
past the caches that have not issued yet, by offset (R230); `stalled` counts the cycles of stalls of this window (R410);
`guardTill` is the TB instant at which the exit work ends (R252); `fapath` the offsets of the bundles fetch-ahead has passed
beyond issue, in path order, and `faStop` whether it has stopped until issue reaches the line it stands at (R175, R176);
`farBars` the cycles of the MBARs of this window that order far operations (R242). -/
structure Pipe where
  arch   : Arch := { creg := [(0x62, 7)], eff := [(0x62, 7)] }
  core   : Tbl Pair := []
  coreEff : Tbl Pair := []
  cycle  : Nat := 0
  stalled : Nat := 0
  issued : Bool := false
  gap    : Nat := 0
  fly    : List Landing := []
  stores : List PStore := []
  occ    : Tbl Nat := []
  pend   : Option Raised := none
  stall  : Option Stall := none
  run    : RunState := .feathered
  ctx    : Option RunCtx := none
  far    : List FarOp := []
  tlb    : Tbl TlbEntry := []
  wc     : List WcEntry := []
  pred   : Predictor := {}
  got    : List (Nat × Oct) := []
  fab    : List FetchLine := []
  fapath : List Nat := []
  fapc   : Option Pair := none
  faBr   : Option Branch := none
  faStop : Bool := false
  farBars : List Nat := []
  lastOpen : Option Nat := none
  lastPred : Option Nat := none
  closing  : Bool := false
  guardTill : Nat := 0
  deriving DecidableEq, Repr

/-! ### Arrays (chapter "Tight Memory, Caches and Ordering") -/

/-- A cache line (R231): its physical line number, data, state, in `bad` its uncorrectable quads, and whether its tag and state
are uncorrectable (R247). -/
structure Line where
  valid : Bool := false
  line  : Nat := 0
  data  : LineData := 0
  dirty : Bool := false
  lock  : Bool := false
  bad   : BitVec 8 := 0
  tagBad : Bool := false
  use   : Nat := 0
  deriving DecidableEq, Repr

/-- A cache: way × 4,096 + set names a line; `tick` orders uses for least-recently-used replacement (R232). -/
structure Cache where
  lines : Tbl Line := []
  tick  : Nat := 0
  deriving DecidableEq, Repr

/-- An array set: L1I and L1D of a core (R250). Its tight memory stands in the one memory of the chip. -/
structure ArraySet where
  l1i : Cache := {}
  l1d : Cache := {}
  deriving DecidableEq, Repr

/-! ### Eights (chapter "Eights, Lockstep and Spare Cores") -/

/-- The power states of ESTAT.PWR (R253). -/
inductive EPwr where
  | gated | up | on | down
  deriving DecidableEq, Repr

/-- The states of a pipeline beside its service (R251, R259). -/
inductive PipeSt where
  | service | spare | test | retired
  deriving DecidableEq, Repr

/-- A substitution trigger of an architectural core (R254, R255): its rank, the instant it was raised, and whether it found no
SPARE pipeline before. -/
structure Trigger where
  rank   : Nat
  core   : Nat
  at_    : Nat
  again  : Bool := false
  deriving DecidableEq, Repr

/-- A background move of a core to the spare array set (R260); `done` once the copy has completed. -/
structure ArrMove where
  core   : Nat
  dest   : Nat
  done   : Bool
  deriving DecidableEq, Repr

/-- One eight (R250 to R268): power, the pipeline and the array set of each of its cores by index within the eight, the state
of each pipeline, the L2, and what the cox holds for the next catch. -/
structure Eight where
  pwr    : EPwr := .gated
  map    : List (Option Nat) := (List.range 8).map some
  amap   : List Nat := List.range 8
  spareArr : Option Nat := some 8
  pst    : Tbl PipeSt := [(8, .spare)]
  l2     : Cache := {}
  clrL2  : BitVec 16 := 0
  clrL1  : Tbl Nat := []
  trig   : List Trigger := []
  move   : Option ArrMove := none
  quarCore : List Nat := []
  stuck  : List Nat := []
  aging  : Tbl Nat := []
  deriving DecidableEq, Repr

/-! ### The stroke plan (chapter "Strokes, Windows and the Stroke Plan") -/

/-- A PARTY entry (R42). -/
structure PartyE where
  party : Nat
  world : Bool
  valid : Bool
  deriving DecidableEq, Repr

/-- A PARTITION entry (R42). -/
structure PartE where
  part  : Nat
  party : Nat
  ovp   : Nat
  rsp   : Nat
  deriving DecidableEq, Repr

/-- An OWNERSHIP entry (R44). -/
structure OwnE where
  kind  : Nat
  party : Nat
  first : Nat
  last  : Nat
  deriving DecidableEq, Repr

/-- A CONTEXT entry (R45). -/
structure CtxE where
  part     : Nat := 0
  open_    : Bool := false
  level    : Nat := 0
  pred     : Bool := false
  asid     : Nat := 0
  entrySel : Nat := 0
  entryOff : Nat := 0
  bound    : Nat := 0
  l1i      : Nat := 0
  l1d      : Nat := 0
  tmBase   : Nat := 0
  tmSize   : Nat := 1
  saveBase : Nat := 0
  ssg      : Nat := 0
  spInit   : Nat := 0
  deriving DecidableEq, Repr

/-- A WINDOW entry (R43). -/
structure WinE where
  start  : Nat := 0
  length : Nat := 4
  open_  : Bool := false
  xl1i   : Bool := false
  xl1d   : Bool := false
  xwb    : Bool := false
  divm1  : Nat := 0
  phase  : Nat := 0
  ctx    : Nat := 0
  party  : Nat := 0
  entry  : Nat := 2
  guard  : Nat := 1
  deriving DecidableEq, Repr

/-- A SEAT entry (R42). -/
structure SeatE where
  src   : Nat
  dst   : Nat
  vn    : Nat
  party : Nat
  valid : Bool
  deriving DecidableEq, Repr

/-- A QDRWIN entry (R44). -/
structure QwinE where
  start  : Nat
  length : Nat
  party  : Nat
  ports  : Nat
  deriving DecidableEq, Repr

/-- An FPINST entry (R34, R44). -/
structure FpiE where
  instant : Nat
  tx      : Bool
  divm1   : Nat
  phase   : Nat
  laneA   : Nat
  laneB   : Option Nat
  deriving DecidableEq, Repr

/-- A PLTGCL entry (R388). -/
structure GclE where
  offset : Nat
  gates  : Nat
  deriving DecidableEq, Repr

/-- A LANECONN entry (R307). -/
structure ConnE where
  kind : Nat
  a    : Nat
  b    : Nat
  dir  : Nat
  port : Nat
  aux  : Nat
  deriving DecidableEq, Repr

/-- A plan image read into its tables (R39 to R45); the tables of each core, ring, channel, port and eight by its number. -/
structure Plan where
  planId : Nat := 0
  seq    : Nat := 0
  length : Nat := 0
  stroke : Nat := 1000
  epoch  : Nat := 0
  swing  : Nat := 0
  paired : Bool := false
  keyId  : Nat := 0
  digest : List Word := []
  parties    : List PartyE := []
  partitions : List PartE := []
  owns   : List OwnE := []
  ctxs   : Tbl (List CtxE) := []
  wins   : Tbl (List WinE) := []
  accs   : Tbl (List AccE) := []
  seats  : Tbl (List SeatE) := []
  qwins  : Tbl (List QwinE) := []
  fpis   : Tbl (List FpiE) := []
  gcls   : Tbl (List GclE) := []
  l2map  : Tbl (List (Option Nat)) := []
  conns  : List ConnE := []
  deriving DecidableEq, Repr

/-- The states of a plan bank (R48). -/
inductive BankSt where
  | empty | loading | admitted | armed | live
  deriving DecidableEq, Repr

/-- A plan bank (R48): the image loaded and its tables. -/
structure Bank where
  st   : BankSt := .empty
  plan : Option Plan := none
  img  : List Word := []
  deriving DecidableEq, Repr

/-! ### The event hub (chapter "The Event Hub") -/

/-- The configuration of a source (R272, R273). -/
structure SrcCfg where
  pri : Nat := 0xFF
  tgt : Nat := 127
  fbk : Nat := 127
  deriving DecidableEq, Repr

/-- An entry of a running-priority stack (R278); `stale` by R271. -/
structure StackE where
  id    : Nat
  pri   : Nat
  stale : Bool := false
  deriving DecidableEq, Repr

/-- A target slice (R280): the stack (top first), the registers, the moderation timer's start, whether the line is released,
and the request line as last driven. -/
structure Slice where
  stack  : List StackE := []
  tctl   : Nat := 0x100
  modctl : Nat := 0
  wmask  : Nat := 0xFFFF_FFFF
  cfgsel : Nat := 0
  timer  : Option Nat := none
  released : Bool := false
  line   : Bool := false
  deriving DecidableEq, Repr

/-- The hub (R269 to R287). `ntDue` holds the sources that the next evaluation records in NTSRC; `gen` counts, for each source,
the changes of owner that have reset it (R271). -/
structure Hub where
  pend   : Nat := 0
  ena    : Nat := 0
  mask   : Nat := 0
  act    : Nat := 0
  cfg    : Tbl SrcCfg := []
  slices : Tbl Slice := []
  pstat  : Tbl Nat := []
  ntDue : List Nat := []
  gen   : Tbl Nat := []
  deriving DecidableEq, Repr

/-! ### Rings, the lane engine and handles (chapter "Rings, Seats and Lanes") -/

/-- A flit (R290 to R292). `launch` is the launch bit of R295. -/
structure Flit where
  src    : Nat
  dst    : Nat
  vn     : Nat
  party  : Nat
  launch : Bool
  guar   : Bool
  agent  : Nat
  seq    : Nat
  tag    : Nat
  data   : Oct
  poison : Bool := false
  deriving DecidableEq, Repr

/-- A flit placed on a ring at a TB instant (one NCLK is 1 ns), still in its source's retention buffer; `taken` once the
destination has accepted (`some true`) or refused (`some false`) it (R289, R301). -/
structure Flight where
  ring  : Nat
  t     : Nat
  hops  : Nat
  flit  : Flit
  taken : Option Bool
  deriving DecidableEq, Repr

/-- A flit in an inbound buffer, with the instant at which its entry is free again. -/
structure Inbound where
  t    : Nat
  flit : Flit
  deriving DecidableEq, Repr

/-- The rings: flits in flight or retained; flits that agents have offered and that wait for a slot, by ring, in the order
offered; the next sequence number of each source, and the agent that last had its turn, by ring, stop and network (R300); flits
to place again after a refusal, by ring; inbound buffers by ring, stop and network; the next sequence number expected by (stop,
source, agent, class, network) (R301, R302); and the responses to discard, by the stop they come to, the one they come from and
their tag (R303). -/
structure Rings where
  flights : List Flight := []
  waiting : List (Nat × Flit) := []
  sent    : Tbl Nat := []
  turn    : Tbl Nat := []
  resend  : List (Nat × Flit) := []
  inbound : Tbl (List Inbound) := []
  seqs    : Tbl Nat := []
  late    : List (Nat × Nat × Nat) := []
  deriving DecidableEq, Repr

/-- The states of a lane (R305). -/
inductive LaneRun where
  | stopped | run | error
  deriving DecidableEq, Repr

/-- A lane: its context registers, the configuration it runs with, and its pinned descriptor (R304 to R310). -/
structure Lane where
  cfg   : Nat := 0
  link  : Nat := 0
  pidx  : Nat := 0
  cidx  : Nat := 0
  en    : Bool := false
  st    : LaneRun := .stopped
  err   : Nat := 0
  wign  : Bool := false
  full  : Bool := false
  note  : Bool := false
  pin   : Option Oct := none
  aCfg  : Nat := 0
  aLink : Nat := 0
  deriving DecidableEq, Repr

/-- The handle table of a party (R315, R316): slots never used from `fresh` up, the freed slots in the order they were freed,
the generation of each slot, and the slots outstanding. -/
structure Handles where
  fresh : Nat := 0
  freed : List Nat := []
  gen   : Tbl Nat := []
  out   : List Nat := []
  deriving DecidableEq, Repr

/-- A command the lane engine has passed to the launch controller (R315, R437); `lane` is the completion lane. -/
structure MailCmd where
  party  : Nat
  lane   : Nat
  handle : Nat
  code   : Nat
  block  : Nat
  deriving DecidableEq, Repr

/-- A completion record waiting to be written (R317, R318): words 4 to 7 are the fields of the command. -/
structure Rec where
  party  : Nat
  lane   : Nat
  handle : Nat
  code   : Nat
  tb     : Nat
  words  : List Word
  deriving DecidableEq, Repr

/-- A message copy in progress in a best-effort step unit (R302, R308): sender and receiver lane, their descriptors as taken,
and the words moved. -/
structure Copying where
  a    : Nat
  b    : Nat
  ds   : Oct
  dr   : Oct
  done : Nat
  deriving DecidableEq, Repr

/-- The lane engine: lanes, handle tables, commands passed on, records that wait; `inq` holds the octs field ports have handed
over at sample instants, with the lane of each, `due` the lanes that a closing instant steps, `copies` the copies in progress,
and `lost` the outstanding operations, by party, completion lane and handle, whose record is discarded because the lane was
reset (R314). -/
structure LaneEng where
  lanes   : Tbl Lane := []
  handles : Tbl Handles := []
  mail    : List MailCmd := []
  recs    : List Rec := []
  inq     : List (Nat × Oct) := []
  due     : List Nat := []
  copies  : List Copying := []
  lost    : List (Nat × Nat × Nat) := []
  deriving DecidableEq, Repr

/-! ### QDR and LPDDR (chapter "QDR Main Memory and LPDDR Bulk Memory") -/

/-- The states of QSTAT.STATE. -/
inductive QdrSt where
  | down | training | live | failed
  deriving DecidableEq, Repr

/-- The window that reserves a port: its entry and its party (R33, R323). -/
structure QdrWin where
  idx   : Nat
  party : Nat
  deriving DecidableEq, Repr

/-- A QDR channel: its state, the windows that reserve port A and port B, the TB instant of its last recalibration and the next
quad of its patrol. -/
structure Qdr where
  st     : QdrSt := .down
  winA   : Option QdrWin := none
  winB   : Option QdrWin := none
  calAt  : Nat := 0
  patrol : Nat := 0
  deriving DecidableEq, Repr

/-- The states of LDSTAT.STATE (R337). -/
inductive LpdSt where
  | down | training | live | frozen | sync | hold
  deriving DecidableEq, Repr

/-- A read that waits in a queue of an LPDDR channel, with the instant it was accepted (R334). -/
structure QRead where
  at_ : Nat
  rd  : LpdRead
  deriving DecidableEq, Repr

/-- A write that waits in a queue of an LPDDR channel: the instant it was accepted, its line number and its source agent
(R334). -/
structure QWrite where
  at_ : Nat
  ln  : Nat
  src : Agent
  deriving DecidableEq, Repr

/-- An LPDDR controller. `lost` names the segments of `segQ` quads that a holdover did not keep, where every poison bit is set
(R340); `poison` marks the quads whose poison bit in this controller's check lines differs from that, `bad` the quads
uncorrectable in its devices (R332), `patrol` the next line of its scrub, and `refAt` the TB instant at which each bank was
last refreshed. `reads` and `writes` are the queues of its channels, `rows` the open row of each bank, one more than its number
(R334), `frozeAt` the instant of its freeze (R338), and `copied` the device lines a remirror has copied (R339). -/
structure Lpd where
  st       : LpdSt := .down
  fallback : Bool := false
  lost     : BitVec 8 := 0
  segQ     : Nat := 0
  poison   : Tbl Bool := []
  bad      : Tbl Bool := []
  patrol   : Nat := 0
  refAt    : Tbl Nat := []
  reads    : List QRead := []
  writes   : List QWrite := []
  rows     : Tbl Nat := []
  frozeAt  : Nat := 0
  copied   : Nat := 0
  deriving DecidableEq, Repr

/-- External memory beside the contents themselves: the QDR channels, the two LPDDR controllers, the key pairs loaded, the key
pair each oct of LPDDR stands encrypted under, and which controller the next read of an agent goes to (R337). -/
structure ExtMem where
  qdr   : Tbl Qdr := []
  qpoison : Tbl Bool := []
  qbad  : Tbl Bool := []
  lpd   : Tbl Lpd := []
  keys  : Nat := 0
  keyGen : Nat := 0
  enc   : Tbl Nat := []
  turn  : Tbl Nat := []
  deriving DecidableEq, Repr

/-! ### Hand-over (chapter "Worlds, Parties and Roles") -/

/-- A block, lane range, source range or region under hand-over: from release to claim the launch controller owns it (R12,
R344). `to_` is the new owner; `done` once its reset and scrub are complete. -/
structure Hand where
  kind  : Nat
  first : Nat
  last  : Nat
  from_ : Option Nat
  to_    : Option Nat
  done  : Bool := false
  deriving DecidableEq, Repr

/-! ### Trace (chapter "Trace and Performance Counters") -/

/-- The trace encoder of an architectural core (R404 to R412): stream words not yet in a frame, whole frames held, branch
outcomes not yet in an ATOM, the previous address of each stream (plus 1; 0 before the first), packets since the last SYNC,
packets dropped, the TB of the last TS or SYNC, and the state of the last PWR. -/
structure Enc where
  words  : List Word := []
  frames : List Oct := []
  atoms  : List Bool := []
  prev   : Tbl Nat := []
  pkts   : Nat := 0
  lost   : Nat := 0
  tsAt   : Nat := 0
  pwr    : Nat := 0
  deriving DecidableEq, Repr

/-- The states of TRSTAT.STATE (R414). -/
inductive TrSt where
  | off | run | wake | stopped
  deriving DecidableEq, Repr

/-- The trace funnel and buffer (R412 to R414). -/
structure Trace where
  st      : TrSt := .off
  encs    : Tbl Enc := []
  buf     : Tbl Oct := []
  wr      : Nat := 0
  drained : Nat := 0
  trigWr  : Nat := 0
  trigAt  : Nat := 0
  deriving DecidableEq, Repr

/-! ### Roles and the journal (chapter "Worlds, Parties and Roles") -/

/-- A slot of the credential store (R359): role 0 empty, 1 operator, 2 installer, 3 revoked; the public key (x, y) and the last
accepted NONCE. The maker's key is held in the same form. -/
structure Cred where
  role  : Nat := 0
  keyId : Nat := 0
  x     : Nat := 0
  y     : Nat := 0
  nonce : Nat := 0
  deriving DecidableEq, Repr

/-- A journal entry (R361); `digest` and `prev` are digests as integers. -/
structure JEntry where
  seq    : Nat := 0
  time   : Nat := 0
  kind   : Nat := 0
  role   : Nat := 0
  keyId  : Nat := 0
  code   : Nat := 0
  status : Nat := 0
  epoch  : Nat := 0
  step   : Nat := 0
  digest : Nat := 0
  prev   : Nat := 0
  deriving DecidableEq, Repr

/-- A long operation accepted and not completed (R49): its code, where its record goes, its journal entry, and an operand that
its completion needs. -/
structure LongOp where
  code   : Nat
  party  : Nat
  lane   : Nat
  handle : Nat
  jseq   : Option Nat
  arg    : Nat := 0
  deriving DecidableEq, Repr

/-- Credentials, the anchor, the journal and the long operations of the launch controller (R358 to R365). `loaded` says whether
step CREDENTIALS has loaded the store since the last power-on reset; until then the registers of the store read their reset
values. `oppol` and `roleCfg` are the policy fields of the store (R359, R434). -/
structure Roles where
  creds   : Tbl Cred := []
  loaded  : Bool := false
  oppol   : Nat := 0
  roleCfg : Nat := 3
  maker   : Cred := {}
  epoch   : Nat := 0
  step    : Nat := 0
  jseq    : Nat := 0
  journal : Tbl JEntry := []
  newest  : Option JEntry := none
  alarms  : List Nat := []
  ops     : List LongOp := []
  partner : Nat := 0
  deriving DecidableEq, Repr

/-! ### Worlds and partitions -/

/-- The states of a world (WSTAT). -/
inductive WorldSt where
  | down | starting | run | restarting | failed
  deriving DecidableEq, Repr

/-- A world: its state, the digest its image was measured to at the last power-on reset (as an integer), the image loaded,
whether a restart begins at the next catch, and whether one has loaded and ends at it (R351 to R356). -/
structure WorldS where
  st   : WorldSt := .down
  wm   : Nat := 0
  img  : List Word := []
  due  : Bool := false
  done : Bool := false
  deriving DecidableEq, Repr

/-- The states of a partition (R348). -/
inductive PartSt where
  | run | stopped | restarting
  deriving DecidableEq, Repr

/-- A partition: its state, what is due at the next catch (start, restart, the strongest overrun policy and the windows its
SKIP names), the windows whose next run a SKIP takes away, whether restart work has ended, and whether it ends STOPPED (R57,
R348, R350). -/
structure PartS where
  st      : PartSt := .run
  start   : Bool := false
  restart : Bool := false
  policy  : Nat := 0
  skips   : List (Nat × Nat) := []
  skipOn  : List (Nat × Nat) := []
  done    : Bool := false
  hold    : Bool := false
  deriving DecidableEq, Repr

/-! ### Ports (chapter "Field Ports, Plant Ports, Pair Link and Time") -/

/-- The states of a field port's supply (R382). -/
inductive Supply where
  | off | soft | on | tripped
  deriving DecidableEq, Repr

/-- The three profile registers a PORT_PROFILE has staged, and when (R403). -/
structure Profile where
  at_ : Nat
  p0  : Nat
  p1  : Nat
  p2  : Nat
  deriving DecidableEq, Repr

/-- A field port (R376 to R384, R402): the sample register with the flags of its next oct, the last oct delivered on each lane
and the lanes with one since the last transmit instant, a frame received that awaits the lane engine, the supply with the
instants that bound it, which conditions the last conversion exceeded, a REARM that waits for ungating (the unit and party that
wrote it), a profile that waits for the next catch, and the last frame sent with the instant it ends. -/
structure FPort where
  data   : Quad := 0
  rxts   : Nat := 0
  seq    : Nat := 0
  fresh  : Bool := false
  rxerr  : Bool := false
  age    : Nat := 0
  outs   : Tbl (Option Oct) := []
  outNew : List Nat := []
  rx     : Option (List Byte) := none
  supply : Supply := .off
  softAt : Nat := 0
  tripAt : Option Nat := none
  exceeded   : List Nat := []
  rearm  : Option (Nat × Option Nat) := none
  prof   : Option Profile := none
  sent   : List Byte := []
  txEnd  : Nat := 0
  deriving DecidableEq, Repr

/-- Sequence generation or recovery of a stream entry (R389). -/
structure Strm where
  seq  : Nat := 0
  hist : Nat := 0
  live : Bool := false
  deriving DecidableEq, Repr

/-- A frame queued at a plant port: its traffic class, whether it is a GUAR frame, and its bytes without the FCS. -/
structure PFrame where
  tc   : Nat
  guar : Bool
  data : List Byte
  deriving DecidableEq, Repr

/-- A plant port: frames queued in the transmit buffer (R388, R390, R402), frames received that await the lane engine, with
their stamps, the state of its stream entries, the last frame sent and the instant it ends, the TB instant at which training
last started (R387), the rank of the clock last announced on it and the delay to its peer in ns (R371). -/
structure PPort where
  queue : List PFrame := []
  rx    : List (Nat × List Byte) := []
  strm  : Tbl Strm := []
  sent  : List Byte := []
  txEnd : Nat := 0
  trainAt   : Nat := 0
  announced : Option Nat := none
  delay     : Nat := 0
  deriving DecidableEq, Repr

/-- The states of the pair link (R394). -/
inductive PairSt where
  | silent | align | attention | go
  deriving DecidableEq, Repr

/-- The pair link (R393 to R401): state with the instant it was entered, role, good lanes, spare and lanes retraining, the last
exit cause and round trip, a loss with its instant, since when this chip is active, whether it becomes standby at the first
catch in GO, the next sequence number expected and the failures of the flit awaited, a yield of the partner, what the mirror
has sent this stroke, the write position in the shadow and whether the stroke's mirror is complete, whether the last stroke's
was, the switch catch of a mirror table, and the catch at which GO begins; the partner's decisions on its armed plan and mirror
table (R51, R403); flits sent and not yet acknowledged, oldest first with the next sequence number, at most 128 (R402), those
that wait for room, and when one was last sent (R397); the nonce and the signed report sent in ATTENTION (R395). -/
structure PairLink where
  st      : PairSt := .silent
  since   : Nat := 0
  active  : Bool := false
  actAt   : Nat := 0
  lanes   : Nat := 0
  spare   : Option Nat := none
  retrain : List Nat := []
  cause   : Nat := 0
  rtt     : Nat := 0
  loss    : Option Nat := none
  standbyAt : Bool := false
  rxSeq   : Nat := 0
  bad     : Nat := 0
  yieldGot : Bool := false
  mirOut  : List Word := []
  mirPos  : Nat := 0
  mirDone : Bool := false
  mcomp   : Bool := false
  swAt    : Option Nat := none
  goAt    : Option Nat := none
  peer    : Option PlanMark := none
  peerMir : Option Bool := none
  txSeq   : Nat := 0
  replay  : List PairBody := []
  waiting : List PairBody := []
  nakked  : Nat := 0
  sentAt  : Nat := 0
  nonce   : Nat := 0
  report  : List Word := []
  deriving DecidableEq, Repr

/-! ### Power, reset and start-up (chapter "Clocks, Power, Reset and Start-Up") -/

/-- The states of the chip (R428). -/
inductive PwrSt where
  | off | rom | startup | run | holdover | safe
  deriving DecidableEq, Repr

/-- The test access port (R466): its instruction, the latches of the boundary chain, and the bits the last scan gave to TDO. -/
structure Tap where
  ir    : TapInstr := .idcode
  chain : List Bool := []
  tdo   : List Bool := []
  deriving DecidableEq, Repr

/-- Power, reset and start-up: the chip's state, the pins PWRSTAT reports, the start-up steps ended, whether step RELEASE has
begun, the instant of a CHIP_RESET under way, whether a clock fault awaits its WARM reset and which, whether the fuses, the
directory and the CREDS region have been read, the fused device secret, the firmware slots as FW_UPDATE left them with the
active and the pending one, the watermark of the launch firmware (as an integer), the device key, retired pipelines, the
retained plan image, the owners of LPDDR granules at their last completed claim, each party with its world at bit 6, and the
test access port (R428 to R443, R466). (DEDUCED, log entry 54) -/
structure Power where
  st       : PwrSt := .rom
  pfail    : Bool := false
  pgCore   : Bool := false
  pgSer    : Bool := false
  pgIo     : Bool := false
  ended    : List Nat := []
  releasing : Bool := false
  resetDue : Option Nat := none
  faultDue : Bool := false
  fused    : Bool := false
  secret   : Nat := 0
  dirRead  : Bool := false
  credsRead : Bool := false
  fw       : Tbl (List Word) := []
  fwActive : Nat := 0
  fwPend   : Option Nat := none
  wmLaunch : Nat := 0
  devKey   : Nat := 0
  retired  : List Nat := []
  retained : List Word := []
  lastOwns : List OwnE := []
  tap      : Tap := {}
  deriving DecidableEq, Repr

/-! ### The chip -/

/-- What the chip keeps of an open context between its windows (R27, R178, R194): its architectural state as the cox saved it,
whether a save or an image has been written, whether it is damaged (R56, R193), and for each entry of its saved stack, from the
bottom, the owner count of its source, none for a stale one (R271); `fresh` while it starts from the reset state, `first` while
its first window is still to come. -/
structure Saved where
  arch    : Arch := {}
  have_   : Bool := false
  damaged : Bool := false
  fresh   : Bool := true
  first   : Bool := true
  marks   : List (Option Nat) := []
  key     : Quad := 0
  keyNew  : Bool := true
  deriving DecidableEq, Repr

/-- What COMMIT keeps of a page: when and by whom the staged set was last captured, and whether a staged write arrived after it
(R451). -/
structure Capture where
  at_   : Nat := 0
  unit  : Nat := 64
  party : Option Nat := none
  dirty : Bool := false
  deriving DecidableEq, Repr

/-- Everything the spec gives the chip. -/
structure Chip where
  pipes  : Tbl Pipe := []
  sets   : Tbl ArraySet := []
  eights : Tbl Eight := []
  mem    : List Host.Cell := []
  tmBad  : Tbl Bool := []
  ext    : ExtMem := {}
  rings  : Rings := {}
  lane   : LaneEng := {}
  saved  : Tbl Saved := []
  hand   : List Hand := []
  handN  : Nat := 0
  armRec : Option (Nat × Nat) := none
  gated  : List (Nat × Bool) := []
  free   : Nat := 0
  trace  : Trace := {}
  blk    : Tbl Nat := []
  blkAt  : Nat := 0
  roles  : Roles := {}
  web    : WorldS := {}
  deckle : WorldS := {}
  dfail  : Bool := false
  wdAt   : Option Nat := none
  parts  : Tbl PartS := []
  yieldDue : Bool := false
  fp     : Tbl FPort := []
  plt    : Tbl PPort := []
  pair   : PairLink := {}
  lockAt : Option Nat := none
  power  : Power := {}
  regs     : Tbl Nat := []
  staged   : Tbl Nat := []
  captured : Tbl Nat := []
  caps     : Tbl Capture := []
  banked   : Tbl Nat := []
  hub    : Hub := {}
  reply  : Nat := 0
  bankA  : Bank := {}
  bankB  : Bank := {}
  liveB  : Bool := false
  isLive : Bool := false
  armedAt : Option Nat := none
  committed : Bool := false
  now    : Nat := 0
  nowFrac : Nat := 0
  catchAt : Nat := 0
  stroke : Nat := 0
  strokeOn : Bool := false
  deriving DecidableEq, Repr

/-! ### The model's state -/

/-- The chip and the commands that wait for it, first in, first out. (DESIGN CHOICE, log entry 1) -/
structure State where
  chip    : Chip := {}
  pending : List Instr := []
  deriving DecidableEq, Repr

/-- The ways a step can stop with a fault. There are none: the spec gives every command an effect in every state, be it only to
change nothing, and no command raises one. -/
inductive Fault where
  deriving DecidableEq, Repr

/-- The ways a step can refuse a command. -/
inductive Refusal where
  /-- A command of the table that has no meaning yet, by its mnemonic. No arm of `exec` answers with it. Safe: the model stops
  where the chip would go on. -/
  | notModelled (mnemonic : String)
  deriving DecidableEq, Repr

/-- What a command answers. -/
abbrev Result := Host.Outcome State Fault Refusal

/-- The chip right after power-on reset, in start-up step ROM (R433, R440), and an empty queue. (DESIGN CHOICE, log entry 3) -/
def State.reset : State := {}

end Sys2Proof.Machine
end

