-- ==== Sys2Proof/Config.lean ====
section
/-! DEFINITION. The values the spec leaves open, as constants without a body: nothing can be proved about which value they
take, so a claim about the machine holds for every one. -/

namespace Sys2Proof.Config

/-- A key pair of LPDDR, data key in the low half (R333): by the counter of State that the launch controller's random source
was at when it drew the three pairs, and the number of the pair. (DESIGN CHOICE, log entry 6) -/
opaque xtsKey : Nat → Nat → BitVec 512

/-- A fresh value the spec does not give: keys, nonces, the servo's rate, missing payload bytes. The argument is a counter of
State. (DESIGN CHOICE, log entry 5) -/
opaque freeValue : Nat → Nat

/-- The code a device or alarm record carries in CODE (R361), by the model's number for its event. (DESIGN CHOICE, log entry
7) -/
opaque recordCode : Nat → BitVec 16

/-- The digest of the data of a device or alarm record (R361), by its event and the counter of State. (DESIGN CHOICE, log entry
7) -/
opaque recordDigest : Nat → Nat → Nat

/-- Word `i` (below 0x1B8) of a save area as the cox writes it for an architectural state: its layout is not given (R27).
(DESIGN CHOICE, log entry 8) -/
opaque saveWord : Machine.Arch → Nat → Word

/-- Field `n` of the architectural state a save area of 512 words restores: its layout is not given (R27, R178). (DESIGN
CHOICE, log entry 8) -/
opaque savedField : List Word → Nat → Nat

/-- Byte `i` of the address of plant port `n`, which GUAR frames carry as their source (R390). (DESIGN CHOICE, log entry 9) -/
opaque portAddr : Nat → Nat → Byte

/-- What ranks this chip's clock after priority1 in gPTP: its quality, priority2 and identity are not given (R371). (DESIGN
CHOICE, log entry 102) -/
opaque clockRest : Nat

/-- The device key derived from the fused device secret and WMLAUNCH: the derivation is not given (R353). (DESIGN CHOICE, log
entry 5) -/
opaque deviceKey : Nat → Nat → Nat

/-- The cells of the boundary chain: the spec names the pins it covers, not its length or order (R466). (DESIGN CHOICE, log
entry 71) -/
opaque chainLen : Nat

/-- The scan that a tester makes at the test access port at a value of the counter of State, or none (R466, R467). No row of
the table carries one. (DESIGN CHOICE, log entry 71) -/
opaque testerScan : Nat → Option TapScan

end Sys2Proof.Config
end

