-- ==== Sys2Proof/Machine/Aes.lean ====
section
/-! DEFINITION. AES-256 in XTS mode, as LPDDR uses it (R333). The functions are those of FIPS 197 and IEEE 1619, which the rule
names. -/

namespace Sys2Proof.Machine

/-! ### The field of 256 elements -/

/-- A byte times x, modulo x^8 + x^4 + x^3 + x + 1. -/
def xtime (a : Nat) : Nat := if a < 128 then 2 * a else (2 * a) ^^^ 0x11B

/-- The product of two bytes. -/
def gfMul (a b : Nat) : Nat :=
  ((List.range 8).foldl (fun (p : Nat × Nat) i => (if b.testBit i then p.1 ^^^ p.2 else p.1, xtime p.2)) (0, a)).1

/-- The inverse of a byte, its power 254; 0 has 0. -/
def gfInv (a : Nat) : Nat :=
  let p2 := gfMul a a
  let p4 := gfMul p2 p2
  let p8 := gfMul p4 p4
  let p16 := gfMul p8 p8
  let p32 := gfMul p16 p16
  let p64 := gfMul p32 p32
  gfMul (gfMul p64 p64) (gfMul (gfMul p64 p32) (gfMul (gfMul p16 p8) (gfMul p4 p2)))

/-- Rotate a byte left. -/
def rol8 (a k : Nat) : Nat := (a <<< k ||| a >>> (8 - k)) % 256

/-- The substitution of a byte. -/
def subByte (a : Nat) : Nat :=
  let b := gfInv a
  b ^^^ rol8 b 1 ^^^ rol8 b 2 ^^^ rol8 b 3 ^^^ rol8 b 4 ^^^ 0x63

/-- Its inverse. -/
def invSubByte (a : Nat) : Nat := gfInv (rol8 a 1 ^^^ rol8 a 3 ^^^ rol8 a 6 ^^^ 0x05)

/-! ### AES-256: a state is 16 bytes, first byte first -/

/-- Byte by byte exclusive-or. -/
def xorBytes (a b : List Nat) : List Nat := (a.zip b).map (fun q => q.1 ^^^ q.2)

/-- Rows shifted by `k` columns times the row's number. -/
def shiftRows (k : Nat) (s : List Nat) : List Nat :=
  (List.range 16).map (fun i => s.getD (i % 4 + 4 * ((i / 4 + k * (i % 4)) % 4)) 0)

/-- Every column times the circulant matrix with a first row. -/
def mixColumns (m s : List Nat) : List Nat :=
  (List.range 16).map (fun i =>
    (List.range 4).foldl (fun x j => x ^^^ gfMul (s.getD (i / 4 * 4 + j) 0) (m.getD ((j + 4 - i % 4) % 4) 0)) 0)

/-- The word of the key schedule that follows the first `i` words, given in reverse. -/
def nextKeyWord (i : Nat) (ws : List (List Nat)) : List Nat :=
  let w := ws.headD []
  let t := if i % 8 = 0 then
      match (w.drop 1 ++ w.take 1).map subByte with
      | b :: bs => (b ^^^ 2 ^ (i / 8 - 1)) :: bs
      | [] => []
    else if i % 8 = 4 then w.map subByte else w
  xorBytes (ws.getD 7 []) t

/-- The 15 round keys of a key of 32 bytes. -/
def roundKeys (key : List Nat) : List (List Nat) :=
  let first := (List.range 8).map (fun i => (key.drop (4 * i)).take 4)
  let ws := ((List.range 52).foldl (fun ws i => nextKeyWord (i + 8) ws :: ws) first.reverse).reverse
  (List.range 15).map (fun r => (ws.drop (4 * r)).take 4 |>.flatten)

/-- Encrypt a block. -/
def aesEnc (key block : List Nat) : List Nat :=
  let ks := roundKeys key
  (List.range 14).foldl (fun s r =>
    let s := shiftRows 1 (s.map subByte)
    xorBytes (if r = 13 then s else mixColumns [2, 3, 1, 1] s) (ks.getD (r + 1) [])) (xorBytes block (ks.getD 0 []))

/-- Decrypt a block. -/
def aesDec (key block : List Nat) : List Nat :=
  let ks := roundKeys key
  (List.range 14).foldl (fun s r =>
    let s := xorBytes ((shiftRows 3 s).map invSubByte) (ks.getD (13 - r) [])
    if r = 13 then s else mixColumns [14, 11, 13, 9] s) (xorBytes block (ks.getD 14 []))

/-! ### XTS (R333) -/

/-- The bytes of a number, least significant first. -/
def bytesLe (n x : Nat) : List Nat := (List.range n).map (fun i => x / 2 ^ (8 * i) % 256)

/-- The number of bytes, least significant first. -/
def ofBytesLe (bs : List Nat) : Nat := bs.foldr (fun b x => b + 256 * x) 0

/-- A tweak times the primitive element of the field of 2^128 elements. -/
def tweakNext (t : Nat) : Nat := if t < 2 ^ 127 then 2 * t else (2 * t - 2 ^ 128) ^^^ 0x87

/-- The tweak of block `j` of a data unit under the second key. -/
def tweakOf (key unit j : Nat) : Nat :=
  (List.range j).foldl (fun t _ => tweakNext t) (ofBytesLe (aesEnc (bytesLe 32 (key / 2 ^ 256)) (bytesLe 16 unit)))

/-- Encrypt (`dec` false) or decrypt block `j` of a data unit; the key holds the data key in its low half and the tweak key in
its high half. -/
def xtsBlock (dec : Bool) (key unit j x : Nat) : Nat :=
  let t := tweakOf key unit j
  let k := bytesLe 32 key
  let b := bytesLe 16 (x ^^^ t)
  ofBytesLe (if dec then aesDec k b else aesEnc k b) ^^^ t

/-- What a block of a line reads as through the key pair `own` when its plain content was written through the pair `by_`: the
line's number is the tweak (R333). The pairs are those of a draw of the launch controller's random source. (DESIGN CHOICE, log
entry 6) -/
def xtsOther (gen by_ own line j x : Nat) : Nat :=
  xtsBlock true (Config.xtsKey gen own).toNat line j (xtsBlock false (Config.xtsKey gen by_).toNat line j x)

end Sys2Proof.Machine
end

