-- ==== Sys2Proof/Machine/RegMap.lean ====
section
/-! DEFINITION. The register map of register space: every register table of the spec as one row (R4, R6, R7, R448, R449, R452
and the register tables of each chapter), with the mask of the bits of each access code and the Reset column. Where a Reset
cell gives no number (X, Fused, or a value another rule gives) the row holds 0 and the register's own rule stands in
`RegSpace`. -/

namespace Sys2Proof.Machine

/-- The blocks that own register pages (R448); `hdr` is the header every page but LANECTX carries (R449), `ring0` the two
registers only RING0 has. -/
inductive Blk where
  | chip | clk | pwr | rst | tb | lch | wld | role | eight | core | evh0 | evh1 | evh2 | evh3 | ring | ring0 | lane | lanectx | qdr | lpd | fpx | plt | pair | trc | pmc | fp | hdr | dbg
  deriving DecidableEq, Repr

/-- A register table row: `cnt` registers from `off` at `stride`; the bits read (all but WO), the RW, W1C and RC bits, and the
value after power-on reset. -/
structure RegD where
  off    : Nat
  stride : Nat
  cnt    : Nat
  rd     : Nat
  rw     : Nat
  w1c    : Nat
  rc     : Nat
  wo     : Nat
  reset  : Nat
  sp     : SafePt
  deriving DecidableEq, Repr

/-- The register rows of CHIP: UIDL, UIDH, LCSTAT. -/
def regsChip : List RegD :=
  [⟨0x100, 0, 1, 0xffffffff, 0x0, 0x0, 0x0, 0x0, 0x0, .none_⟩,
   ⟨0x102, 0, 1, 0xffffffff, 0x0, 0x0, 0x0, 0x0, 0x0, .none_⟩,
   ⟨0x104, 0, 1, 0x3f, 0x0, 0x0, 0x0, 0x0, 0x38, .none_⟩]

/-- The register rows of CLK: CLKSTAT, CLKFLT. -/
def regsClk : List RegD :=
  [⟨0x100, 0, 1, 0xff, 0x0, 0x0, 0x0, 0x0, 0x0, .none_⟩,
   ⟨0x102, 0, 1, 0xffff000f, 0x0, 0x8, 0x0, 0x0, 0x0, .none_⟩]

/-- The register rows of PWR: PWRCFG, PWRSTAT, HOLDTBL, HOLDTBH, HOLDDUR. -/
def regsPwr : List RegD :=
  [⟨0x20, 0, 1, 0xff, 0xff, 0x0, 0x0, 0x0, 0x2, .commit⟩,
   ⟨0x100, 0, 1, 0xffff007f, 0x0, 0x0, 0x0, 0x0, 0x1, .none_⟩,
   ⟨0x102, 0, 1, 0xffffffff, 0x0, 0x0, 0x0, 0x0, 0x0, .none_⟩,
   ⟨0x104, 0, 1, 0xffffffff, 0x0, 0x0, 0x0, 0x0, 0x0, .none_⟩,
   ⟨0x106, 0, 1, 0xffffffff, 0x0, 0x0, 0x0, 0x0, 0x0, .none_⟩]

/-- The register rows of RST: RSTCAUSE, RSTCOUNT. -/
def regsRst : List RegD :=
  [⟨0x100, 0, 1, 0x7, 0x0, 0x0, 0x0, 0x0, 0x0, .none_⟩,
   ⟨0x102, 0, 1, 0xffffffff, 0x0, 0x0, 0x0, 0x0, 0x0, .none_⟩]

/-- The register rows of TB: TBCTL, TBSTAT, TBRATE, TBALARML, TBALARMH, TBNOWL, TBNOWH. -/
def regsTb : List RegD :=
  [⟨0x20, 0, 1, 0x1fff, 0x1fff, 0x0, 0x0, 0x0, 0x1fc3, .tbctl⟩,
   ⟨0x100, 0, 1, 0xffff001f, 0x0, 0x0, 0x0, 0x0, 0x0, .none_⟩,
   ⟨0x102, 0, 1, 0xffffff, 0x0, 0x0, 0x0, 0x0, 0x0, .none_⟩,
   ⟨0x140, 4, 4, 0xffffffff, 0xffffffff, 0x0, 0x0, 0x0, 0x0, .none_⟩,
   ⟨0x142, 4, 4, 0xffffffff, 0xffffffff, 0x0, 0x0, 0x0, 0x0, .none_⟩,
   ⟨0x180, 0, 1, 0xffffffff, 0x0, 0x0, 0x0, 0x0, 0x0, .none_⟩,
   ⟨0x182, 0, 1, 0xffffffff, 0x0, 0x0, 0x0, 0x0, 0x0, .none_⟩]

/-- The register rows of LCH: PLANSTAT, LIVEID, ALTID, SWCATCHL, SWCATCHH, STROKEL, STROKEH, OVRCOUNT, LCHSTAT, BOOTPARM0,
BOOTPARM1, BOOTLOG0, BOOTLOG1, BOOTLOG2, BOOTLOG3. -/
def regsLch : List RegD :=
  [⟨0x100, 0, 1, 0xffff, 0x0, 0x0, 0x0, 0x0, 0x0, .none_⟩,
   ⟨0x102, 0, 1, 0xffffffff, 0x0, 0x0, 0x0, 0x0, 0x0, .none_⟩,
   ⟨0x104, 0, 1, 0xffffffff, 0x0, 0x0, 0x0, 0x0, 0x0, .none_⟩,
   ⟨0x106, 0, 1, 0xffffffff, 0x0, 0x0, 0x0, 0x0, 0x0, .none_⟩,
   ⟨0x108, 0, 1, 0xffffffff, 0x0, 0x0, 0x0, 0x0, 0x0, .none_⟩,
   ⟨0x10a, 0, 1, 0xffffffff, 0x0, 0x0, 0x0, 0x0, 0x0, .none_⟩,
   ⟨0x10c, 0, 1, 0xffffffff, 0x0, 0x0, 0x0, 0x0, 0x0, .none_⟩,
   ⟨0x10e, 0, 1, 0xffffffff, 0x0, 0x0, 0x0, 0x0, 0x0, .none_⟩,
   ⟨0x110, 0, 1, 0xff000f, 0x0, 0x0, 0x0, 0x0, 0x0, .none_⟩,
   ⟨0x112, 0, 1, 0xffffffff, 0x0, 0x0, 0x0, 0x0, 0x0, .none_⟩,
   ⟨0x114, 0, 1, 0x3, 0x0, 0x0, 0x0, 0x0, 0x0, .none_⟩,
   ⟨0x140, 8, 13, 0xffffffff, 0x0, 0x0, 0x0, 0x0, 0x0, .none_⟩,
   ⟨0x142, 8, 13, 0xffffffff, 0x0, 0x0, 0x0, 0x0, 0x0, .none_⟩,
   ⟨0x144, 8, 13, 0xffffffff, 0x0, 0x0, 0x0, 0x0, 0x0, .none_⟩,
   ⟨0x146, 8, 13, 0xffffffff, 0x0, 0x0, 0x0, 0x0, 0x0, .none_⟩]

/-- The register rows of WLD: WLDCFG, WSTAT, DWKICK, GREFLOG, WMLAUNCH, WMWEB, WMDECK, GATEREQ, PARTST. -/
def regsWld : List RegD :=
  [⟨0x20, 0, 1, 0x1ffff, 0x1ffff, 0x0, 0x0, 0x0, 0x10000, .catch_⟩,
   ⟨0x100, 0, 1, 0xffff007f, 0x0, 0x0, 0x0, 0x0, 0x0, .none_⟩,
   ⟨0x102, 0, 1, 0x0, 0x0, 0x0, 0x0, 0xffffffff, 0x0, .none_⟩,
   ⟨0x104, 0, 1, 0x3ffff, 0x0, 0x20000, 0x0, 0x0, 0x0, .none_⟩,
   ⟨0x120, 2, 12, 0xffffffff, 0x0, 0x0, 0x0, 0x0, 0x0, .none_⟩,
   ⟨0x140, 2, 12, 0xffffffff, 0x0, 0x0, 0x0, 0x0, 0x0, .none_⟩,
   ⟨0x160, 2, 12, 0xffffffff, 0x0, 0x0, 0x0, 0x0, 0x0, .none_⟩,
   ⟨0x180, 0, 1, 0x0, 0x0, 0x0, 0x0, 0x7ff, 0x0, .none_⟩,
   ⟨0x1a0, 2, 16, 0xffffffff, 0x0, 0x0, 0x0, 0x0, 0xffffffff, .none_⟩]

/-- The register rows of ROLE: CREDSTAT, OPPOLL, OPPOLH, ROLECFG, ALARMS, ANCHOR, JCOUNT, JHEAD. -/
def regsRole : List RegD :=
  [⟨0x100, 0, 1, 0xffffffff, 0x0, 0x0, 0x0, 0x0, 0x0, .none_⟩,
   ⟨0x102, 0, 1, 0xffffffff, 0x0, 0x0, 0x0, 0x0, 0x0, .none_⟩,
   ⟨0x104, 0, 1, 0xffffffff, 0x0, 0x0, 0x0, 0x0, 0x0, .none_⟩,
   ⟨0x106, 0, 1, 0x3, 0x0, 0x0, 0x0, 0x0, 0x3, .none_⟩,
   ⟨0x108, 0, 1, 0xffff, 0x0, 0x0, 0x0, 0x0, 0x0, .none_⟩,
   ⟨0x180, 0, 1, 0xffffff, 0x0, 0x0, 0x0, 0x0, 0x0, .none_⟩,
   ⟨0x182, 0, 1, 0xffffffff, 0x0, 0x0, 0x0, 0x0, 0x0, .none_⟩,
   ⟨0x184, 2, 12, 0xffffffff, 0x0, 0x0, 0x0, 0x0, 0x0, .none_⟩]

/-- The register rows of EIGHT: L2ECC, L2UELOGL, L2UELOGH, L2CLEAR, SWCTL, ESTAT, MAP, AMAP, OVRPTR, MISA, MISB, MISC, MISCNT,
OVRLOG0, OVRLOG1, OVRLOG2, OVRLOG3. (DEDUCED, log entry 65) -/
def regsEight : List RegD :=
  [⟨0x300, 0, 1, 0xffffff, 0x0, 0x0, 0xffffff, 0x0, 0x0, .none_⟩,
   ⟨0x302, 0, 1, 0xffffffff, 0x0, 0x0, 0x0, 0x0, 0x0, .none_⟩,
   ⟨0x304, 0, 1, 0x3ff, 0x0, 0x200, 0x0, 0x0, 0x0, .none_⟩,
   ⟨0x306, 0, 1, 0x1ffff, 0x0, 0x0, 0x0, 0x0, 0x0, .none_⟩,
   ⟨0x20, 0, 1, 0x3f, 0x3f, 0x0, 0x0, 0x0, 0x8, .catch_⟩,
   ⟨0x100, 0, 1, 0x3fffffff, 0x0, 0x0, 0x0, 0x0, 0x20010000, .none_⟩,
   ⟨0x102, 0, 1, 0xffffffff, 0x0, 0x0, 0x0, 0x0, 0x76543210, .none_⟩,
   ⟨0x104, 0, 1, 0xffffffff, 0x0, 0x0, 0x0, 0x0, 0x76543210, .none_⟩,
   ⟨0x106, 0, 1, 0xffff000f, 0x0, 0x0, 0x0, 0x0, 0x0, .none_⟩,
   ⟨0x108, 0, 1, 0xffff01ff, 0x0, 0x0, 0x0, 0x0, 0x0, .none_⟩,
   ⟨0x10a, 0, 1, 0x7ffffff, 0x0, 0x4000000, 0x0, 0x0, 0x0, .none_⟩,
   ⟨0x10c, 0, 1, 0xffffffff, 0x0, 0x0, 0x0, 0x0, 0x0, .none_⟩,
   ⟨0x10e, 0, 1, 0xffffffff, 0x0, 0x0, 0x0, 0x0, 0x0, .none_⟩,
   ⟨0x200, 8, 16, 0x1fffffff, 0x0, 0x0, 0x0, 0x0, 0x0, .none_⟩,
   ⟨0x202, 8, 16, 0x3fffff, 0x0, 0x0, 0x0, 0x0, 0x0, .none_⟩,
   ⟨0x204, 8, 16, 0xffffffff, 0x0, 0x0, 0x0, 0x0, 0x0, .none_⟩,
   ⟨0x206, 8, 16, 0x3ffffff, 0x0, 0x0, 0x0, 0x0, 0x0, .none_⟩]

/-- The register rows of CORE: LKSTAT, CECC, UELOGL, UELOGH, CSTAT, AGETHR, AGEMON, PMCFG, PMCNTL, PMCNTH, PMSNPL, PMSNPH. -/
def regsCore : List RegD :=
  [⟨0x300, 0, 1, 0xffffff, 0x0, 0x0, 0x0, 0x0, 0x0, .none_⟩,
   ⟨0x302, 0, 1, 0xffffffff, 0x0, 0x0, 0xffffffff, 0x0, 0x0, .none_⟩,
   ⟨0x304, 0, 1, 0xffffffff, 0x0, 0x0, 0x0, 0x0, 0x0, .none_⟩,
   ⟨0x306, 0, 1, 0xffff, 0x0, 0x80, 0xff00, 0x0, 0x0, .none_⟩,
   ⟨0x100, 0, 1, 0x7fff, 0x0, 0x0, 0x0, 0x0, 0x0, .none_⟩,
   ⟨0x20, 0, 1, 0x1fffff, 0x1fffff, 0x0, 0x0, 0x0, 0x10a050, .catch_⟩,
   ⟨0x102, 0, 1, 0x3fffff, 0x0, 0x300000, 0x0, 0x0, 0xffc00, .none_⟩,
   ⟨0x140, 2, 8, 0x1fffff, 0x1fffff, 0x0, 0x0, 0x0, 0xe0000, .none_⟩,
   ⟨0x150, 4, 8, 0xffffffff, 0xffffffff, 0x0, 0x0, 0x0, 0x0, .none_⟩,
   ⟨0x152, 4, 8, 0x3ffff, 0xffff, 0x10000, 0x0, 0x0, 0x0, .none_⟩,
   ⟨0x170, 4, 8, 0xffffffff, 0x0, 0x0, 0x0, 0x0, 0x0, .none_⟩,
   ⟨0x172, 4, 8, 0x3ffff, 0x0, 0x0, 0x0, 0x0, 0x0, .none_⟩]

/-- The register rows of EVH0: IACK, IEOI, TCTL, TSTAT, MODCTL, WMASK, SWSET, CFGW, CFGRD, CFGSEL, PSTAT, PEND, ENA, MASK,
ACT. -/
def regsEvh0 : List RegD :=
  [⟨0x100, 0, 1, 0x3ffff, 0x0, 0x0, 0x0, 0x0, 0x3ff, .none_⟩,
   ⟨0x102, 0, 1, 0x0, 0x0, 0x0, 0x0, 0x3ff, 0x0, .none_⟩,
   ⟨0x104, 0, 1, 0x1ff, 0x1ff, 0x0, 0x0, 0x0, 0x100, .none_⟩,
   ⟨0x106, 0, 1, 0x1ffff, 0x0, 0x0, 0x0, 0x0, 0x100, .none_⟩,
   ⟨0x108, 0, 1, 0xffffffff, 0xffffffff, 0x0, 0x0, 0x0, 0x0, .none_⟩,
   ⟨0x10a, 0, 1, 0xffffffff, 0xffffffff, 0x0, 0x0, 0x0, 0xffffffff, .none_⟩,
   ⟨0x10c, 0, 1, 0x0, 0x0, 0x0, 0x0, 0x3ff, 0x0, .none_⟩,
   ⟨0x10e, 0, 1, 0x0, 0x0, 0x0, 0x0, 0xffffffff, 0x0, .none_⟩,
   ⟨0x112, 0, 1, 0xffffffff, 0x0, 0x0, 0x0, 0x0, 0x0, .none_⟩,
   ⟨0x110, 0, 1, 0x3ff, 0x3ff, 0x0, 0x0, 0x0, 0x0, .none_⟩,
   ⟨0x114, 0, 1, 0xff0f, 0x0, 0xf, 0xff00, 0x0, 0x0, .none_⟩,
   ⟨0x140, 2, 32, 0xffffffff, 0xffffffff, 0x0, 0x0, 0x0, 0x0, .none_⟩,
   ⟨0x180, 2, 32, 0xffffffff, 0xffffffff, 0x0, 0x0, 0x0, 0x0, .none_⟩,
   ⟨0x1c0, 2, 32, 0xffffffff, 0xffffffff, 0x0, 0x0, 0x0, 0x0, .none_⟩,
   ⟨0x200, 2, 32, 0xffffffff, 0x0, 0x0, 0x0, 0x0, 0x0, .none_⟩]

/-- The register rows of EVH1: GPEND, GENA, GMASK, GACT. -/
def regsEvh1 : List RegD :=
  [⟨0x100, 2, 32, 0xffffffff, 0xffffffff, 0x0, 0x0, 0x0, 0x0, .none_⟩,
   ⟨0x140, 2, 32, 0xffffffff, 0xffffffff, 0x0, 0x0, 0x0, 0x0, .none_⟩,
   ⟨0x180, 2, 32, 0xffffffff, 0xffffffff, 0x0, 0x0, 0x0, 0x0, .none_⟩,
   ⟨0x1c0, 2, 32, 0xffffffff, 0x0, 0x0, 0x0, 0x0, 0x0, .none_⟩]

/-- The register rows of EVH2: TGTSTAT. -/
def regsEvh2 : List RegD :=
  [⟨0x100, 2, 65, 0x1ffffff, 0x0, 0x0, 0x0, 0x0, 0x100, .none_⟩]

/-- The register rows of EVH3: OWNSEL, OWNRD, NTSRC. -/
def regsEvh3 : List RegD :=
  [⟨0x100, 0, 1, 0x3ff, 0x3ff, 0x0, 0x0, 0x0, 0x0, .none_⟩,
   ⟨0x102, 0, 1, 0xff, 0x0, 0x0, 0x0, 0x0, 0x80, .none_⟩,
   ⟨0x104, 0, 1, 0xffff03ff, 0x0, 0x0, 0x0, 0x0, 0x0, .none_⟩]

/-- The register rows of RING: RSTAT, RECC, RERRLOG, RREFUSE. -/
def regsRing : List RegD :=
  [⟨0x100, 0, 1, 0x7fc01, 0x0, 0x0, 0x0, 0x0, 0x0, .none_⟩,
   ⟨0x102, 0, 1, 0xffffff, 0x0, 0x0, 0xffffff, 0x0, 0x0, .none_⟩,
   ⟨0x104, 0, 1, 0x1fffff, 0x0, 0x100000, 0x0, 0x0, 0x0, .none_⟩,
   ⟨0x106, 0, 1, 0xffffffff, 0x0, 0x0, 0xffffffff, 0x0, 0x0, .none_⟩]

/-- The register rows of RING0: RTSEL, RTRD. -/
def regsRing0 : List RegD :=
  [⟨0x180, 0, 1, 0x3fff, 0x3fff, 0x0, 0x0, 0x0, 0x0, .none_⟩,
   ⟨0x182, 0, 1, 0x800fffff, 0x0, 0x0, 0x0, 0x0, 0x0, .none_⟩]

/-- The register rows of LANE: LESTAT, LERRLOG, GMISS, PINNED, LNSEL, LNRD, HSTAT. -/
def regsLane : List RegD :=
  [⟨0x100, 0, 1, 0x3fffff, 0x0, 0x0, 0x0, 0x0, 0x0, .none_⟩,
   ⟨0x102, 0, 1, 0x3ffff, 0x0, 0x20000, 0x0, 0x0, 0x0, .none_⟩,
   ⟨0x104, 0, 1, 0xffffffff, 0x0, 0x0, 0x0, 0x0, 0x0, .none_⟩,
   ⟨0x106, 0, 1, 0x7ff, 0x0, 0x0, 0x0, 0x0, 0x0, .none_⟩,
   ⟨0x180, 0, 1, 0x3ff, 0x3ff, 0x0, 0x0, 0x0, 0x0, .none_⟩,
   ⟨0x182, 0, 1, 0x80001fff, 0x0, 0x0, 0x0, 0x0, 0x0, .none_⟩,
   ⟨0x184, 0, 1, 0xffff1fff, 0x0, 0x0, 0xffff0000, 0x0, 0x0, .none_⟩]

/-- The register rows of LANECTX: LCFG, LLINK, LPTR, LSTAT. -/
def regsLanectx : List RegD :=
  [⟨0x0, 8, 256, 0xfffffff, 0xfffffff, 0x0, 0x0, 0x0, 0x0, .none_⟩,
   ⟨0x2, 8, 256, 0x7ff, 0x7ff, 0x0, 0x0, 0x0, 0x0, .none_⟩,
   ⟨0x4, 8, 256, 0xffffffff, 0xffff, 0x0, 0x0, 0x0, 0x0, .none_⟩,
   ⟨0x6, 8, 256, 0x7ff, 0x1, 0x80, 0x0, 0x0, 0x0, .none_⟩]

/-- The register rows of QDR: QCFG, QSCRUB, QSTAT, QECC, QUELOGL, QUELOGH, QTRAIN. -/
def regsQdr : List RegD :=
  [⟨0x20, 0, 1, 0x1f, 0x1f, 0x0, 0x0, 0x0, 0x1e, .training⟩,
   ⟨0x22, 0, 1, 0x1f, 0x1f, 0x0, 0x0, 0x0, 0x9, .catch_⟩,
   ⟨0x100, 0, 1, 0xfffff, 0x0, 0x0, 0x0, 0x0, 0x0, .none_⟩,
   ⟨0x102, 0, 1, 0xffffffff, 0x0, 0x0, 0xffffffff, 0x0, 0x0, .none_⟩,
   ⟨0x104, 0, 1, 0x7ffffff, 0x0, 0x0, 0x0, 0x0, 0x0, .none_⟩,
   ⟨0x106, 0, 1, 0xf, 0x0, 0x8, 0x0, 0x0, 0x0, .none_⟩,
   ⟨0x108, 0, 1, 0xffffff, 0x0, 0x0, 0x0, 0x0, 0x0, .none_⟩]

/-- The register rows of LPD: LDCFG, LBMASK0, LBMASK1, LBMASK2, LDRUN, LDHOLD, LDSTAT, LDECC, LDFRZA, LDFRZB, LDREM, LDKEY,
LDDROP. -/
def regsLpd : List RegD :=
  [⟨0x20, 0, 1, 0x3, 0x3, 0x0, 0x0, 0x0, 0x3, .training⟩,
   ⟨0x22, 0, 1, 0xfffffff, 0xfffffff, 0x0, 0x0, 0x0, 0x24880, .training⟩,
   ⟨0x24, 0, 1, 0xfffffff, 0xfffffff, 0x0, 0x0, 0x0, 0x49100, .training⟩,
   ⟨0x26, 0, 1, 0xfffffff, 0xfffffff, 0x0, 0x0, 0x0, 0x92200, .training⟩,
   ⟨0x28, 0, 1, 0xff, 0xff, 0x0, 0x0, 0x0, 0x5b, .catch_⟩,
   ⟨0x2a, 0, 1, 0x1ff, 0x1ff, 0x0, 0x0, 0x0, 0x1ff, .catch_⟩,
   ⟨0x100, 0, 1, 0x7ff, 0x0, 0x410, 0x0, 0x0, 0x180, .none_⟩,
   ⟨0x102, 0, 1, 0xffffffff, 0x0, 0x0, 0xffffffff, 0x0, 0x0, .none_⟩,
   ⟨0x104, 0, 1, 0xffffffff, 0x0, 0x40000000, 0x0, 0x0, 0x0, .none_⟩,
   ⟨0x106, 0, 1, 0xffffff, 0x0, 0x0, 0x0, 0x0, 0x0, .none_⟩,
   ⟨0x108, 0, 1, 0xfffffff, 0x0, 0x0, 0x0, 0x0, 0x0, .none_⟩,
   ⟨0x10a, 0, 1, 0x7, 0x0, 0x0, 0x0, 0x0, 0x0, .none_⟩,
   ⟨0x10c, 0, 1, 0xffffffff, 0x0, 0x0, 0xffffffff, 0x0, 0x0, .none_⟩]

/-- The register rows of FPX: FPXTRIP, FPXLINK. -/
def regsFpx : List RegD :=
  [⟨0x100, 0, 1, 0xffffffff, 0x0, 0x0, 0x0, 0x0, 0x0, .none_⟩,
   ⟨0x102, 0, 1, 0xffffffff, 0x0, 0x0, 0x0, 0x0, 0x0, .none_⟩]

/-- The register rows of PLT: PLTCFG, PLTSTAT, PLTSTR0, PLTSTR1, PLTSTR2, PLTSTR3. -/
def regsPlt : List RegD :=
  [⟨0x20, 0, 1, 0xffff0007, 0xffff0007, 0x0, 0x0, 0x0, 0x4, .catch_⟩,
   ⟨0x100, 0, 1, 0xffff1fff, 0x0, 0x0, 0xffff0000, 0x0, 0x0, .none_⟩,
   ⟨0x200, 8, 64, 0xffffffff, 0xffffffff, 0x0, 0x0, 0x0, 0x0, .catch_⟩,
   ⟨0x202, 8, 64, 0x8fffffff, 0x8fffffff, 0x0, 0x0, 0x0, 0x0, .catch_⟩,
   ⟨0x204, 8, 64, 0x1fff0fff, 0x1fff0fff, 0x0, 0x0, 0x0, 0x0, .catch_⟩,
   ⟨0x206, 8, 64, 0xffff, 0xffff, 0x0, 0x0, 0x0, 0x64, .catch_⟩]

/-- The register rows of PAIR: PAIRCFG, PAIRMSTART, PAIRAPPLY, MIR, PAIRSTAT, PAIRERR. -/
def regsPair : List RegD :=
  [⟨0x20, 0, 1, 0x1ffffff, 0x1ffffff, 0x0, 0x0, 0x0, 0x40, .pair⟩,
   ⟨0x22, 0, 1, 0x3ffffff, 0x3ffffff, 0x0, 0x0, 0x0, 0x0, .pair⟩,
   ⟨0x24, 0, 1, 0x3ffffff, 0x3ffffff, 0x0, 0x0, 0x0, 0x0, .pair⟩,
   ⟨0x200, 2, 64, 0xbfffffff, 0xbfffffff, 0x0, 0x0, 0x0, 0x0, .pair⟩,
   ⟨0x100, 0, 1, 0xffffffff, 0x0, 0x0, 0x0, 0x0, 0x38, .none_⟩,
   ⟨0x102, 0, 1, 0xffffffff, 0x0, 0x0, 0xffffffff, 0x0, 0x0, .none_⟩]

/-- The register rows of TRC: TRCTL, TRTS, TRWAKE, TRTRIG, TRTRIGATL, TRTRIGATH, TRSINKL, TRSINKH, TRSEL, TRCCTL, TRCPARTYL,
TRCPARTYH, TRRBASE, TRRLIM, TRRX, TRSTAT, TRTRIGPOS, TRWRPOS, TRLOST. -/
def regsTrc : List RegD :=
  [⟨0x20, 0, 1, 0x3, 0x3, 0x0, 0x0, 0x4, 0x0, .commit⟩,
   ⟨0x22, 0, 1, 0xfffff, 0xfffff, 0x0, 0x0, 0x0, 0xa0064, .commit⟩,
   ⟨0x24, 0, 1, 0xffffff, 0xffffff, 0x0, 0x0, 0x0, 0x3e8, .commit⟩,
   ⟨0x26, 0, 1, 0x1ff, 0x1ff, 0x0, 0x0, 0x0, 0x0, .commit⟩,
   ⟨0x28, 0, 1, 0xffffffff, 0xffffffff, 0x0, 0x0, 0x0, 0x0, .commit⟩,
   ⟨0x2a, 0, 1, 0xffffffff, 0xffffffff, 0x0, 0x0, 0x0, 0x0, .commit⟩,
   ⟨0x2c, 0, 1, 0xffffff, 0xffffff, 0x0, 0x0, 0x0, 0x0, .commit⟩,
   ⟨0x2e, 0, 1, 0xffffff, 0xffffff, 0x0, 0x0, 0x0, 0x0, .commit⟩,
   ⟨0x30, 0, 1, 0x3f, 0x3f, 0x0, 0x0, 0x0, 0x0, .none_⟩,
   ⟨0x40, 0, 1, 0x7, 0x7, 0x0, 0x0, 0x0, 0x6, .commit⟩,
   ⟨0x42, 0, 1, 0xffffffff, 0xffffffff, 0x0, 0x0, 0x0, 0x0, .commit⟩,
   ⟨0x44, 0, 1, 0xffffffff, 0xffffffff, 0x0, 0x0, 0x0, 0x0, .commit⟩,
   ⟨0x50, 6, 8, 0xffffffff, 0xffffffff, 0x0, 0x0, 0x0, 0x0, .commit⟩,
   ⟨0x52, 6, 8, 0xffffffff, 0xffffffff, 0x0, 0x0, 0x0, 0x0, .commit⟩,
   ⟨0x54, 6, 8, 0xfff, 0xfff, 0x0, 0x0, 0x0, 0x0, .commit⟩,
   ⟨0x100, 0, 1, 0xff0007, 0x0, 0x4, 0xff0000, 0x0, 0x0, .none_⟩,
   ⟨0x102, 0, 1, 0xffffffff, 0x0, 0x0, 0x0, 0x0, 0x0, .none_⟩,
   ⟨0x104, 0, 1, 0xffffffff, 0x0, 0x0, 0x0, 0x0, 0x0, .none_⟩,
   ⟨0x106, 0, 1, 0xffffffff, 0x0, 0x0, 0x0, 0x0, 0x0, .none_⟩]

/-- The register rows of PMC: PMSNAPATL, PMSNAPATH, PMSNAPCTL, PMWIN, PMBSEL, PMMODE, PMSNAPSTAT, PMBLAST, PMBMAX, PMBSNP. -/
def regsPmc : List RegD :=
  [⟨0x20, 0, 1, 0xffffffff, 0xffffffff, 0x0, 0x0, 0x0, 0x0, .none_⟩,
   ⟨0x22, 0, 1, 0xffffffff, 0xffffffff, 0x0, 0x0, 0x0, 0x0, .none_⟩,
   ⟨0x24, 0, 1, 0x2, 0x2, 0x0, 0x0, 0x5, 0x0, .none_⟩,
   ⟨0x26, 0, 1, 0xfffff, 0xfffff, 0x0, 0x0, 0x0, 0xc350, .catch_⟩,
   ⟨0x40, 2, 32, 0xfff, 0xfff, 0x0, 0x0, 0x0, 0x0, .catch_⟩,
   ⟨0x100, 0, 1, 0x3, 0x0, 0x0, 0x0, 0x0, 0x0, .none_⟩,
   ⟨0x102, 0, 1, 0xffff0003, 0x0, 0x0, 0x0, 0x0, 0x0, .none_⟩,
   ⟨0x140, 2, 32, 0xffffffff, 0x0, 0x0, 0x0, 0x0, 0x0, .none_⟩,
   ⟨0x180, 2, 32, 0xffffffff, 0x0, 0x0, 0xffffffff, 0x0, 0x0, .none_⟩,
   ⟨0x1c0, 2, 32, 0xffffffff, 0x0, 0x0, 0x0, 0x0, 0x0, .none_⟩]

/-- The register rows of FP: FPCFG, FPSAMP, FPTXHDR, FPPROF0, FPPROF1, FPPROF2, FPSTAT, FPCTL, FPSENSE. -/
def regsFp : List RegD :=
  [⟨0x20, 0, 1, 0xffff003f, 0xffff003f, 0x0, 0x0, 0x0, 0x21, .catch_⟩,
   ⟨0x22, 0, 1, 0x7ff, 0x7ff, 0x0, 0x0, 0x0, 0x0, .catch_⟩,
   ⟨0x24, 2, 4, 0xffffffff, 0xffffffff, 0x0, 0x0, 0x0, 0x0, .catch_⟩,
   ⟨0x30, 0, 1, 0x3ffffff, 0x3ffffff, 0x0, 0x0, 0x0, 0x2, .catch_⟩,
   ⟨0x32, 0, 1, 0xffffffff, 0xffffffff, 0x0, 0x0, 0x0, 0x0, .catch_⟩,
   ⟨0x34, 0, 1, 0xffffffff, 0xffffffff, 0x0, 0x0, 0x0, 0x100, .catch_⟩,
   ⟨0x100, 0, 1, 0xffffffff, 0x0, 0x0, 0xfffffe00, 0x0, 0x0, .none_⟩,
   ⟨0x102, 0, 1, 0x0, 0x0, 0x0, 0x0, 0x1, 0x0, .none_⟩,
   ⟨0x104, 0, 1, 0xfff0fff, 0x0, 0x0, 0x0, 0x0, 0x0, .none_⟩]

/-- The register rows of HDR: BLKID, BLKVER, CAPS, OWNER, STATUS, CTRL, COMMIT, ERRSTAT, ERRINFO, ERRINJ, EVSEL. -/
def regsHdr : List RegD :=
  [⟨0x0, 0, 1, 0xffffffff, 0x0, 0x0, 0x0, 0x0, 0x0, .none_⟩,
   ⟨0x2, 0, 1, 0xffff, 0x0, 0x0, 0x0, 0x0, 0xb00, .none_⟩,
   ⟨0x4, 0, 1, 0xf, 0x0, 0x0, 0x0, 0x0, 0x8, .none_⟩,
   ⟨0x6, 0, 1, 0x1ff, 0x100, 0x0, 0x0, 0x0, 0x80, .none_⟩,
   ⟨0x8, 0, 1, 0x7, 0x0, 0x0, 0x0, 0x0, 0x0, .none_⟩,
   ⟨0xa, 0, 1, 0x1, 0x1, 0x0, 0x0, 0x0, 0x0, .none_⟩,
   ⟨0xc, 0, 1, 0x6, 0x0, 0x0, 0x0, 0x1, 0x0, .none_⟩,
   ⟨0xe, 0, 1, 0xff1f, 0x0, 0xff1f, 0x0, 0x0, 0x0, .none_⟩,
   ⟨0x10, 0, 1, 0x1fffffff, 0x0, 0x0, 0x0, 0x0, 0x0, .none_⟩,
   ⟨0x12, 0, 1, 0xfe, 0x7e, 0x0, 0x0, 0x1, 0x0, .none_⟩,
   ⟨0x14, 0, 1, 0x3ff, 0x3ff, 0x0, 0x0, 0x0, 0x0, .none_⟩]

/-- The rows of a block's pages beside the header. -/
def regsOf : Blk → List RegD
  | .chip => regsChip
  | .clk => regsClk
  | .pwr => regsPwr
  | .rst => regsRst
  | .tb => regsTb
  | .lch => regsLch
  | .wld => regsWld
  | .role => regsRole
  | .eight => regsEight
  | .core => regsCore
  | .evh0 => regsEvh0
  | .evh1 => regsEvh1
  | .evh2 => regsEvh2
  | .evh3 => regsEvh3
  | .ring => regsRing
  | .lane => regsLane
  | .lanectx => regsLanectx
  | .qdr => regsQdr
  | .lpd => regsLpd
  | .fpx => regsFpx
  | .plt => regsPlt
  | .pair => regsPair
  | .trc => regsTrc
  | .pmc => regsPmc
  | .fp => regsFp
  | .ring0 => regsRing ++ regsRing0
  | .hdr => regsHdr
  | .dbg => []

/-- The block a register page carries and its instance (R448); `none` for a page the table does not list. -/
def pageBlk (p : Nat) : Option (Blk × Nat) :=
  if p ≤ 0x007 then
    some ([Blk.chip, .clk, .pwr, .rst, .tb, .lch, .wld, .role].getD p .chip, 0)
  else if 0x010 ≤ p ∧ p ≤ 0x017 then some (.eight, p - 0x010)
  else if 0x020 ≤ p ∧ p ≤ 0x067 then some (.core, p - 0x020)
  else if 0x070 ≤ p ∧ p ≤ 0x073 then some ([Blk.evh0, .evh1, .evh2, .evh3].getD (p - 0x070) .evh0, p - 0x070)
  else if p = 0x080 then some (.ring0, 0)
  else if 0x081 ≤ p ∧ p ≤ 0x083 then some (.ring, p - 0x080)
  else if p = 0x090 then some (.lane, 0)
  else if 0x0E0 ≤ p ∧ p ≤ 0x0E3 then some (.qdr, p - 0x0E0)
  else if 0x0E8 ≤ p ∧ p ≤ 0x0E9 then some (.lpd, p - 0x0E8)
  else if p = 0x0F0 then some (.fpx, 0)
  else if 0x0F1 ≤ p ∧ p ≤ 0x0F2 then some (.plt, p - 0x0F1)
  else if p = 0x0F3 then some (.pair, 0)
  else if p = 0x0F4 then some (.trc, 0)
  else if p = 0x0F5 then some (.pmc, 0)
  else if p = 0x0F6 then some (.dbg, 0)
  else if 0x100 ≤ p ∧ p ≤ 0x11F then some (.lanectx, p - 0x100)
  else if 0x120 ≤ p ∧ p ≤ 0x13F then some (.fp, p - 0x120)
  else none

/-- The block type of BLKID (R448). -/
def blkType (p : Nat) : Nat :=
  match pageBlk p with
  | some (.chip, _) => 0x0100
  | some (.clk, _) => 0x0101
  | some (.pwr, _) => 0x0102
  | some (.rst, _) => 0x0103
  | some (.tb, _) => 0x0104
  | some (.lch, _) => 0x0105
  | some (.wld, _) => 0x0106
  | some (.role, _) => 0x0107
  | some (.eight, _) => 0x0110
  | some (.core, _) => 0x0120
  | some (.evh0, _) | some (.evh1, _) | some (.evh2, _) | some (.evh3, _) => 0x0170
  | some (.ring, _) | some (.ring0, _) => 0x0180
  | some (.lane, _) => 0x0190
  | some (.qdr, _) => 0x01E0
  | some (.lpd, _) => 0x01E8
  | some (.fpx, _) => 0x01F0
  | some (.plt, _) => 0x01F1
  | some (.pair, _) => 0x01F3
  | some (.trc, _) => 0x01F4
  | some (.pmc, _) => 0x01F5
  | some (.dbg, _) => 0x01F6
  | some (.fp, _) => 0x0200
  | _ => 0

/-- Whether a row covers an offset. -/
def RegD.covers (r : RegD) (off : Nat) : Bool :=
  if r.cnt = 1 then off == r.off
  else r.off ≤ off && (off - r.off) % r.stride == 0 && (off - r.off) / r.stride < r.cnt

/-- The row of a register by page and offset; header rows stand on every page but LANECTX (R449). -/
def regD (page off : Nat) : Option RegD :=
  match pageBlk page with
  | none => none
  | some (.lanectx, _) => regsLanectx.find? (·.covers off)
  | some (b, _) => if off < 0x16 then regsHdr.find? (·.covers off) else (regsOf b).find? (·.covers off)

/-- The key of a register in the register file. -/
def regKey (page off : Nat) : Nat := page * 0x800 + off

/-- The value after power-on reset of a register (R7). (DESIGN CHOICE, log entry 3) -/
def regReset (page off : Nat) : Nat := ((regD page off).map RegD.reset).getD 0

/-- Whether a register is staged (R450). -/
def RegD.isStaged (r : RegD) : Bool := r.sp != .none_

/-- The live copy of a register: what the block acts on (R450). -/
def Chip.live (c : Chip) (page off : Nat) : Nat := tget (regReset page off) c.regs (regKey page off)

/-- Hardware writes a register whole. -/
def Chip.setLive (c : Chip) (page off v : Nat) : Chip :=
  { c with regs := tset (regReset page off) c.regs (regKey page off) v }

/-- A field of a live register. -/
def Chip.fld (c : Chip) (page off h l : Nat) : Nat := bits (c.live page off) h l

/-- Hardware writes a field of a register. -/
def Chip.setFld (c : Chip) (page off h l v : Nat) : Chip := c.setLive page off (setBits (c.live page off) h l v)

/-- Hardware adds to a counting field that holds at its largest value. -/
def Chip.bumpFld (c : Chip) (page off h l : Nat) : Chip :=
  let v := c.fld page off h l
  if v + 1 < 2 ^ (h + 1 - l) then c.setFld page off h l (v + 1) else c

end Sys2Proof.Machine
end

