-- ==== Sys2Proof/Machine/Ops.lean ====
section
/-! DEFINITION. The named operations over the parts of the chip: memory, pipelines, array sets, eights, the live plan and event
occurrences. -/

namespace Sys2Proof.Machine

/-! ### Memory: the byte at 2a and the byte at 2a + 1 make word a (R2, R476); what nothing has written reads 0 -/

/-- The canonical form of memory: addresses rise, and no entry equals what an unlisted address reads as. (DESIGN CHOICE, log
entry 4) -/
def memWf (m : List Host.Cell) : Bool := twf (0 : Byte) m

/-- One byte of memory. (DESIGN CHOICE, log entry 4) -/
def readByte (m : List Host.Cell) (a : Nat) : Byte := tget (0 : Byte) m a

/-- The word at a word address. -/
def readW (m : List Host.Cell) (a : Nat) : Word := readByte m (2 * a + 1) ++ readByte m (2 * a)

/-- Memory with a word written. -/
def writeW (m : List Host.Cell) (a : Nat) (x : Word) : List Host.Cell :=
  tset (0 : Byte) (tset (0 : Byte) m (2 * a) (x.extractLsb' 0 8)) (2 * a + 1) (x.extractLsb' 8 8)

/-- `n` words from a word address as one number, lowest first (R2). -/
def readN (m : List Host.Cell) (a : Nat) : Nat → Nat
  | 0 => 0
  | n + 1 => (readW m a).toNat + readN m (a + 1) n <<< 16

/-- Memory with a list of words written from a word address up. -/
def writeL (m : List Host.Cell) (a : Nat) : List Word → List Host.Cell
  | [] => m
  | x :: xs => writeL (writeW m a x) (a + 1) xs

/-! ### The physical map (R446) -/

/-- First word of the QDR region's successor. -/
def qdrEnd : Nat := 0x0800_0000

/-- First word of logical LPDDR. -/
def lpdBase : Nat := 0x1_0000_0000

/-- First word of the device region (R198). -/
def devBase : Nat := 0xF_0000_0000

/-- First word of the tight-memory aliases. -/
def tightBase : Nat := 0xF_1000_0000

/-- Words per QDR device of a density (R320); DENS 3 acts as 2. -/
def qdrDevWords (dens : Nat) : Nat :=
  match dens with
  | 0 => 0x40_0000
  | 1 => 0x80_0000
  | _ => 0x100_0000

/-- Populated words of a QDR channel, from its live QCFG (R320, R321). -/
def Chip.qdrWords (c : Chip) (ch : Nat) : Nat :=
  let q := c.live (0x0E0 + ch) 0x020
  qdrDevWords (bits q 1 0) * (1 + bits q 2 2)

/-- The QDR channel of an address (R321). -/
def qdrCh (a : Nat) : Nat := bits a 26 25

/-- Whether an address lies in the populated QDR range (R321). -/
def Chip.inQdr (c : Chip) (a : Nat) : Bool :=
  decide (a < qdrEnd) && decide (bits a 24 0 < c.qdrWords (qdrCh a))

/-- Logical LPDDR words: 7/16 Gi words per GiB of one controller's capacity, from LPD0's live LDCFG (R329, R330). -/
def Chip.lpdWords (c : Chip) : Nat :=
  let q := c.live 0x0E8 0x020
  let gib := 4 * 2 ^ (bits q 0 0) * 2 ^ (bits q 1 1)
  gib * 0x1C00_0000

/-- Whether an address lies in the populated logical LPDDR range. -/
def Chip.inLpd (c : Chip) (a : Nat) : Bool := decide (lpdBase ≤ a) && decide (a < lpdBase + c.lpdWords)

/-- Whether an address lies in the device region (R198). -/
def inDevice (a : Nat) : Bool := decide (devBase ≤ a) && decide (a ≤ 0xF_FFFF_FFFF)

/-- The register page of an address in register space whose page the table lists, or none (R446, R447). -/
def regPage (a : Nat) : Option Nat :=
  if devBase ≤ a ∧ a ≤ 0xF_0009_FFFF then
    let p := (a - devBase) / 0x800
    (pageBlk p).map (fun _ => p)
  else none

/-! ### Pipelines, array sets, eights -/

/-- Pipeline `p` (0 to 71). -/
def Chip.pipe (c : Chip) (p : Nat) : Pipe := tget {} c.pipes p

/-- The chip with pipeline `p` replaced. -/
def Chip.setPipe (c : Chip) (p : Nat) (x : Pipe) : Chip := { c with pipes := tset {} c.pipes p x }

/-- Array set `k` (0 to 71). -/
def Chip.arr (c : Chip) (k : Nat) : ArraySet := tget {} c.sets k

/-- The chip with array set `k` replaced. -/
def Chip.setArr (c : Chip) (k : Nat) (x : ArraySet) : Chip := { c with sets := tset {} c.sets k x }

/-- Eight `e`. -/
def Chip.eight (c : Chip) (e : Nat) : Eight := tget {} c.eights e

/-- The chip with eight `e` replaced. -/
def Chip.setEight (c : Chip) (e : Nat) (x : Eight) : Chip := { c with eights := tset {} c.eights e x }

/-- The pipeline an architectural core runs on, if any (R9, R251, R259). -/
def Chip.pipeOf (c : Chip) (a : Nat) : Option Nat :=
  ((c.eight (a / 8)).map.getD (a % 8) none).map (fun i => 9 * (a / 8) + i)

/-- The array set of an architectural core (R251). -/
def Chip.arrOf (c : Chip) (a : Nat) : Nat := 9 * (a / 8) + (c.eight (a / 8)).amap.getD (a % 8) 0

/-- The architectural core a pipeline carries, if any. -/
def Chip.coreOf (c : Chip) (p : Nat) : Option Nat :=
  ((List.range 8).find? (fun k => (c.eight (p / 9)).map.getD k none == some (p % 9))).map (fun k => 8 * (p / 9) + k)

/-- Where a word of an architectural core's tight memory stands in memory (R228). -/
def Chip.tmAddr (c : Chip) (a off : Nat) : Nat := tightBase + c.arrOf a * 0x1_0000 + off

/-- Saved context key: architectural core and context index. -/
def savedKey (core ctx : Nat) : Nat := core * 256 + ctx

/-- What is kept of a context between windows. -/
def Chip.savedCtx (c : Chip) (core ctx : Nat) : Saved := tget {} c.saved (savedKey core ctx)

/-- The chip with a context's kept state replaced. -/
def Chip.setSaved (c : Chip) (core ctx : Nat) (s : Saved) : Chip :=
  { c with saved := tset {} c.saved (savedKey core ctx) s }

/-- Whether a page is that of a port powered down by GATEREQ (R357, R454). -/
def Chip.portDown (c : Chip) (page : Nat) : Bool := c.gated.any (fun g => g.1 == page && g.2)

/-- Whether a register page answers: not that of an eight while it is gated (R253, R454). -/
def Chip.eightUp (c : Chip) (page : Nat) : Bool :=
  match pageBlk page with
  | some (.eight, e) => (c.eight e).pwr != .gated
  | some (.core, i) => (c.eight (i / 9)).pwr != .gated
  | _ => true

/-- Whether a register page answers. -/
def Chip.pageUp (c : Chip) (page : Nat) : Bool := c.eightUp page && !c.portDown page

/-! ### The plan -/

/-- The live plan, if one is live (R48). -/
def Chip.livePlan (c : Chip) : Option Plan :=
  if c.isLive then (if c.liveB then c.bankB.plan else c.bankA.plan) else none

/-- The inactive bank: the one that is not live; bank A before any plan is live. -/
def Chip.altBank (c : Chip) : Bank := if c.isLive && !c.liveB then c.bankB else c.bankA

/-- The chip with the inactive bank replaced. -/
def Chip.setAlt (c : Chip) (b : Bank) : Chip :=
  if c.isLive && !c.liveB then { c with bankB := b } else { c with bankA := b }

/-- The context table of an architectural core in a plan. For eights in swing the higher eight runs the tables of the lower
(R40). -/
def Plan.tableCore (p : Plan) (a : Nat) : Nat :=
  if (a / 8) % 2 = 1 ∧ p.swing.testBit (a / 16) then a - 8 else a

/-- The contexts of an architectural core. -/
def Plan.ctxsOf (p : Plan) (a : Nat) : List CtxE := tget [] p.ctxs (p.tableCore a)

/-- The windows of an architectural core. -/
def Plan.winsOf (p : Plan) (a : Nat) : List WinE := tget [] p.wins (p.tableCore a)

/-- The ACCESS entries of an architectural core. -/
def Plan.accsOf (p : Plan) (a : Nat) : List AccE := tget [] p.accs (p.tableCore a)

/-- The L2 map of an eight: the party of each way (R35); the higher eight of a pair uses the lower one's. -/
def Plan.l2Of (p : Plan) (e : Nat) : List (Option Nat) :=
  tget [] p.l2map (if e % 2 = 1 ∧ p.swing.testBit (e / 2) then e - 1 else e)

/-- The world of a party in a plan; an undefined party counts as Web. -/
def Plan.worldOf (p : Plan) (party : Nat) : Bool :=
  ((p.parties.find? (fun e => e.party == party && e.valid)).map PartyE.world).getD false

/-- The world of a party by the live plan. -/
def Chip.worldOf (c : Chip) (party : Nat) : Bool := (c.livePlan.map (·.worldOf party)).getD false

/-- Whether an eight of a live plan is in swing. -/
def Chip.inSwing (c : Chip) (e : Nat) : Bool := (c.livePlan.map (fun p => p.swing.testBit (e / 2))).getD false

/-- Whether an architectural core belongs to the higher eight of a live swing pair. (DEDUCED, log entry 25) -/
def Chip.swingHigh (c : Chip) (a : Nat) : Bool := (a / 8) % 2 == 1 && c.inSwing (a / 8)

/-- The architectural core whose tables, tight-memory alias and hub slice a core runs with: in swing the lower eight's (R40,
R263). -/
def Chip.lowCore (c : Chip) (a : Nat) : Nat := if c.swingHigh a then a - 8 else a

/-- The architectural cores that run a core's tables: in swing its twin as well (R263). -/
def Plan.twins (p : Plan) (a : Nat) : List Nat :=
  if (a / 8) % 2 = 0 ∧ p.swing.testBit (a / 16) then [a, a + 8] else [a]

/-- The same by the live plan. -/
def Chip.twins (c : Chip) (a : Nat) : List Nat := (c.livePlan.map (·.twins a)).getD [a]

/-- Granules in a stroke (R21). -/
def Plan.granules (p : Plan) : Nat := 50 * p.stroke

/-- Whether a divider and phase run in stroke `n` (R29). -/
def runsIn (divm1 phase n : Nat) : Bool := n % (divm1 + 1) == phase

/-! ### Owners (R12, R209, R270, R343, R448) -/

/-- Whether an ownership entry covers an index of its kind. -/
def OwnE.covers (o : OwnE) (kind i : Nat) : Bool := o.kind == kind && o.first ≤ i && i ≤ o.last

/-- Whether a hand-over covers an index of its kind. -/
def Hand.covers (h : Hand) (kind i : Nat) : Bool := h.kind == kind && h.first ≤ i && i ≤ h.last

/-- The owner a plan gives an index of a kind: pages 0, lanes 1, QDR granules 2, LPDDR granules 3, sources 5. -/
def Plan.ownerOf (p : Plan) (kind i : Nat) : Option Nat := (p.owns.find? (·.covers kind i)).map OwnE.party

/-- The owner of an index of a kind now: the launch controller (`none`) while under hand-over or unnamed (R12). -/
def Chip.ownerOf (c : Chip) (kind i : Nat) : Option Nat :=
  if c.hand.any (·.covers kind i) then none else c.livePlan.bind (·.ownerOf kind i)

/-- Whether words of a core's tight memory lie in a region under hand-over (R12, R344). -/
def Chip.tightHeld (c : Chip) (a off n : Nat) : Bool :=
  let u := c.lowCore a * 1024
  c.hand.any (fun h => h.kind == 4 && decide (h.first ≤ u + (off + n - 1) / 64) && decide (u + off / 64 ≤ h.last))

/-- Whether a context of a core has its region, or part of it, in what a hand-over covers. -/
def Hand.touches (h : Hand) (core : Nat) (x : CtxE) : Bool :=
  let u := core * 1024 + x.tmBase
  h.kind == 4 && decide (h.first < u + x.tmSize) && decide (u ≤ h.last)

/-- Whether part of a context's region is under hand-over. -/
def Chip.ctxHeld (c : Chip) (core : Nat) (x : CtxE) : Bool := c.hand.any (fun h => h.touches core x)

/-- What is left of a stretch once those of its kind in a list are taken out. -/
def Hand.without (h : Hand) (gs : List Hand) : List Hand :=
  gs.foldl (fun l g => l.flatMap (fun x =>
    if g.kind ≠ x.kind ∨ g.last < x.first ∨ x.last < g.first then [x]
    else (if x.first < g.first then [{ x with last := g.first - 1 }] else [])
      ++ (if g.last < x.last then [{ x with first := g.last + 1 }] else []))) [h]

/-- A stretch of tight memory, in 64-word units, less what is under hand-over: as architectural core, offset and words
(R346). -/
def Chip.tightFree (c : Chip) (first last : Nat) : List (Nat × Nat × Nat) :=
  ((⟨4, first, last, none, none, false⟩ : Hand).without c.hand).map (fun x =>
    (x.first / 1024, x.first % 1024 * 64, (x.last + 1 - x.first) * 64))

/-- The party that owns a word of QDR or logical LPDDR. -/
def Chip.memOwner (c : Chip) (a : Nat) : Option Nat :=
  if a < qdrEnd then c.ownerOf 2 (a / 4096) else c.ownerOf 3 (a / 4096)

/-! ### Event occurrences (R269, R272) -/

/-- Sources that never become pending: the reserved ones and the spurious number (R269). -/
def srcReserved (s : Nat) : Bool :=
  decide (0x32F ≤ s) || (decide (0x080 ≤ s) && decide (s < 0x0C0) && decide (6 ≤ (s - 0x080) % 8))

/-- An occurrence of a source: it sets PEND while ENA is 1, and is dropped otherwise (R272). -/
def Hub.occur (h : Hub) (s : Nat) : Hub :=
  if srcReserved s || !h.ena.testBit s then h else { h with pend := h.pend ||| 2 ^ s }

/-- A block raises a source. -/
def Chip.raise (c : Chip) (s : Nat) : Chip := { c with hub := c.hub.occur s }

/-- The eight's event at an offset of its group (R269). -/
def eightSrc (e k : Nat) : Nat := 0x080 + 8 * e + k

/-! ### Plan instants -/

/-- An event of a plan instant happens: TB has reached it. -/
def Chip.reach (c : Chip) (t : Nat) : Chip := if c.now < t then { c with now := t, nowFrac := 0 } else c

/-- The TB instant of a granule of this stroke. -/
def Chip.granuleAt (c : Chip) (g : Nat) : Nat := c.catchAt + 20 * g

/-! ### Flits to the partner (R397, R402) -/

/-- Flits the replay buffer of the pair link holds. -/
def replayFlits : Nat := 128

/-- Flits that wait enter the replay buffer, and are sent, while it has room. -/
def PairLink.fill (p : PairLink) : PairLink :=
  let n := Nat.min p.waiting.length (replayFlits - p.replay.length)
  { p with replay := p.replay ++ p.waiting.take n, waiting := p.waiting.drop n, txSeq := (p.txSeq + n) % 4096 }

/-- Flits are offered to the link in GO. -/
def Chip.pairSend (c : Chip) (bs : List PairBody) : Chip :=
  if c.pair.st == .go then { c with pair := { ({ c.pair with waiting := c.pair.waiting ++ bs } : PairLink).fill
    with sentAt := c.now } } else c

/-- A yield of this chip falls due: in GO it is sent to the partner, once for the next catch (R399). -/
def Chip.fallDue (c : Chip) : Chip :=
  if c.pair.st == .go && !c.yieldDue then { (c.pairSend [.yield_]) with yieldDue := true } else c

/-- An acknowledgement releases the flits before the sequence number it names. -/
def PairLink.acked (p : PairLink) (n : Nat) : PairLink :=
  let k := (n + 8192 - p.txSeq + p.replay.length) % 4096
  if 0 < k ∧ k ≤ p.replay.length then ({ p with replay := p.replay.drop k, nakked := 0 }).fill else p

/-! ### The answer of a command -/

/-- A command changes the chip and leaves the queue: the next state. (DESIGN CHOICE, log entry 13) -/
def State.does (s : State) (f : Chip → Chip) : Result := .next { s with chip := f s.chip }

end Sys2Proof.Machine
end

