-- ==== Sys2Proof/Machine/Memory.lean ====
section
/-! DEFINITION. Reads and writes of external memory as an agent sees it (R248, R322, R332, R333). -/

namespace Sys2Proof.Machine

/-! ### External memory as an agent sees it through the key pair of its world (R333) -/

/-- Key pair codes: 0 launch controller, 1 Web, 2 Deckle (R333). -/
def worldKey (w : Bool) : Nat := 1 + b2n w

/-- Whether an address is one of logical LPDDR. -/
def isLpdAddr (a : Nat) : Bool := decide (lpdBase ≤ a) && decide (a < devBase)

/-- One word as read under a key: the block of 128 bits it lies in, an oct, is decrypted with the reader's pair where it stands
under another (R333). What no one has written stands under the launch controller's pair. (DESIGN CHOICE, log entry 6) -/
def Chip.rdW (c : Chip) (key a : Nat) : Word :=
  let t := tget 0 c.ext.enc (a / 8)
  if isLpdAddr a && t != key then
    wordOf (xtsOther c.ext.keyGen t key ((a - lpdBase) / 32) (a % 32 / 8) (readN c.mem (a / 8 * 8) 8)) (a % 8)
  else readW c.mem a

/-- `n` words as read under a key, lowest first. -/
def Chip.rdN (c : Chip) (key a : Nat) : Nat → Nat
  | 0 => 0
  | n + 1 => (c.rdW key a).toNat + c.rdN key (a + 1) n <<< 16

/-- Bring the oct that holds `a` under a key: the words of an oct under another key become what they read as. -/
def Chip.rekey (c : Chip) (key a : Nat) : Chip :=
  let o := a / 8
  let t := tget 0 c.ext.enc o
  if !isLpdAddr a || t == key then c
  else
    let ws := (List.range 8).map (fun j => c.rdW key (8 * o + j))
    { c with mem := writeL c.mem (8 * o) ws, ext := { c.ext with enc := tset 0 c.ext.enc o key } }

/-- Write words under a key; a quad written whole loses its poison (R322, R332). -/
def Chip.wrL (c : Chip) (key a : Nat) : List Word → Chip
  | [] => c
  | x :: xs =>
    let c' := c.rekey key a
    Chip.wrL { c' with mem := writeW c'.mem a x } key (a + 1) xs

/-- Quads wholly inside `n` words from `a`. -/
def wholeQuads (a n : Nat) : List Nat :=
  (List.range (n / 4 + 2)).map (fun i => a / 4 + i) |>.filter (fun q => a ≤ 4 * q && 4 * q + 4 ≤ a + n)

/-- Whether a quad of logical LPDDR lies in a segment that a holdover did not keep (R340). -/
def Lpd.lostAt (l : Lpd) (q : Nat) : Bool := l.segQ != 0 && l.lost.getLsbD ((q - lpdBase / 4) / l.segQ)

/-- Whether a quad's poison bit is set in a controller's check lines (R332, R340). -/
def Lpd.isPoison (l : Lpd) (q : Nat) : Bool := tget false l.poison q != l.lostAt q

/-- Set or clear a quad's poison bit. -/
def Lpd.putPoison (l : Lpd) (q : Nat) (b : Bool) : Lpd := { l with poison := tset false l.poison q (b != l.lostAt q) }

/-- A quad written whole loses its marks of error. -/
def Lpd.heal (l : Lpd) (q : Nat) : Lpd :=
  let l := l.putPoison q false
  { l with bad := tset false l.bad q false }

/-- Clear the error marks of quads written whole. -/
def Chip.clearErr (c : Chip) (qs : List Nat) : Chip :=
  let clr (t : Tbl Bool) := qs.foldl (fun t q => tset false t q false) t
  let l0 := tget {} c.ext.lpd 0
  let l1 := tget {} c.ext.lpd 1
  let l0' := qs.foldl Lpd.heal l0
  let l1' := qs.foldl Lpd.heal l1
  let e := { c.ext with qpoison := clr c.ext.qpoison, qbad := clr c.ext.qbad }
  { c with ext := { e with lpd := tset {} (tset {} c.ext.lpd 0 l0') 1 l1' } }

/-- A write of words by an agent that holds a key. -/
def Chip.memWrite (c : Chip) (key a : Nat) (ws : List Word) : Chip :=
  (c.wrL key a ws).clearErr (wholeQuads a ws.length)

/-- Mark a quad poisoned: every later read of it is uncorrectable (R248, R322, R332). -/
def Chip.poisonQuad (c : Chip) (q : Nat) : Chip :=
  if 4 * q < qdrEnd then { c with ext := { c.ext with qpoison := tset false c.ext.qpoison q true } }
  else
    let l0 := tget {} c.ext.lpd 0
    let l1 := tget {} c.ext.lpd 1
    let l0' := l0.putPoison q true
    let l1' := l1.putPoison q true
    { c with ext := { c.ext with lpd := tset {} (tset {} c.ext.lpd 0 l0') 1 l1' } }

/-- Whether a controller reports a quad to the requester: poisoned, or uncorrectable with no LIVE partner to forward the read
to (R332, R338). -/
def Lpd.reports (l : Lpd) (q : Nat) : Bool := l.isPoison q || tget false l.bad q

/-- Whether a quad meets an uncorrectable or poisoned read: in QDR by its marks (R322), in LPDDR as the controller finds it
whose turn it is for the source agent of that code (R337); of a quad uncorrectable there the partner decides (R332, R338). -/
def Chip.quadErr (c : Chip) (q : Nat) (agent : Nat := 0) : Bool :=
  if 4 * q < qdrEnd then tget false c.ext.qpoison q || tget false c.ext.qbad q
  else
    let l (k : Nat) : Lpd := tget {} c.ext.lpd k
    let live (k : Nat) : Bool := (l k).st == .live
    if live 0 && live 1 then
      let k := tget 0 c.ext.turn agent
      (l k).isPoison q || (tget false (l k).bad q && (l (1 - k)).reports q)
    else (live 0 && (l 0).reports q) || (live 1 && (l 1).reports q)

/-- Whether `n` words from `a` meet one. (DESIGN CHOICE, log entry 29) -/
def Chip.memErr (c : Chip) (a n : Nat) (agent : Nat := 0) : Bool :=
  (List.range ((a + n - 1) / 4 + 1 - a / 4)).any (fun i => c.quadErr (a / 4 + i) agent)

/-- The quads of a line that do. -/
def Chip.lineErr (c : Chip) (line : Nat) (agent : Nat := 0) : BitVec 8 :=
  BitVec.ofNat 8 ((List.range 8).foldl (fun x i => x + b2n (c.quadErr (8 * line + i) agent) * 2 ^ i) 0)

/-- The code of an agent: a requester has its own (R455), the block of a stop 67 more than the stop. -/
def Agent.code : Agent → Nat
  | .unit u => u.val
  | .block s => 67 + s.val

/-- The code of the L2 of a core's eight, which fills lines. -/
def l2Agent (core : Nat) : Nat := 67 + core / 8

end Sys2Proof.Machine
end

