-- ==== Sys2Proof/Machine/Counters.lean ====
section
/-! DEFINITION. The trace funnel, its triggers, and the counters (chapter "Trace and Performance Counters", R412 to R422). -/

namespace Sys2Proof.Machine

/-! ### Per-core counters (R417 to R420) -/

/-- PMMODE.MODE is SERVICE. -/
def Chip.pmService (c : Chip) : Bool := c.fld 0x0F5 0x100 1 0 == 1

/-- Whether counters are frozen (R423). -/
def Chip.pmFrozen (c : Chip) : Bool := c.fld 0x0F5 0x102 1 1 == 1

/-- The TRIG frame of the funnel: SRC 127, the source and the exact TB (R407, R414). -/
def trigFrame (src now : Nat) : Oct :=
  BitVec.ofNat 128 (127 + 5 * 2 ^ 7 + (8 + src * 16) * 2 ^ 16 + (now % 2 ^ 64) * 2 ^ 32)

/-- The frame the funnel writes at the end of the wake. -/
def endFrame (now : Nat) : Oct :=
  BitVec.ofNat 128 (127 + 5 * 2 ^ 7 + 9 * 2 ^ 16 + (now % 2 ^ 64) * 2 ^ 32)

/-- Frames of the trace buffer. -/
def traceFrames : Nat := 8192

/-- TRCTL.MODE is STREAM. -/
def Chip.trStream (c : Chip) : Bool := c.fld 0x0F4 0x020 1 1 == 1

/-- Frames of the sink (R412). -/
def Chip.sinkFrames (c : Chip) : Nat := (c.fld 0x0F4 0x02E 23 0 + 1) * 512

/-- The frames a wake may write before the TRIG frame is overwritten (R415). -/
def Chip.trRoom (c : Chip) : Nat := if c.trStream then c.sinkFrames else traceFrames

/-- The oldest frame not yet drained goes to the sink (R412). -/
def Chip.trDrainOne (c : Chip) : Chip :=
  let t := c.trace
  let a := c.fld 0x0F4 0x02C 23 0 * 4096 + (t.drained % c.sinkFrames) * 8
  let f := tget 0 t.buf (t.drained % traceFrames)
  { (c.memWrite 0 a (toWords 8 f.toNat)) with trace := { t with drained := t.drained + 1 } }

/-- `n` frames go to the sink. -/
def Chip.trDrainN (c : Chip) : Nat → Chip
  | 0 => c
  | n + 1 => c.trDrainOne.trDrainN n

/-- In STREAM mode the frames not yet drained go to the sink in order while LPDDR serves (R412). -/
def Chip.trDrain (c : Chip) : Chip :=
  let live := [0, 1].any (fun k => (tget {} c.ext.lpd k).st == .live)
  if c.trStream && live then c.trDrainN (c.trace.wr - c.trace.drained) else c

/-- Whether the funnel accepts a frame now. -/
def Chip.funnelOpen (c : Chip) : Bool :=
  (c.trace.st == .run || c.trace.st == .wake) && !(c.trStream && decide (traceFrames ≤ c.trace.wr - c.trace.drained))

/-- The funnel writes a frame (R412, R415). -/
def Chip.funnelPut (c : Chip) (f : Oct) : Chip :=
  let t := c.trace
  let t' := { t with buf := tset 0 t.buf (t.wr % traceFrames) f, wr := t.wr + 1 }
  let c := { c with trace := t' }
  let c := c.setLive 0x0F4 0x104 (t'.wr % 2 ^ 32)
  let c := if t.st == .wake && decide (t.trigWr + c.trRoom < t'.wr) then c.setFld 0x0F4 0x100 2 2 1 else c
  c.trDrain

/-- A frame is offered to the funnel, which drains first what it can and may still refuse it (R412). -/
def Chip.funnelOffer (c : Chip) (f : Oct) : Chip :=
  let c := c.trDrain
  if c.funnelOpen then c.funnelPut f else c

/-- Set TRSTAT.STATE with the state it shows. -/
def Chip.setTrSt (c : Chip) (s : TrSt) : Chip :=
  { (c.setFld 0x0F4 0x100 1 0 (match s with | .off => 0 | .run => 1 | .wake => 2 | .stopped => 3)) with
    trace := { c.trace with st := s } }

/-- A trigger of a source (R414, R415): in RUN it moves trace to WAKE when TRTRIG selects the source; in the other states it is
ignored and counted. A TRIG frame that the funnel refuses is lost, with the place it would have had in TRTRIGPOS. (DESIGN
CHOICE, log entry 94) -/
def Chip.trigger (c : Chip) (src : Nat) : Chip :=
  let sel := c.fld 0x0F4 0x026 2 0
  if (if sel ≥ 6 then 0 else sel) ≠ src then c
  else if c.trace.st != .run then c.bumpFld 0x0F4 0x100 23 16
  else
    let pos := if c.trStream then c.trace.wr % c.sinkFrames else c.trace.wr % traceFrames
    let w := c.trace.wr
    let c := c.funnelOffer (trigFrame src c.now)
    let c := c.setLive 0x0F4 0x102 pos
    let c := c.setTrSt .wake
    let c := { c with trace := { c.trace with trigWr := w, trigAt := c.now } }
    c.raise 0x324

/-- Counter `k` of a pipeline. -/
def Chip.pmGet (c : Chip) (pi k : Nat) : Nat :=
  c.live (0x020 + pi) (0x150 + 4 * k) + c.fld (0x020 + pi) (0x152 + 4 * k) 15 0 * 2 ^ 32

/-- Counter `k` loaded. -/
def Chip.pmSet (c : Chip) (pi k v : Nat) : Chip :=
  (c.setLive (0x020 + pi) (0x150 + 4 * k) (v % 2 ^ 32)).setFld (0x020 + pi) (0x152 + 4 * k) 15 0 (v / 2 ^ 32)

/-- A counter passed its limit in SERVICE mode, or an odd counter in the others (R420). -/
def Chip.pmOverflow (c : Chip) (pi k : Nat) : Chip :=
  ((c.setFld (0x020 + pi) (0x152 + 4 * k) 16 16 1).raise 0x327).trigger 5

/-- The limit of a counter (R420). -/
def pmLimit : Nat := 2 ^ 48

/-- Add to a counter; it wraps at 2^48 (R420). -/
def Chip.pmAdd (c : Chip) (pi k n : Nat) : Chip :=
  let v := c.pmGet pi k + n
  let c := c.pmSet pi k (v % pmLimit)
  if v < pmLimit then c
  else if c.pmService || k % 2 == 1 then c.pmOverflow pi k
  else
    let u := c.pmGet pi (k + 1) + 1
    let c := c.pmSet pi (k + 1) (u % pmLimit)
    if u < pmLimit then c else c.pmOverflow pi (k + 1)

/-- ST.LEVEL. -/
def Arch.level (a : Arch) : Nat := bits a.st.toNat 1 0

/-- Whether counter `k` of a pipeline counts an event now (R417, R420). -/
def Chip.pmCounts (c : Chip) (pi k ev : Nat) : Bool :=
  let cfg := c.live (0x020 + pi) (0x140 + 2 * k)
  let p := c.pipe pi
  bitN cfg 20 && bits cfg 7 0 == ev && ev != 0 && !c.pmFrozen && (c.pmService || k % 2 == 0)
  && (match p.ctx with
      | none => false
      | some x =>
        (bitN cfg 14 || bits cfg 13 8 == x.party) && (bits cfg 16 15 == 0 || bits cfg 16 15 == (if x.open_ then 2 else 1))
        && bitN (bits cfg 19 17) p.arch.level)

/-- An event of a pipeline happens `n` times (R418). -/
def Chip.count (c : Chip) (pi ev n : Nat) : Chip :=
  if n = 0 then c else (List.range 8).foldl (fun c k => if c.pmCounts pi k ev then c.pmAdd pi k n else c) c

/-- The same for an architectural core. -/
def Chip.countCore (c : Chip) (core ev n : Nat) : Chip :=
  match c.pipeOf core with
  | some pi => c.count pi ev n
  | none => c

/-- Bytes through a port are counted by every block counter that selects it (R422). -/
def Chip.blkCount (c : Chip) (stop sub dir n : Nat) : Chip :=
  if c.pmFrozen then c
  else
    { c with blk := (List.range 32).foldl (fun t k =>
      let x := c.live 0x0F5 (0x040 + 2 * k)
      if bitN x 11 && bits x 4 0 == stop && bits x 9 5 == sub && bits x 10 10 == dir then
        tset 0 t k ((tget 0 t k + n) % 2 ^ 32)
      else t) c.blk }

end Sys2Proof.Machine
end

