-- ==== Sys2Proof/Machine/Caches.lean ====
section
/-! DEFINITION. Reads and writes of the caches and of tight memory (R228 to R239, R247, R248). -/

namespace Sys2Proof.Machine

/-! ### Caches (R231 to R233) -/

/-- Where the running context may look and allocate (R232). -/
structure MCtx where
  core  : Nat
  party : Nat
  key   : Nat
  level : Nat := 0
  l1i   : List Nat
  l1d   : List Nat
  l2    : List Nat
  deriving DecidableEq, Repr

/-- The ways a mask of four names. -/
def ways4 (m : BitVec 4) : List Nat := (List.range 4).filter (fun k => m.getLsbD k)

/-- The L2 ways of a party in an eight that are not being cleared (R35, R238). -/
def Chip.l2Ways (c : Chip) (e party : Nat) : List Nat :=
  match c.livePlan with
  | none => []
  | some p => (List.range 16).filter (fun k =>
      (p.l2Of e).getD k none == some party && !(c.eight e).clrL2.getLsbD k)

/-- The cache reach of a running context on an architectural core. -/
def Chip.mctx (c : Chip) (a : Nat) (x : RunCtx) : MCtx :=
  let clr := tget 0 (c.eight (a / 8)).clrL1 (a % 8)
  { core := a
    party := x.party
    key := worldKey x.world
    l1i := (ways4 x.l1i).filter (fun k => !clr.testBit k)
    l1d := (ways4 x.l1d).filter (fun k => !clr.testBit (4 + k))
    l2 := c.l2Ways (a / 8) x.party }

/-- The key of a line slot: way and set. -/
def slotKey (way set_ : Nat) : Nat := way * 4096 + set_

/-- The line in a slot. -/
def Cache.slot (k : Cache) (way set_ : Nat) : Line := tget {} k.lines (slotKey way set_)

/-- The cache with a slot replaced. -/
def Cache.setSlot (k : Cache) (way set_ : Nat) (l : Line) : Cache :=
  { k with lines := tset {} k.lines (slotKey way set_) l }

/-- The way among `ws` that holds a line. -/
def Cache.find (k : Cache) (ws : List Nat) (sets line : Nat) : Option Nat :=
  ws.find? (fun w => (k.slot w (line % sets)).valid && (k.slot w (line % sets)).line == line)

/-- A use of a slot, for least-recently-used replacement. -/
def Cache.touch (k : Cache) (way set_ : Nat) : Cache :=
  { (k.setSlot way set_ { k.slot way set_ with use := k.tick + 1 }) with tick := k.tick + 1 }

/-- The way a fill takes: first an invalid line, then the least recently used unlocked line (R232). -/
def Cache.victim (k : Cache) (ws : List Nat) (set_ : Nat) : Option Nat :=
  match ws.find? (fun w => !(k.slot w set_).valid) with
  | some w => some w
  | none =>
    (ws.filter (fun w => !(k.slot w set_).lock)).foldl (fun b w =>
      match b with
      | none => some w
      | some v => if (k.slot w set_).use < (k.slot v set_).use then some w else some v) none

/-- Whether a line holds data that memory lacks and that can still be written back (R247). -/
def Line.holds (l : Line) : Bool := l.valid && l.dirty && !l.tagBad

/-- The words of a line. -/
def lineWords (d : LineData) : List Word := toWords 32 d.toNat

/-- `n` words of a line from word `j`. -/
def lineRead (d : LineData) (j n : Nat) : Nat := (d.toNat >>> (16 * j)) % 2 ^ (16 * n)

/-- A line with `n` words from word `j` replaced. -/
def lineWrite (d : LineData) (j n : Nat) (x : Nat) : LineData :=
  BitVec.ofNat 512 (setBits d.toNat (16 * (j + n) - 1) (16 * j) x)

/-- The L2 of the eight a core belongs to. -/
def Chip.l2 (c : Chip) (core : Nat) : Cache := (c.eight (core / 8)).l2

/-- The chip with that L2 replaced. -/
def Chip.setL2 (c : Chip) (core : Nat) (k : Cache) : Chip :=
  c.setEight (core / 8) { c.eight (core / 8) with l2 := k }

/-- Write a line to memory; a line with an uncorrectable quad is written poisoned (R248). -/
def Chip.lineToMem (c : Chip) (key line : Nat) (d : LineData) (bad : BitVec 8) : Chip :=
  let c' := c.memWrite key (32 * line) (lineWords d)
  ((List.range 8).filter (fun i => bad.getLsbD i)).foldl (fun c i => c.poisonQuad (8 * line + i)) c'

/-- Log an uncorrectable L2 error and raise the eight's event (R247). -/
def Chip.l2Error (c : Chip) (e way addr : Nat) (dirty : Bool) : Chip :=
  let pg := 0x010 + e
  let c := c.bumpFld pg 0x300 23 16
  let c := if c.fld pg 0x304 9 9 = 1 then c
    else (c.setLive pg 0x302 (addr % 2 ^ 32)).setLive pg 0x304 (addr / 2 ^ 32 % 16 + way * 16 + b2n dirty * 2 ^ 8 + 2 ^ 9)
  c.raise (eightSrc e 2)

/-- Put a line into a party's L2 ways, writing back the dirty line it replaces; `none` when the party has no way (R233). A copy
there whose tag is uncorrectable is logged and replaced whole (R247). -/
def Chip.l2Put (c : Chip) (m : MCtx) (line : Nat) (d : LineData) (dirty : Bool) (bad : BitVec 8) :
    Option Chip :=
  let k := c.l2 m.core
  let s := line % 1024
  let put (c : Chip) (w : Nat) (dirty : Bool) : Chip :=
    let k := c.l2 m.core
    c.setL2 m.core ((k.setSlot w s { valid := true, line := line, data := d, dirty := dirty, bad := bad }).touch w s)
  match k.find m.l2 1024 line with
  | some w =>
    let old := k.slot w s
    if old.tagBad then some (put (c.l2Error (m.core / 8) w (32 * line) old.dirty) w dirty) else some (put c w (dirty || old.dirty))
  | none =>
    match k.victim m.l2 s with
    | none => none
    | some w =>
      let old := k.slot w s
      let c := if old.holds then c.lineToMem m.key old.line old.data old.bad else c
      some (put c w dirty)

/-- Write an L1D line back: into the party's L2 ways, or to memory when it has none (R233, R418). -/
def Chip.writeBack (c : Chip) (m : MCtx) (line : Nat) (d : LineData) (bad : BitVec 8) : Chip :=
  ((c.l2Put m line d true bad).getD (c.lineToMem m.key line d bad)).countCore m.core 0x08 1

/-- A line as memory gives it, allocated in the party's L2 ways (R233). -/
def Chip.memFetch (c : Chip) (m : MCtx) (line : Nat) : Chip × LineData × BitVec 8 :=
  let d := BitVec.ofNat 512 (c.rdN m.key (32 * line) 32)
  let bad := c.lineErr line (l2Agent m.core)
  ((c.l2Put m line d false bad).getD c, d, bad)

/-- What a fill finds: the data from the party's L2 ways or from memory, and its uncorrectable quads; a fill from memory
allocates in L2 (R233). An uncorrectable error of L2 is logged; a clean line is refetched from memory, a dirty one goes to the
requester as it is, and one whose tag is uncorrectable is invalidated, every quad of it lost (R247). A line that L2 lacks is a
miss of the core (R418). -/
def Chip.lineFetch (c : Chip) (m : MCtx) (line : Nat) : Chip × LineData × BitVec 8 :=
  let k := c.l2 m.core
  let s := line % 1024
  match k.find m.l2 1024 line with
  | none => (c.countCore m.core 0x07 1).memFetch m line
  | some w =>
    let l := k.slot w s
    if l.tagBad then
      ((c.setL2 m.core (k.setSlot w s {})).l2Error (m.core / 8) w (32 * line) l.dirty, l.data, BitVec.allOnes 8)
    else if l.bad == 0 then (c.setL2 m.core (k.touch w s), l.data, 0)
    else
      let c := c.l2Error (m.core / 8) w (32 * line) l.dirty
      if l.dirty then (c.setL2 m.core (k.touch w s), l.data, l.bad) else c.memFetch m line

/-- L1I (`true`) or L1D of an architectural core. -/
def Chip.l1 (c : Chip) (core : Nat) (i : Bool) : Cache :=
  if i then (c.arr (c.arrOf core)).l1i else (c.arr (c.arrOf core)).l1d

/-- The chip with that L1 replaced. -/
def Chip.setL1 (c : Chip) (core : Nat) (i : Bool) (k : Cache) : Chip :=
  let s := c.arr (c.arrOf core)
  c.setArr (c.arrOf core) (if i then { s with l1i := k } else { s with l1d := k })

/-- The ways of L1I or L1D a context names. -/
def MCtx.l1 (m : MCtx) (i : Bool) : List Nat := if i then m.l1i else m.l1d

/-- The way that holds a line in L1, of those the context names. -/
def Chip.l1Find (c : Chip) (m : MCtx) (i : Bool) (line : Nat) : Option Nat :=
  (c.l1 m.core i).find (m.l1 i) 128 line

/-- Whether a fill of a line into L1 has a way to go to (R232). -/
def Chip.l1CanFill (c : Chip) (m : MCtx) (i : Bool) (line : Nat) : Bool :=
  ((c.l1 m.core i).victim (m.l1 i) (line % 128)).isSome

/-- Put a fetched line into a way of L1, writing a dirty line it replaces back. -/
def Chip.l1Put (c : Chip) (m : MCtx) (i : Bool) (w line : Nat) (d : LineData) (bad : BitVec 8) (lock : Bool) :
    Chip :=
  let s := line % 128
  let old := (c.l1 m.core i).slot w s
  let c := if old.holds then c.writeBack m old.line old.data old.bad else c
  c.setL1 m.core i (((c.l1 m.core i).setSlot w s
    { valid := true, line := line, data := d, bad := bad, lock := lock }).touch w s)

/-- Fill a line into L1, if a way is free for it (R232, R233). -/
def Chip.l1Fill (c : Chip) (m : MCtx) (i : Bool) (line : Nat) : Chip :=
  match (c.l1 m.core i).victim (m.l1 i) (line % 128) with
  | none => c
  | some w =>
    let (c, d, bad) := c.lineFetch m line
    c.l1Put m i w line d bad false

/-- Read through L1D: a line that is not there is filled first, and without a way to fill the read is uncached and looks in no
cache (R230, R232, R233). -/
def Chip.cachedRead (c : Chip) (m : MCtx) (a n : Nat) : Chip × Nat :=
  let line := a / 32
  let c := if (c.l1Find m false line).isNone then c.l1Fill m false line else c
  match c.l1Find m false line with
  | some w =>
    let k := c.l1 m.core false
    (c.setL1 m.core false (k.touch w (line % 128)), lineRead (k.slot w (line % 128)).data (a % 32) n)
  | none => (c, c.rdN m.key a n)

/-- Whether `n` words from word `j` of a line touch one of its uncorrectable quads. -/
def badIn (bad : BitVec 8) (j n : Nat) : Bool :=
  (List.range 8).any (fun q => bad.getLsbD q && decide (j < 4 * q + 4) && decide (4 * q < j + n))

/-- Whether a cached read meets an uncorrectable error, where no line can be filled in the memory behind (R232, R247). -/
def Chip.cachedBad (c : Chip) (m : MCtx) (a n : Nat) : Bool :=
  let line := a / 32
  match c.l1Find m false line with
  | some w =>
    let l := (c.l1 m.core false).slot w (line % 128)
    l.tagBad || badIn l.bad (a % 32) n
  | none => if c.l1CanFill m false line then badIn (c.lineFetch m line).2.2 (a % 32) n else c.memErr a n m.core

/-- Whether the party's L2 holds a line under an uncorrectable tag (R247). -/
def Chip.l2TagBad (c : Chip) (m : MCtx) (line : Nat) : Bool :=
  match (c.l2 m.core).find m.l2 1024 line with
  | some w => ((c.l2 m.core).slot w (line % 1024)).tagBad
  | none => false

/-- Whether the read of a CASP on QDR meets an uncorrectable error: in the line that it first writes back, from L1D or L2, or
in memory (R241, R247, R322). -/
def Chip.caspBad (c : Chip) (m : MCtx) (a n : Nat) : Bool :=
  let line := a / 32
  let l1 := (c.l1Find m false line).map (fun w => (c.l1 m.core false).slot w (line % 128))
  let l2 := ((c.l2 m.core).find m.l2 1024 line).map (fun w => (c.l2 m.core).slot w (line % 1024))
  if l1.any (·.tagBad) || l2.any (·.tagBad) then true
  else match l1.filter Line.holds, l2.filter Line.holds with
    | some l, _ | none, some l => badIn l.bad (a % 32) n
    | none, none => c.memErr a n m.core

/-- The uncorrectable quads left after `n` words from word `j` are written: a quad written whole is correct again. -/
def badAfter (bad : BitVec 8) (j n : Nat) : BitVec 8 :=
  BitVec.ofNat 8 ((List.range 8).foldl (fun x q =>
    x + b2n (bad.getLsbD q && !(decide (j ≤ 4 * q) && decide (4 * q + 4 ≤ j + n))) * 2 ^ q) 0)

/-- Write through L1D: the line becomes dirty. A line that is not there is filled first (R233), and without a way to fill the
write is uncached (R232). -/
def Chip.cachedWrite (c : Chip) (m : MCtx) (a n x : Nat) : Chip :=
  let line := a / 32
  let c := if (c.l1Find m false line).isNone then c.l1Fill m false line else c
  match c.l1Find m false line with
  | some w =>
    let k := c.l1 m.core false
    let l := k.slot w (line % 128)
    c.setL1 m.core false ((k.setSlot w (line % 128)
      { l with data := lineWrite l.data (a % 32) n x, dirty := true, bad := badAfter l.bad (a % 32) n }).touch w (line % 128))
  | none => c.memWrite m.key a (toWords n x)

/-- Write words of an architectural core's tight memory; a word written is correctable again. -/
def Chip.tightWrite (c : Chip) (core off n x : Nat) : Chip :=
  let a := c.tmAddr core off
  let clr := (List.range n).foldl (fun t i => tset false t (a + i) false) c.tmBad
  let c := { c with mem := writeL c.mem a (toWords n x), tmBad := clr }
  -- R260: while ARRAY_MOVE runs, every write to the core's array set also goes to the spare array set
  match (c.eight (core / 8)).move with
  | some mv =>
    if mv.core = core then
      let b := tightBase + (9 * (core / 8) + mv.dest) * 0x1_0000 + off
      { c with mem := writeL c.mem b (toWords n x)
               tmBad := (List.range n).foldl (fun t i => tset false t (b + i) false) c.tmBad }
    else c
  | none => c

/-- Write words of an architectural core's tight memory through the ring port: in swing what reaches the lower eight passes
over the swing bridge to the higher (R229, R263). -/
def Chip.ringWrite (c : Chip) (core off n x : Nat) : Chip :=
  let c1 := c.tightWrite core off n x
  if c.inSwing (core / 8) && (core / 8) % 2 == 0 then c1.tightWrite (core + 8) off n x else c1

/-- Read words of tight memory. -/
def Chip.tightRead (c : Chip) (core off n : Nat) : Nat := readN c.mem (c.tmAddr core off) n

/-- Whether words of tight memory hold an uncorrectable error (R247). -/
def Chip.tightErr (c : Chip) (core off n : Nat) : Bool :=
  (List.range n).any (fun i => tget false c.tmBad (c.tmAddr core off + i))

/-- Log an uncorrectable error of a core's array: the first is kept, all are counted, and the eight's event is raised (R247).
The registers are those of the array set (R251). Arrays: 0 tight memory, 1 L1D, 2 L1I, 3 tags. -/
def Chip.logError (c : Chip) (core array addr : Nat) : Chip :=
  let pg := 0x020 + c.arrOf core
  let c := if c.fld pg 0x306 7 7 = 1 then c
    else ((((c.setLive pg 0x304 (addr % 2 ^ 32)).setFld pg 0x306 3 0 (addr / 2 ^ 32)).setFld pg 0x306 6 4 array).setFld
      pg 0x306 7 7 1)
  (c.bumpFld pg 0x306 15 8).raise (eightSrc (core / 8) 2)

/-- An uncorrectable word of tight memory that an access meets is logged (R247). -/
def Chip.tightLog (c : Chip) (core off n : Nat) : Chip :=
  match (List.range n).find? (fun i => tget false c.tmBad (c.tmAddr core off + i)) with
  | some i => c.logError core 0 (off + i)
  | none => c

end Sys2Proof.Machine
end

