-- ==== Sys2Proof/Machine/Translate.lean ====
section
/-! DEFINITION. Segments, pages, the owner check and the order of checks of an access (chapter "Segments, Pages and
Translation", R183 to R209). -/

namespace Sys2Proof.Machine

/-! ### Causes (R179) -/

/-- The code of a cause. -/
def Cause.code : Cause → Nat
  | .ifseg => 0x01
  | .iftlb => 0x02
  | .ifprot => 0x03
  | .ifbus => 0x04
  | .ifmiss => 0x06
  | .illegal => 0x08
  | .priv => 0x09
  | .sched => 0x0A
  | .farop => 0x19
  | .align => 0x10
  | .dseg => 0x11
  | .dtlb => 0x12
  | .dprot => 0x13
  | .dmark => 0x14
  | .dmiss => 0x18
  | .dbus => 0x15
  | .decc => 0x16
  | .emul => 0x0C
  | .intr => 0x20

/-- The rank of a cause: the lowest is taken. -/
def Cause.rank : Cause → Nat
  | .ifseg | .iftlb | .ifprot | .ifbus | .ifmiss => 1
  | .illegal => 2
  | .priv => 3
  | .sched => 4
  | .farop => 5
  | .align => 6
  | .dseg => 7
  | .dtlb => 8
  | .dprot => 9
  | .dmark => 10
  | .dmiss => 11
  | .dbus => 12
  | .decc => 13
  | .emul => 14
  | .intr => 15

/-- The EXROUTE bit of a cause; the causes of timed windows have none and never reach a handler. -/
def Cause.routeBit : Cause → Nat
  | .ifseg | .iftlb | .ifprot | .ifbus | .ifmiss => 0
  | .illegal => 1
  | .priv => 2
  | .sched => 3
  | .align => 4
  | .dseg => 5
  | .dtlb => 6
  | .dprot => 7
  | .dmark => 8
  | .dbus => 9
  | .decc => 10
  | .emul => 11
  | .intr => 12
  | .farop | .dmiss => 13

/-- The order of slots among equal causes (R95). -/
def Slot.order : Slot → Nat
  | .a => 0
  | .b => 1
  | .m => 2
  | .l => 3

/-- The cause taken among those a bundle raises: lowest rank, then slot order (R95, R179). -/
def firstCause : List Raised → Option Raised
  | [] => none
  | r :: rs =>
    match firstCause rs with
    | none => some r
    | some q =>
      if q.cause.rank < r.cause.rank ∨ (q.cause.rank = r.cause.rank ∧ q.slot.order < r.slot.order) then some q
      else some r

/-! ### Fields of the status register -/

/-- ST.IE. -/
def Arch.ie (a : Arch) : Bool := a.st.getLsbD 4

/-- CRABSTAT.CRAB. -/
def Arch.crab (a : Arch) : Bool := (tget 0 a.creg 0x2F).getLsbD 0

/-- A control register as the hardware acts on it (R196, R227). -/
def Arch.acting (a : Arch) (n : Nat) : Nat := (tget 0 a.eff n).toNat

/-- A segment register. -/
def Arch.segr (a : Arch) (n : Nat) : SegReg := tget {} a.seg n

/-! ### Descriptors (R199, R200) -/

/-- V of a descriptor. -/
def descV (d : Oct) : Bool := d.getLsbD 0
/-- WORLD of a descriptor. -/
def descWorld (d : Oct) : Bool := d.getLsbD 1
/-- R of a descriptor. -/
def descR (d : Oct) : Bool := d.getLsbD 2
/-- W of a descriptor. -/
def descW (d : Oct) : Bool := d.getLsbD 3
/-- X of a descriptor. -/
def descX (d : Oct) : Bool := d.getLsbD 4
/-- LLVL of a descriptor. -/
def descLlvl (d : Oct) : Nat := bits d.toNat 6 5
/-- PG of a descriptor. -/
def descPg (d : Oct) : Bool := d.getLsbD 7
/-- BASE of a descriptor. -/
def descBase (d : Oct) : Nat := bits d.toNat 63 32 + bits d.toNat 73 64 * 2 ^ 32
/-- LIMIT of a descriptor. -/
def descLimit (d : Oct) : Nat := bits d.toNat 127 96

/-- Well-formed descriptors (R200). -/
def descOk (d : Oct) : Bool :=
  descV d && bits d.toNat 31 8 == 0 && bits d.toNat 95 74 == 0 && !(descW d && descX d) && descLlvl d != 3
  && descBase d % 8 == 0 && decide (descBase d + descLimit d < 2 ^ 42)
  && (descPg d || decide (descBase d + descLimit d < 2 ^ 36))

/-- The level of a data access through a selector: ST.LEVEL, capped (R203). -/
def capLevel (lv sel : Nat) : Nat :=
  let cap := bits sel 15 14
  if cap = 3 then lv else Nat.min lv cap

/-! ### The owner check (R209) -/

/-- The lowest-numbered valid party of a world: its home party (R342). -/
def Plan.home (p : Plan) (world : Bool) : Option Nat :=
  ((p.parties.filter (fun e => e.valid && e.world == world)).map PartyE.party).min?

/-- The owner of a register page, `none` for the launch controller (R342, R343, R448). -/
def Chip.pageOwner (c : Chip) (page : Nat) : Option Nat :=
  match pageBlk page with
  | some (.eight, _) | some (.plt, _) | some (.fp, _) => c.ownerOf 0 page
  | some (.core, i) => c.ownerOf 0 (0x010 + i / 9)
  | some (.wld, _) => c.livePlan.bind (·.home true)
  | _ => none

/-- Party windows and read windows, which every party owns (R283, R304, R342, R455, R475). -/
def inWindow (page off : Nat) : Bool :=
  (page == 0x070 && 0x100 ≤ off && off ≤ 0x23F)
  || (page == 0x090 && 0x180 ≤ off && off ≤ 0x18F)
  || (page == 0x006 && 0x180 ≤ off && off ≤ 0x1BF)
  || ((page == 0x070 || page == 0x090 || page == 0x006) && 0x00E ≤ off && off ≤ 0x011)
  || (page == 0x000 && 0x100 ≤ off && off ≤ 0x105)
  || (page == 0x004 && 0x180 ≤ off && off ≤ 0x183)
  || (page == 0x005 && 0x100 ≤ off && off ≤ 0x1A7)
  || (page == 0x007 && 0x100 ≤ off && off ≤ 0x19F)
  || (page == 0x0F3 && 0x100 ≤ off && off ≤ 0x103)

/-- The lane whose context an offset of a LANECTX page belongs to (R304). -/
def laneAt (page off : Nat) : Nat := (page - 0x100) * 256 + off / 8

/-- Whether a party passes the owner check for a register (R209, R304). -/
def Chip.ownsReg (c : Chip) (party page off : Nat) : Bool :=
  match pageBlk page with
  | some (.lanectx, _) => c.ownerOf 1 (laneAt page off) == some party
  | some _ => c.pageOwner page == some party || inWindow page off
  | none => false

/-- The acting base of the world segment table of a world (R201, R227). -/
def Pipe.wst (p : Pipe) (world : Bool) : Nat :=
  (tget 0 p.coreEff (0x40 + 0x100 * b2n world)).toNat
    + bits (tget 0 p.coreEff (0x41 + 0x100 * b2n world)).toNat 3 0 * 2 ^ 32

/-- Its COUNT; values above 8,192 act as 8,192. -/
def Pipe.wstCount (p : Pipe) (world : Bool) : Nat :=
  Nat.min 8192 (bits (tget 0 p.coreEff (0x41 + 0x100 * b2n world)).toNat 17 4)

/-- Whether a read lies within the world segment table (R201). -/
def Pipe.inWst (p : Pipe) (world : Bool) (addr n : Nat) : Bool :=
  decide (p.wst world ≤ addr) && decide (addr + n ≤ p.wst world + p.wstCount world * 8)

/-- The owner check of memory; a read within the world segment table passes for the memory of any party of the world. -/
def Chip.ownsMem (c : Chip) (p : Pipe) (x : RunCtx) (addr n : Nat) (rdOnly : Bool) : Bool :=
  match c.memOwner addr with
  | none => false
  | some q => q == x.party || (rdOnly && p.inWst x.world addr n && c.worldOf q == x.world)

/-- Whether a region offset range lies in the context's tight-memory region. -/
def RunCtx.inRegion (x : RunCtx) (off n : Nat) : Bool :=
  decide (x.tmBase * 64 ≤ off) && decide (off + n ≤ (x.tmBase + x.tmSize) * 64)

/-! ### The TLB (R213 to R216) -/

/-- CONT of a leaf. -/
def pteCont (q : Quad) : Nat := bits q.toNat 12 9
/-- PPN of a leaf or table pointer. -/
def ptePpn (q : Quad) : Nat := bits q.toNat 39 16
/-- LVL of a leaf. -/
def pteLvl (q : Quad) : Nat := bits q.toNat 5 4

/-- Well-formed leaves (R211): `l0i` is the leaf's own position. -/
def leafOk (q : Quad) (l0i : Nat) : Bool :=
  bits q.toNat 15 14 == 0 && bits q.toNat 63 48 == 0 && pteLvl q != 3 && decide (pteCont q ≤ 4)
  && !(q.getLsbD 2 && q.getLsbD 3) && ptePpn q % 2 ^ pteCont q == l0i % 2 ^ pteCont q

/-- Whether an entry matches a linear address (R214). -/
def TlbEntry.hits (e : TlbEntry) (world : Bool) (asid : BitVec 12) (lin : Nat) : Bool :=
  e.v && e.world == world && (e.pte.getLsbD 8 || e.asid == asid)
  && (lin >>> (12 + pteCont e.pte)) == (e.vpn.toNat >>> pteCont e.pte)

/-- The entry of lowest index that matches. -/
def Pipe.tlbFind (p : Pipe) (world : Bool) (asid : BitVec 12) (lin : Nat) : Option TlbEntry :=
  ((List.range 128).find? (fun i => (tget {} p.tlb i).hits world asid lin)).map (fun i => tget {} p.tlb i)

/-- The physical address an entry gives (R214). -/
def TlbEntry.phys (e : TlbEntry) (lin : Nat) : Nat :=
  let k := pteCont e.pte
  ((ptePpn e.pte >>> k) <<< k + bits lin (11 + k) 12) * 4096 + bits lin 11 0

/-- The ASID the translations of this bundle use (R224). -/
def Pipe.asidEff (p : Pipe) : BitVec 12 := BitVec.ofNat 12 (p.arch.acting 0x46)

/-! ### Data accesses (R203 to R209) -/

/-- The INFO word of a cause (R184). -/
def infoWord (seg : Nat) (wr fetch : Bool) (n : Nat) : Nat :=
  seg + 8 * b2n wr + 16 * b2n fetch + 32 * (if n = 1 then 0 else if n = 2 then 1 else if n = 4 then 2 else 3)

/-- What an access wants. `line` marks a cache operation, which checks like a load but reads no data; `own` one that passes
only in the party's own memory (R201); `noEcc` asks where it goes, whatever errors its read would meet. -/
structure Want where
  seg  : Nat
  off  : Nat
  n    : Nat
  rd   : Bool
  wr   : Bool
  casp : Bool := false
  line : Bool := false
  own  : Bool := false
  noEcc : Bool := false
  slot : Slot := .l
  deriving DecidableEq, Repr

/-- A cause of an access. -/
def Want.raise (q : Want) (k : Cause) (lin : Option Nat := none) : Raised :=
  ⟨k, q.slot, q.off, infoWord q.seg q.wr false q.n, lin⟩

/-- Where a physical address leads for a load, store or MOVO (R208, R209): step 7 of R205. -/
def Chip.region (c : Chip) (a : Nat) (p : Pipe) (x : RunCtx) (addr n : Nat) (rdOnly uc : Bool) : Option Target :=
  if c.inQdr addr || c.inLpd addr then
    if c.ownsMem p x addr n rdOnly then some (.mem addr (!uc)) else none
  else
    let alias_ := tightBase + c.lowCore a * 0x1_0000
    if alias_ ≤ addr ∧ addr < alias_ + 0x1_0000 then
      if x.inRegion (addr - alias_) n && !c.tightHeld a (addr - alias_) n then some (.tight (addr - alias_)) else none
    else
      match regPage addr with
      | some pg => if c.ownsReg x.party pg ((addr - devBase) % 0x800) then some (.reg addr) else none
      | none => none

/-- The checks of R205 in their order; the outcome is a cause or where the access goes. `done` lists the lines already
refetched for the bundle: a clean unlocked line of L1D with an uncorrectable quad is refetched once. A line under an
uncorrectable tag ends every access to it, whether it reads, writes or acts on the line (R247). -/
def Chip.check (c : Chip) (a : Nat) (p : Pipe) (x : RunCtx) (done : List Nat) (q : Want) : Except Raised Target :=
  let s := p.arch.segr q.seg
  let lv := p.arch.level
  if q.off % q.n ≠ 0 then .error (q.raise .align)
  else if p.arch.crab && q.seg == 2 then
    -- R190: while CRAB is set SSG reaches the region directly
    if q.off + q.n ≤ x.tmSize * 64 then
      (if q.rd && c.tightErr a (x.tmBase * 64 + q.off) q.n then .error (q.raise .decc)
       else .ok (.tight (x.tmBase * 64 + q.off)))
    else .error (q.raise .dseg)
  else if !s.valid || (q.rd && !descR s.raw) || (q.wr && !descW s.raw) || decide (descLimit s.raw < q.off + q.n - 1) then
    .error (q.raise .dseg)
  else
    let lin := (descBase s.raw + q.off) % 2 ^ 42
    let m := capLevel lv s.sel.toNat
    let tr : Except Raised (Nat × Bool) :=
      if !descPg s.raw then .ok (lin % 2 ^ 36, false)
      else if !x.open_ then .error (q.raise .dtlb)
      else match p.tlbFind x.world p.asidEff lin with
        | none => .error (q.raise .dtlb (some lin))
        | some e =>
          if m < pteLvl e.pte || (q.rd && !e.pte.getLsbD 1) || (q.wr && !e.pte.getLsbD 2) then
            .error (q.raise .dprot (some lin))
          else if !e.pte.getLsbD 6 || (q.wr && !e.pte.getLsbD 7) then .error (q.raise .dmark (some lin))
          else .ok (e.phys lin, e.pte.getLsbD 13)
    match tr with
    | .error r => .error r
    | .ok (addr, uc) =>
      let mc := c.mctx a x
      let alias_ := tightBase + c.lowCore a * 0x1_0000
      let isTm := decide (alias_ ≤ addr) && decide (addr < alias_ + 0x1_0000)
      if !x.open_ && !isTm && (c.l1Find mc false (addr / 32)).isNone then .error (q.raise .dmiss)
      else match c.region a p x addr q.n (q.rd && !q.wr && !q.own) uc with
        | none => .error (q.raise .dbus)
        | some t =>
          let casp := q.casp && (match t with
            | .tight _ => false
            | .mem ad _ => !decide (ad < qdrEnd)
            | .reg _ => true)
          let bigReg := match t with
            | .reg ad => decide (q.n > 2) || (q.wr && !c.pageUp ((ad - devBase) / 0x800))
            | _ => false
          if casp || bigReg then .error (q.raise .dbus)
          else
            let ecc := !q.noEcc && (match t with
              | .tight o => q.rd && !q.line && c.tightErr a o q.n
              | .mem ad cached =>
                if q.casp then c.caspBad mc ad q.n
                else if !cached then q.rd && !q.line && c.memErr ad q.n mc.core
                else match c.l1Find mc false (ad / 32) with
                  | some w =>
                    let l := (c.l1 a false).slot w (ad / 32 % 128)
                    l.tagBad || (q.rd && !q.line
                      && badIn l.bad (ad % 32) q.n && (l.dirty || l.lock || !x.open_ || done.contains (ad / 32)))
                  | none =>
                    if q.line then c.l2TagBad mc (ad / 32) else q.rd && !c.l1CanFill mc false (ad / 32) && c.memErr ad q.n mc.core
              | .reg _ => false)
            if ecc then .error (q.raise .decc) else .ok t

/-! ### Descriptor capture (R201, R202) -/

/-- Where the descriptor of a selector stands, if its table holds it (R201). -/
def Chip.descAddr (c : Chip) (p : Pipe) (x : RunCtx) (sel : Nat) : Option Nat :=
  let i := bits sel 12 0
  let ctxT := bitN sel 13
  let base := if ctxT then p.arch.acting 0x42 + bits (p.arch.acting 0x43) 3 0 * 2 ^ 32 else p.wst x.world
  let cnt := if ctxT then Nat.min 8192 (bits (p.arch.acting 0x43) 17 4) else p.wstCount x.world
  let addr := base + i * 8
  if cnt ≤ i then none
  else if !(c.inQdr addr || c.inLpd addr) then none
  else if ctxT then (if c.memOwner addr == some x.party then some addr else none)
  else (match c.memOwner addr with
    | some q => if c.worldOf q == x.world then some addr else none
    | none => none)

/-- What capturing a selector gives at level `lv`: the segment register, and whether loading it is a DSEG or a DECC. `raw` is
the descriptor read at `descAddr`. -/
def captureOf (world : Bool) (lv sel : Nat) (raw : Option (Oct × Bool)) : SegReg × Option Cause :=
  let s : SegReg := ⟨BitVec.ofNat 16 sel, 0, false⟩
  if bits sel 12 0 = 0 then (s, none)
  else match raw with
    | none => (s, some .dseg)
    | some (_, true) => (s, some .decc)
    | some (d, false) =>
      if descOk d && descWorld d == world && decide (descLlvl d ≤ capLevel lv sel) then
        ({ s with raw := d, valid := true }, none)
      else (s, some .dseg)

/-- Read the descriptor of a selector as a load through L1D, with whether the read meets an uncorrectable error; none where no
table holds it, and where it misses L1D in a timed window (R79, R201). (DEDUCED, log entry 74) -/
def Chip.descRead (c : Chip) (a : Nat) (p : Pipe) (x : RunCtx) (sel : Nat) : Chip × Option (Oct × Bool) :=
  match (if bits sel 12 0 = 0 then none else c.descAddr p x sel) with
  | none => (c, none)
  | some ad =>
    let m := c.mctx a x
    if !x.open_ && (c.l1Find m false (ad / 32)).isNone then (c, none)
    else
      let r := c.cachedRead m ad 8
      (r.1, some (BitVec.ofNat 128 r.2, c.cachedBad m ad 8))

/-- Read and capture a selector through L1D: the chip after the read, the segment register, and the cause of a load of it. -/
def Chip.capture (c : Chip) (a : Nat) (p : Pipe) (x : RunCtx) (lv sel : Nat) : Chip × SegReg × Option Cause :=
  let r := c.descRead a p x sel
  (r.1, captureOf x.world lv sel r.2)

/-! ### Fetch (R204 to R208, fetch forms) -/

/-- The physical address of a fetch at an offset with whether its page is uncached (R230), or its cause. While CRAB is set
fetch reads the region directly (R190), which `fetchTarget` does before. -/
def Chip.fetchCheck (c : Chip) (p : Pipe) (x : RunCtx) (off : Nat) : Except Raised (Nat × Bool) :=
  let s := p.arch.segr 0
  let err (k : Cause) (lin : Option Nat) : Except Raised (Nat × Bool) := .error ⟨k, .a, off, infoWord 0 false true 8, lin⟩
  if !s.valid || !descX s.raw || decide (descLimit s.raw < off + 7) then err .ifseg none
  else
    let lin := (descBase s.raw + off) % 2 ^ 42
    let tr : Except Raised (Nat × Bool) :=
      if !descPg s.raw then .ok (lin % 2 ^ 36, false)
      else if !x.open_ then err .iftlb none
      else match p.tlbFind x.world p.asidEff lin with
        | none => err .iftlb (some lin)
        | some e =>
          if p.arch.level < pteLvl e.pte || !e.pte.getLsbD 3 then err .ifprot (some lin)
          else .ok (e.phys lin, e.pte.getLsbD 13)
    match tr with
    | .error r => .error r
    | .ok (addr, uc) =>
      if (c.inQdr addr || c.inLpd addr) && c.memOwner addr == some x.party then .ok (addr, uc) else err .ifbus none

end Sys2Proof.Machine
end

