-- ==== Sys2Proof/Machine/Operands.lean ====
section
/-! DEFINITION. Register operands of every form and size, effective offsets, contract latencies and occupancies, and what each
operation writes (R64 to R70, R97 to R118, R130 to R158). -/

namespace Sys2Proof.Machine

/-! ### The register files (R70) -/

/-- W register `n`. -/
def Arch.rw (a : Arch) (n : Nat) : Word := tget 0 a.w n

/-- `k` W registers from `n` as one number, lowest first: the X and Y views (R70). -/
def Arch.rws (a : Arch) (n : Nat) : Nat → Nat
  | 0 => 0
  | k + 1 => (a.rw n).toNat + a.rws (n + 1) k <<< 16

/-- W registers a size takes. -/
def Size.words : Size → Nat
  | .word => 1
  | .pair => 2
  | .quad => 4

/-- The value of a W, X or Y register. -/
def Arch.rd (a : Arch) (sz : Size) (r : Nat) : Nat := a.rws (sz.words * r) sz.words

/-- X register `n`. -/
def Arch.rx (a : Arch) (n : Nat) : Nat := a.rd .pair n

/-- V register `n`. -/
def Arch.rv (a : Arch) (n : Nat) : Oct := tget 0 a.v n

/-- Lane `j` of a V register. -/
def vlane (x : Oct) (j : Nat) : Nat := (x.extractLsb' (16 * j) 16).toNat

/-- A V register of eight lane values. -/
def vOfLanes (l : List Nat) : Oct := BitVec.ofNat 128 (ofWords (l.map (BitVec.ofNat 16)))

/-- Lane `j` of accumulator `n`, signed 40 bits (R139). -/
def Arch.racc (a : Arch) (n j : Nat) : BitVec 40 := tget 0 a.a (8 * n + j)

/-- The writes of a result to a W, X or Y register. -/
def wrReg (sz : Size) (r val : Nat) : List LWrite :=
  (List.range sz.words).map (fun i => .w (sz.words * r + i) (wordOf val i))

/-! ### Fields of FL and ST -/

/-- FL.C. -/
def Arch.flC (a : Arch) : Bool := a.fl.getLsbD 0
/-- FL.V. -/
def Arch.flV (a : Arch) : Bool := a.fl.getLsbD 1
/-- FL.N. -/
def Arch.flN (a : Arch) : Bool := a.fl.getLsbD 2
/-- FL.Z. -/
def Arch.flZ (a : Arch) : Bool := a.fl.getLsbD 3

/-- The rounding attribute floating operations use: an MTC to ST acts on those issued two cycles later (R67). -/
def Arch.rm (a : Arch) : Rm := Fin.ofNat 4 (bits (a.acting 0) 7 6)

/-- The flush mode they use. -/
def Arch.fz (a : Arch) : Bool := bitN (a.acting 0) 8

/-- The sticky write of QS. -/
def qsWrite (b : Bool) : List LWrite := if b then [.sticky 0x10] else []

/-- The sticky write of floating flags. -/
def fpWrite (f : FpFlags) : List LWrite := if f.mask = 0 then [] else [.sticky f.mask]

/-! ### What each arithmetic operation writes -/

/-- R-format ALU operations (R97, R100). SEXT and ZEXT read the W register their S1 field names. (DEDUCED, log entry 66) -/
def aluWrites (a : Arch) (o : AluOp) : List LWrite :=
  let w := o.sz.width
  let s1sz := match o.fn with
    | .sext | .zext => Size.word
    | _ => o.sz
  let x := a.rd s1sz o.s1
  let y := a.rd o.sz o.s2
  let r := aluRes o.fn w x y (y % 64) a.flC a.flZ
  (if o.fn == .cmp then [] else wrReg o.sz o.d r.val)
    ++ (if o.sf || o.fn == .cmp then [.flags r.c r.v r.n r.z] else [])
    ++ qsWrite (o.fn.saturates && r.sat)

/-- The ALU function of an immediate form (R98). -/
def ImmFn.alu : ImmFn → AluFn
  | .addi => .add
  | .andi => .and
  | .ori => .or
  | .xori => .xor
  | .shli => .shl
  | .shri => .shr
  | .sari => .sar
  | .cmpi => .cmp

/-- I-format operations (R98, R100). -/
def immWrites (a : Arch) (o : ImmOp) : List LWrite :=
  let w := o.sz.width
  let r := aluRes o.fn.alu w (a.rd o.sz o.s1) (sextTo 12 w o.imm.toNat) (bits o.imm.toNat 5 0) a.flC a.flZ
  if o.fn == .cmpi then [.flags r.c r.v r.n r.z] else wrReg o.sz o.d r.val

/-- MOVI (R99). -/
def moviWrites (o : MoviOp) : List LWrite :=
  match o.kv.val with
  | 0 => wrReg .word o.d o.imm.toNat
  | 1 => wrReg .pair o.d (sextTo 16 32 o.imm.toNat)
  | 2 => wrReg .pair o.d o.imm.toNat
  | _ => wrReg .quad o.d (sextTo 16 64 o.imm.toNat)

/-- The destination size of a multiply (R110). -/
def mulDest (o : MulOp) : Size :=
  match o.fn, o.sz with
  | .mulw, .word | .mulwu, .word => .pair
  | .mulw, _ | .mulwu, _ => .quad
  | _, z => z

/-- Integer multiplies (R110, R134). -/
def mulWrites (a : Arch) (o : MulOp) : List LWrite :=
  wrReg (mulDest o) o.d (mulRes o.fn o.sz.width (a.rd o.sz o.s1) (a.rd o.sz o.s2))

/-- Integer divides and remainders (R110, R135). -/
def divWrites (a : Arch) (o : DivOp) : List LWrite :=
  let r := divRes o.fn o.sz.width (a.rd o.sz o.s1) (a.rd o.sz o.s2)
  wrReg o.sz o.d r.1 ++ qsWrite r.2

/-- The size of a Q multiply (R111). -/
def MulqOp.size (o : MulqOp) : Size := if o.q31 then .pair else .word

/-- Q multiplies (R111, R138). -/
def mulqWrites (a : Arch) (o : MulqOp) : List LWrite :=
  let r := mulqRes o.size.width o.r (a.rd o.size o.s1) (a.rd o.size o.s2)
  wrReg o.size o.d r.1 ++ qsWrite r.2

/-- Floating operations of major 0x08 (R112). -/
def fpWrites (a : Arch) (fn : FpFn) (o : FpOp) : List LWrite :=
  let z := fmtSize o.fmt
  let r := fpRes fn o.fmt a.rm a.fz (a.rd z o.s1) (a.rd z o.s2)
  wrReg (if fpToWord fn then .word else z) o.d r.1 ++ fpWrite r.2

/-- FMA and FMSB (R113). -/
def fmaWrites (a : Arch) (neg : Bool) (o : Fp3Op) : List LWrite :=
  let z := fmtSize o.fmt
  let r := fpFma o.fmt a.rm a.fz neg (a.rd z o.s1) (a.rd z o.s2) (a.rd z o.s3)
  wrReg z o.d r.1 ++ fpWrite r.2

/-- FCVT (R114). -/
def fcvtWrites (a : Arch) (o : FcvtOp) : List LWrite :=
  let r := fcvtRes o.dst o.src a.rm a.fz o.tz (a.rd (cvtSize o.src) o.s1)
  wrReg (cvtSize o.dst) o.d r.1 ++ fpWrite r.2

/-- VMAC: the exact products of the eight lanes, added when they land (R115, R139). -/
def vmacWrites (a : Arch) (o : VmacOp) : List LWrite :=
  let va := a.rv o.va
  let vb := a.rv o.vb
  let prod (j : Nat) : Int :=
    let b := vlane vb (if o.bc then o.lane.val else j)
    let x := sgn 16 (vlane va j) * sgn 16 b
    if o.neg then -x else x
  [.vmac o.ad o.z ((List.range 8).map prod)]

/-- VFMA (R116). -/
def vfmaWrites (a : Arch) (o : VfmaOp) : List LWrite :=
  let va := a.rv o.va
  let vb := a.rv o.vb
  let vc := a.rv o.vc
  let rs := (List.range 8).map (fun j =>
    fpFma .h a.rm a.fz false (vlane va j) (vlane vb (if o.bc then o.lane.val else j)) (vlane vc j))
  [.v o.vd (vOfLanes (rs.map Prod.fst))] ++ fpWrite (rs.foldl (fun f r => f.or r.2) {})

/-- Sweep lane operations (R117, R141). -/
def sweepWrites (a : Arch) (o : SweepOp) : List LWrite :=
  let va := a.rv o.va
  let vb := a.rv o.vb
  let ws := (a.rw o.ws).toNat
  let n := bits ws 4 0
  let lanes (f : Nat → Nat) : List LWrite := [.v o.vd (vOfLanes ((List.range 8).map f))]
  let sat (f : Int → Int → Int) : List LWrite :=
    let rs := (List.range 8).map (fun j => clamp (smin 16) (smax 16) (f (sgn 16 (vlane va j)) (sgn 16 (vlane vb j))))
    [.v o.vd (vOfLanes (rs.map (fun r => wrap 16 r.1)))] ++ qsWrite (rs.any (·.2))
  match o.fn with
  | .vadd => lanes (fun j => (vlane va j + vlane vb j) % 2 ^ 16)
  | .vadds => sat (· + ·)
  | .vsub => lanes (fun j => wrap 16 ((vlane va j : Int) - vlane vb j))
  | .vsubs => sat (· - ·)
  | .vshl => lanes (fun j => (shlRes 16 (vlane va j) n).val)
  | .vsar => lanes (fun j => (sarRes 16 (vlane va j) n).val)
  | .vsel => lanes (fun j => if bitN ws j then vlane va j else vlane vb j)
  | .vbcst => lanes (fun _ => ws)
  | .vins => lanes (fun j => if j = o.lane.val then ws else vlane va j)
  | .vget => wrReg .word o.ws (vlane va o.lane)

/-- VEXT (R118, R140). -/
def vextWrites (a : Arch) (o : VextOp) : List LWrite :=
  let s := o.shift.val
  let lane (j : Nat) : Int × Bool :=
    let x := sgn 40 (a.racc o.as j).toNat
    let y := if o.rnd && s ≠ 0 then (x + 2 ^ (s - 1)) / 2 ^ s else x / 2 ^ s
    if o.sat then clamp (smin 16) (smax 16) y else (y, false)
  let rs := (List.range 8).map lane
  [.v o.vd (vOfLanes (rs.map (fun r => wrap 16 r.1)))] ++ qsWrite (rs.any (·.2))

/-- VAPUT (R118). -/
def vaputWrites (a : Arch) (o : VaputOp) : List LWrite :=
  (List.range 8).map (fun j =>
    .acc o.ad j (BitVec.ofNat 40
      (vlane (a.rv o.va) j + vlane (a.rv o.vb) j * 2 ^ 16 + vlane (a.rv o.vc) j % 2 ^ 8 * 2 ^ 32)))

/-! ### Latencies, occupancies and units (R66, R67) -/

/-- The units whose occupancy is counted; `acc n` is the two cycles in which a VMAC into accumulator n after a VAPUT is a
schedule conflict (R118). -/
inductive ExecUnit where
  | aluA | aluB | mult | fpu | sweep | ls | control | branch | acc (n : Fin 4)
  deriving DecidableEq, Repr

/-- The key of a unit in the occupancy table. -/
def ExecUnit.key : ExecUnit → Nat
  | .aluA => 0
  | .aluB => 1
  | .mult => 2
  | .fpu => 3
  | .sweep => 4
  | .ls => 5
  | .control => 6
  | .branch => 7
  | .acc n => 8 + n

/-- Latency and occupancy of a multiply by its source size (R67, R136). -/
def mulTime : Size → Nat × Nat
  | .word => (3, 2)
  | .pair => (5, 4)
  | .quad => (9, 8)

/-- Latency and occupancy of a divide. -/
def divTime : Size → Nat × Nat
  | .word => (18, 18)
  | _ => (34, 34)

/-- Latency and occupancy of a floating add, subtract, multiply or fused operation. -/
def fmaTime : Fmt → Nat × Nat
  | .d => (8, 4)
  | _ => (4, 1)

/-- Latency and occupancy of an operation of major 0x08. -/
def fpTime (fn : FpFn) (f : Fmt) : Nat × Nat :=
  match fn with
  | .add | .sub | .mul => fmaTime f
  | .frec | .frsq => (3, 1)
  | _ => (2, 1)

/-- The unit an operation issues to (R62, R67). -/
def CoreOp.unit (s : Slot) : CoreOp → Option ExecUnit
  | .nop | .emul _ => none
  | .alu _ | .imm _ | .movi _ => some (if s == .a then .aluA else .aluB)
  | .br _ | .bc _ _ | .bz _ _ | .bnz _ _ | .call _ | .bri _ | .calli _ | .ret => some .branch
  | .load _ | .store _ | .movo _ | .fld _ | .fst _ | .lseg _ _ | .mfs _ _ | .casp _ => some .ls
  | .mul _ | .div _ | .mulq _ => some .mult
  | .fp _ _ | .fma _ _ | .fcvt _ => some .fpu
  | .vmac _ | .vfma _ | .sweep _ | .vext _ | .vaput _ => some .sweep
  | .mfc _ _ | .mtc _ _ | .rep _ | .repi | .syse _ _ | .sysr | .eret | .wend | .tlbw _ | .tlbi _ | .twalk _
  | .cache _ _ | .mbar _ | .pflush _ | .pbar => some .control

/-- How long an operation occupies its unit (R67). -/
def CoreOp.occupancy : CoreOp → Nat
  | .mul o => (mulTime o.sz).2
  | .div o => (divTime o.sz).2
  | .mulq o => (mulTime o.size).2
  | .fp fn o => (fpTime fn o.fmt).2
  | .fma _ o => (fmaTime o.fmt).2
  | .mbar _ => 4
  | _ => 1

/-- Latency of an ALU, immediate or MOVI result by its size. -/
def aluTime : Size → Nat
  | .quad => 2
  | _ => 1

/-- The contract latency of a load, by where its data stands and its size (R67): 3 from tight memory, 4 from an L1D line, and
one more for an oct. R67 gives none for an uncached or register-space load, whose distance R477 counts from its reply: it takes
that of an L1D line. (DESIGN CHOICE, log entry 96) -/
def loadTime (t : Target) (n : Nat) : Nat :=
  (match t with
   | .tight _ => 3
   | _ => 4) + (if n = 8 then 1 else 0)

/-! ### Offsets of memory operations (R104) -/

/-- Words an access size takes. -/
def MSize.words : MSize → Nat
  | .word => 1
  | .pair => 2
  | .quad => 4
  | .oct => 8

/-- The base of an LM operation. -/
def lmBase (a : Arch) (o : LmOp) : Nat := if o.bx then a.rx o.base else (a.rw o.base).toNat

/-- The word offset of an LM access. -/
def lmOffset (a : Arch) (o : LmOp) : Nat :=
  if o.u then lmBase a o else (lmBase a o + sextTo 9 32 o.disp.toNat) % 2 ^ 32

/-- The base update of U = 1, latency 1. -/
def lmUpdate (a : Arch) (o : LmOp) : List LWrite :=
  if o.u then wrReg (if o.bx then .pair else .word) o.base (lmBase a o + sextTo 9 32 o.disp.toNat) else []

/-- The writes of loaded data to T. -/
def lmTarget (o : LmOp) (x : Nat) : List LWrite :=
  match o.sz with
  | .word => wrReg .word o.t x
  | .pair => wrReg .pair o.t x
  | .quad => wrReg .quad o.t x
  | .oct => [.v o.t (BitVec.ofNat 128 x)]

/-- The data a store takes from T at issue. -/
def lmSource (a : Arch) (o : LmOp) : Nat :=
  match o.sz with
  | .word => a.rd .word o.t
  | .pair => a.rd .pair o.t
  | .quad => a.rd .quad o.t
  | .oct => (a.rv o.t).toNat

end Sys2Proof.Machine
end

