-- ==== Sys2Proof/Machine/Observe.lean ====
section
/-! DEFINITION. The trace encoders: packets and frames of a core (chapter "Trace and Performance Counters", R404 to R413). -/

namespace Sys2Proof.Machine

/-! ### Trace encoders (R404 to R413) -/

/-- An encoder register of an architectural core, held beside the page that shows the selected core (TRSEL). -/
def trcKey (core off : Nat) : Nat := regKey (0x800 + core) off

/-- TRCCTL resets to BR and DATA set, everything else to 0. -/
def Chip.trcReg (c : Chip) (core off : Nat) : Nat := tget (if off = 0x040 then 6 else 0) c.regs (trcKey core off)

/-- Whether the encoder of a core is enabled and trace runs (R404, R414). -/
def Chip.encOn (c : Chip) (core : Nat) : Bool :=
  (c.trace.st == .run || c.trace.st == .wake) && bitN (c.trcReg core 0x040) 0 && !c.swingHigh core

/-- Whether it records in a window of a party now (R404). -/
def Chip.traced (c : Chip) (core party : Nat) : Bool :=
  c.encOn core && bitN (c.trcReg core 0x042 + c.trcReg core 0x044 * 2 ^ 32) party

/-- The pipeline of a core with the window it runs, if its party is traced. -/
def Chip.tracedWin (c : Chip) (core : Nat) : Option (Pipe × RunCtx) :=
  (c.pipeOf core).bind (fun pi => ((c.pipe pi).ctx.filter (fun x => c.traced core x.party)).map (fun x => (c.pipe pi, x)))

/-- TB as the replica of a core shows it in the current cycle of its window: the instant the window's code begins and the
cycles since, stalls included, at the nominal rate of TB (R23, R369, R410). (DESIGN CHOICE, log entry 19) -/
def Chip.stamp (c : Chip) (p : Pipe) (x : RunCtx) : Nat := c.granuleAt x.codeAt + 5 * (p.cycle + p.stalled) / 4

/-- The encoder of a core. -/
def Chip.enc (c : Chip) (core : Nat) : Enc := tget {} c.trace.encs core

/-- The chip with it replaced. -/
def Chip.setEnc (c : Chip) (core : Nat) (e : Enc) : Chip :=
  { c with trace := { c.trace with encs := tset {} c.trace.encs core e } }

/-- A frame of an encoder (R412). -/
def encFrame (core : Nat) (ws : List Word) : Oct :=
  BitVec.ofNat 128 (core + ws.length * 2 ^ 7 + ofWords ws * 2 ^ 16)

/-- Whole frames cut from the words of a stream. -/
def cutFrames (core : Nat) : Nat → List Word → List Oct × List Word
  | 0, ws => ([], ws)
  | n + 1, ws =>
    if ws.length < 7 then ([], ws)
    else
      let r := cutFrames core n (ws.drop 7)
      (encFrame core (ws.take 7) :: r.1, r.2)

/-- Put a packet into an encoder, or drop it whole and count it when its 32 frames are full (R412, R413). -/
def Enc.put (e : Enc) (core : Nat) (pkt : List Word) : Enc :=
  let (fs, ws) := cutFrames core 4 (e.words ++ pkt)
  if 32 < e.frames.length + fs.length || e.frames.length = 32 || 0 < e.lost then { e with lost := Nat.min 0xFFF (e.lost + 1) }
  else { e with words := ws, frames := e.frames ++ fs, pkts := e.pkts + 1 }

/-- Send the words not yet in a frame as a partial frame, if one of the 32 frames is free for it (R412). -/
def Enc.flush (e : Enc) (core : Nat) : Enc :=
  if e.words.isEmpty || decide (32 ≤ e.frames.length) then e else { e with words := [], frames := e.frames ++ [encFrame core e.words] }

/-- Emit the branch outcomes collected (R407). -/
def Enc.atom (e : Enc) (core : Nat) : Enc :=
  if e.atoms.isEmpty then e
  else
    let n := e.atoms.length
    let v := (List.range n).foldl (fun v i => v + b2n (e.atoms.getD i false) * 2 ^ i) 0
    ({ e with atoms := [] }).put core [BitVec.ofNat 16 (2 + n * 16 + v * 256)]

/-- A quad of TB as words. -/
def tbWords (now n : Nat) : List Word := toWords n now

/-- The SYNC packet of a traced window's context (R407). Outside one the spec gives its fields no value: it names no context,
and they are 0. (DESIGN CHOICE, log entry 19) -/
def syncWords (w : Option (Pipe × RunCtx)) (reason now : Nat) : List Word :=
  (match w with
   | some (p, x) =>
     [BitVec.ofNat 16 (1 + b2n (!x.open_) * 16 + p.arch.level * 32 + b2n x.world * 128 + reason * 256),
      BitVec.ofNat 16 (x.ctx + x.party * 256)] ++ toWords 2 p.arch.pc.toNat
   | none => [BitVec.ofNat 16 (1 + reason * 256), 0, 0, 0]) ++ tbWords now 4

/-- Emit a SYNC: it resets every stream's previous address (R409), and stamps the exit that a PWR announced (R411). -/
def Enc.sync (e : Enc) (core : Nat) (w : Option (Pipe × RunCtx)) (reason now : Nat) : Enc :=
  let e := (e.atom core).put core (syncWords w reason now)
  { e with prev := [], pkts := 0, tsAt := now, pwr := 0 }

/-- What follows each packet: a TS at the first packet boundary after TSINT µs, with the frame sent after it, and a SYNC every
2^SYNCLOG packets (R409, R410, R412). -/
def Chip.encAfter (c : Chip) (core : Nat) (p : Pipe) (x : RunCtx) (e : Enc) : Enc :=
  let ts := c.live 0x0F4 0x022
  let int := bits ts 15 0
  let now := c.stamp p x
  let e := if int ≠ 0 ∧ e.tsAt + int * 1000 ≤ now then
      { (e.put core (5#16 :: tbWords now 4)).flush core with tsAt := now }
    else e
  if 2 ^ (Nat.max 4 (bits ts 19 16)) ≤ e.pkts then e.sync core (some (p, x)) 1 now else e

/-- Emit a packet for a core whose pipeline runs a traced window. -/
def Chip.emit (c : Chip) (core : Nat) (p : Pipe) (x : RunCtx) (pkt : List Word) : Chip :=
  if c.traced core x.party then c.setEnc core (c.encAfter core p x (((c.enc core).atom core).put core pkt)) else c

/-- Record a conditional branch (R404); a full ATOM is a packet like any other. -/
def Chip.emitBranch (c : Chip) (core : Nat) (p : Pipe) (x : RunCtx) (taken : Bool) : Chip :=
  if c.traced core x.party && bitN (c.trcReg core 0x040) 1 then
    let e := c.enc core
    let e := { e with atoms := e.atoms ++ [taken] }
    c.setEnc core (if e.atoms.length = 8 then c.encAfter core p x (e.atom core) else e)
  else c

/-- Record a target (R407). -/
def Chip.emitTarget (c : Chip) (core : Nat) (p : Pipe) (x : RunCtx) (kind code target : Nat) : Chip :=
  if bitN (c.trcReg core 0x040) 1 then
    c.emit core p x (BitVec.ofNat 16 (3 + kind * 16 + code * 256) :: toWords 2 target)
  else c

/-- Record that a core is feathered or halted, and send the partial frame (R411). -/
def Chip.emitPwr (c : Chip) (core : Nat) (p : Pipe) (x : RunCtx) (st : Nat) : Chip :=
  let c := c.emit core p x (BitVec.ofNat 16 (7 + st * 16) :: tbWords (c.stamp p x) 2)
  if c.traced core x.party then c.setEnc core { (c.enc core).flush core with pwr := st } else c

/-- Record, outside a window, that a core is gated with its eight or in holdover, and send the partial frame (R411). -/
def Chip.emitGated (c : Chip) (core st : Nat) : Chip :=
  if !c.encOn core then c
  else
    let e := ((c.enc core).atom core).put core (BitVec.ofNat 16 (7 + st * 16) :: tbWords c.now 2)
    c.setEnc core { e.flush core with pwr := st }

/-- Emit a SYNC for a window of a traced party. -/
def Chip.emitSync (c : Chip) (core : Nat) (p : Pipe) (x : RunCtx) (reason : Nat) : Chip :=
  if c.traced core x.party then c.setEnc core ((c.enc core).sync core (some (p, x)) reason (c.stamp p x)) else c

/-- The SYNC of an encoder wherever its core stands: of the traced window it runs, or of none (R409, R413, R414). -/
def Chip.syncOf (c : Chip) (core : Nat) (e : Enc) (reason : Nat) : Enc :=
  match c.tracedWin core with
  | some (p, x) => e.sync core (some (p, x)) reason (c.stamp p x)
  | none => e.sync core none reason c.now

/-- It is emitted by an enabled encoder. -/
def Chip.emitSyncAny (c : Chip) (core reason : Nat) : Chip :=
  if c.encOn core then c.setEnc core (c.syncOf core (c.enc core) reason) else c

/-- The lowest address range of a core that matches an access (R405). -/
def Chip.trRange (c : Chip) (core addr : Nat) (wr : Bool) : Option Nat :=
  (List.range 8).find? (fun k =>
    let x := c.trcReg core (0x054 + 6 * k)
    let base := c.trcReg core (0x050 + 6 * k) + bits x 3 0 * 2 ^ 32
    let lim := c.trcReg core (0x052 + 6 * k) + bits x 7 4 * 2 ^ 32
    bitN x 11 && bitN x (if wr then 9 else 8) && base ≤ addr && addr ≤ lim)

/-- The range of an access that is recorded, if any: DATA is enabled and the window is traced. -/
def Chip.trMatch (c : Chip) (core party addr : Nat) (wr : Bool) : Option Nat :=
  if c.traced core party && bitN (c.trcReg core 0x040) 2 then c.trRange core addr wr else none

/-- The DATA header of R408 without FORM: WR, SIZE, FAR, RANGE, NOVAL. -/
def dataHdr (rng size : Nat) (wr far noval : Bool) : Nat :=
  4 + b2n wr * 16 + size * 32 + b2n far * 128 + rng * 1024 + b2n noval * 8192

/-- Emit a DATA packet with the shortest address form (R408). A difference that does not fit 32 bits goes in FORM 1 as its low
32 bits, since FORM 2 is for the first packet after a SYNC. (DESIGN CHOICE, log entry 19) -/
def Chip.emitData (c : Chip) (core : Nat) (p : Pipe) (x : RunCtx) (rng addr size : Nat) (wr far noval : Bool)
    (val : Oct) : Chip :=
  if !c.traced core x.party then c
  else
    let e := (c.enc core).atom core
    let prev := tget 0 e.prev rng
    let d : Int := (addr : Int) - ((prev : Int) - 1)
    let hdr := dataHdr rng size wr far noval
    let aw : Nat × List Word :=
      if prev = 0 then (2, toWords 3 addr)
      else if -2 ^ 15 ≤ d ∧ d < 2 ^ 15 then (0, [BitVec.ofNat 16 (wrap 16 d)])
      else (1, toWords 2 (wrap 32 d))
    let vw := if noval then [] else toWords (2 ^ size) val.toNat
    let e := { e.put core (BitVec.ofNat 16 (hdr + aw.1 * 256) :: (aw.2 ++ vw)) with prev := tset 0 e.prev rng (addr + 1) }
    c.setEnc core (c.encAfter core p x e)

/-- Whether an access through a range with TRIG on the core TRTRIG names is trigger source 1 (R414). -/
def Chip.trTrig (c : Chip) (core rng : Nat) : Chip :=
  if bitN (c.trcReg core (0x054 + 6 * rng)) 10 && c.fld 0x0F4 0x026 8 3 == core then c.trigger 1 else c

/-- Size code of an access of `n` words. -/
def sizeCode (n : Nat) : Nat := if n = 1 then 0 else if n = 2 then 1 else if n = 4 then 2 else 3

/-! ### Multiplier energy events (R136, R418) -/

/-- Significant bytes of an operand (R136). -/
def sigBytes (w x : Nat) (signed : Bool) : Nat :=
  ((List.range (w / 8)).find? (fun i =>
    if signed then sextTo (8 * (i + 1)) w x == x else x / 2 ^ (8 * (i + 1)) == 0)).map (· + 1) |>.getD (w / 8)

/-- Steps a multiply switches, of `w / 8`. -/
def mulSteps (w x y : Nat) (signed : Bool) : Nat := Nat.min (sigBytes w x signed) (sigBytes w y signed)

/-- Iterations a divide switches: from the highest set bit of |S1| down to the one that makes the partial remainder 0. -/
def divIters (num den : Nat) : Nat → Nat
  | 0 => 0
  | n + 1 => if num = 0 then 0 else 1 + divIters (if den * 2 ^ n ≤ num then num - den * 2 ^ n else num) den n

/-- Iterations a divide of magnitudes switches. -/
def divSteps (num den : Nat) : Nat := if num = 0 then 0 else divIters num den (Nat.log2 num + 1)

end Sys2Proof.Machine
end

