-- ==== Sys2Proof/Machine/Predict.lean ====
section
/-! DEFINITION. The predictor, its updates and flushes, and fetch-ahead (chapter "Branch Prediction and the Wrong Path", R164
to R176). -/

namespace Sys2Proof.Machine

/-! ### Indices, lookup and update (R165 to R169) -/

/-- The context tag (R165). -/
def predTag (world : Bool) (level ctx : Nat) : BitVec 11 := BitVec.ofNat 11 (b2n world * 1024 + level * 256 + ctx)

/-- The tag of the running context. -/
def Pipe.tag (p : Pipe) (x : RunCtx) : BitVec 11 := predTag x.world p.arch.level x.ctx

/-- BTB set of a branch (R166). -/
def btbSet (key : Quad) (pc : Nat) : Nat := bits (pc / 8) 7 0 ^^^ bits (pc / 8) 15 8 ^^^ bits key.toNat 7 0

/-- Partial tag of a branch (R166). -/
def btbPtag (key : Quad) (pc : Nat) : BitVec 14 := BitVec.ofNat 14 (bits (pc / 8) 21 8 ^^^ bits key.toNat 21 8)

/-- Direction index of a branch (R166). -/
def dirIdx (key : Quad) (hist : BitVec 12) (pc : Nat) : Nat :=
  bits (pc / 8) 11 0 ^^^ hist.toNat ^^^ bits key.toNat 33 22

/-- A target as the BTB stores it, and back (R166). -/
def scramble (key : Quad) (t : Pair) : Pair := t ^^^ BitVec.ofNat 32 (bits key.toNat 63 32)

/-- Key of a BTB slot. -/
def btbKey (set_ way : Nat) : Nat := set_ * 4 + way

/-- The BTB slot that serves a branch. -/
def Predictor.find (r : Predictor) (tag : BitVec 11) (pc : Nat) : Option Nat :=
  ((List.range 4).map (btbKey (btbSet r.key pc))).find? (fun k =>
    let e := tget {} r.btb k
    e.valid && e.tag == tag && e.ptag == btbPtag r.key pc)

/-- Put a branch into the BTB: its own slot, an invalid one, or the least recently used (R164, R167). -/
def Predictor.alloc (r : Predictor) (tag : BitVec 11) (pc : Nat) (kind : BrKind) (t : Pair) : Predictor :=
  let ks := (List.range 4).map (btbKey (btbSet r.key pc))
  let k := (r.find tag pc).getD ((ks.find? (fun k => !(tget {} r.btb k).valid)).getD
    (ks.foldl (fun b k => if (tget {} r.btb k).use < (tget {} r.btb b).use then k else b) (ks.headD 0)))
  { r with tick := r.tick + 1
           btb := tset {} r.btb k ⟨true, tag, btbPtag r.key pc, kind, scramble r.key t, r.tick + 1⟩ }

/-- Make one update of R167, under the tag of its branch. The counter that moves is the one the history register names when the
update is made; the spec does not say whether it is that or the one of the lookup. (DESIGN CHOICE, log entry 75) -/
def Predictor.apply (r : Predictor) (u : PredUpd) : Predictor :=
  let pc := u.pc.toNat
  let tag := u.tag
  let r := match u.kind with
    | none => r
    | some .conditional =>
      let i := dirIdx r.key r.hist pc
      let n := (tget 1 r.dir i).toNat
      let n' := if u.taken then Nat.min 3 (n + 1) else n - 1
      let r := { r with dir := tset 1 r.dir i (BitVec.ofNat 2 n')
                        hist := BitVec.ofNat 12 (r.hist.toNat * 2 + b2n u.taken) }
      if u.taken then r.alloc tag pc .conditional u.target
      else match r.find tag pc with
        | none => r
        | some k => { r with tick := r.tick + 1, btb := tset {} r.btb k { (tget {} r.btb k : BtbEntry) with use := r.tick + 1 } }
    | some k => r.alloc tag pc k u.target
  let r := match u.push with
    | none => r
    | some l => { r with rs := (l :: r.rs).take 8 }
  if u.pop then { r with rs := r.rs.drop 1 } else r

/-- Make the updates whose cycle has come: those of branches issued three cycles before `cycle` or earlier (R167). -/
def Predictor.applyDue (r : Predictor) (cycle : Nat) : Predictor :=
  let r' := (r.upd.filter (fun u => u.at_ ≤ cycle)).foldl Predictor.apply r
  { r' with upd := r.upd.filter (fun u => !decide (u.at_ ≤ cycle)) }

/-- Make every update (R173). -/
def Predictor.applyAll (r : Predictor) : Predictor := { r.upd.foldl Predictor.apply r with upd := [] }

/-- Invalidate the BTB entries a test selects. -/
def Predictor.dropBtb (r : Predictor) (f : BtbEntry → Bool) : Predictor :=
  { r with btb := r.btb.filter (fun e => !f e.2) }

/-- PFLUSH in a cycle: SCOPE 0 the running context, SCOPE 1 the current world. An update that lands by the end of the cycle is
made before; later ones are discarded (R172). -/
def Predictor.flush (r : Predictor) (cycle : Nat) (world : Bool) (ctx : Nat) (all : Bool) : Predictor :=
  let r := (r.applyDue cycle).dropBtb (fun e =>
    e.tag.getLsbD 10 == world && (all || bits e.tag.toNat 7 0 == ctx))
  { r with hist := 0, rs := [], upd := [], dir := if all then [] else r.dir }

/-- Invalidate the BTB and the direction table (R170, R171). -/
def Predictor.invalidate (r : Predictor) : Predictor := { r with btb := [], dir := [], upd := [] }

/-- Whether prediction runs for a context (R168). -/
def RunCtx.predOn (x : RunCtx) : Bool := x.open_ && x.pred

/-- PCTL as it acts (R169). -/
def Pipe.pctl (p : Pipe) : Nat := p.arch.acting 0x62

/-- Whether an indirect branch or return counts as predicted (R169). -/
def Pipe.predicted (p : Pipe) (x : RunCtx) (pc : Nat) (ret : Bool) (target : Pair) : Bool :=
  x.predOn &&
  (if ret then bitN p.pctl 2 && p.pred.rs.head? == some target
   else bitN p.pctl 1 && (match p.pred.find (p.tag x) pc with
     | none => false
     | some k => scramble p.pred.key (tget {} p.pred.btb k).stored == target))

/-! ### Fetch-ahead (R174 to R176) -/

/-- Where the path the predictor chooses goes after the bundle at `off` with a branch pending or not: the bundle after it, and
the branch then pending. A RET has no BTB entry and bundles in the buffer are not decoded, so past one the path goes on
sequentially, whatever the return stack holds. (DESIGN CHOICE, log entry 96) -/
def Pipe.pathNext (p : Pipe) (x : RunCtx) (off : Nat) (br : Option Branch) : Nat × Option Branch :=
  match br with
  | some b => if b.left ≤ 1 then (b.target.toNat, none) else ((off + 8) % 2 ^ 32, some { b with left := b.left - 1 })
  | none =>
    let seq := ((off + 8) % 2 ^ 32, none)
    if !x.predOn || !bitN p.pctl 1 then seq
    else match p.pred.find (p.tag x) off with
      | none => seq
      | some k =>
        let e := tget {} p.pred.btb k
        let t := scramble p.pred.key e.stored
        let taken := match e.kind with
          | .conditional => bitN p.pctl 0 && decide (2 ≤ (tget 1 p.pred.dir (dirIdx p.pred.key p.pred.hist off)).toNat)
          | _ => true
        if taken then ((off + 8) % 2 ^ 32, some ⟨t, 2, 0⟩) else seq

/-- The line of its code that an offset lies in, by linear addresses: the base of the code segment is a multiple of 8 words, a
line of 32 (R200, R231). -/
def Pipe.codeLine (p : Pipe) (off : Nat) : Nat := (descBase (p.arch.segr 0).raw + off) / 32

/-- Follow the path until it leaves the line that holds `off`. -/
def Pipe.leaveLine (p : Pipe) (x : RunCtx) (line : Nat) : Nat → Nat → Option Branch → Nat × Option Branch
  | 0, off, br => (off, br)
  | n + 1, off, br =>
    if p.codeLine off ≠ line then (off, br)
    else
      let r := p.pathNext x off br
      p.leaveLine x line n r.1 r.2

/-- Whether a line reads without an uncorrectable error. -/
def Line.sound (l : Line) : Bool := l.bad == 0 && !l.tagBad

/-- Find a line in L1I, else in the party's L2 ways, touching nothing (R175): its data and whether it is in L2. A line that
reads uncorrectable counts as found in neither. -/
def Chip.peekLine (c : Chip) (m : MCtx) (line : Nat) : Option (LineData × Bool) :=
  match c.l1Find m true line with
  | some w =>
    let l := (c.l1 m.core true).slot w (line % 128)
    if l.sound then some (l.data, false) else none
  | none =>
    match (c.l2 m.core).find m.l2 1024 line with
    | some w =>
      let l := (c.l2 m.core).slot w (line % 1024)
      if l.sound then some (l.data, true) else none
    | none => none

/-- The bundles of one line that the path passes from `off` on, in path order. -/
def Pipe.linePath (p : Pipe) (x : RunCtx) (line : Nat) : Nat → Nat → Option Branch → List Nat
  | 0, _, _ => []
  | n + 1, off, br =>
    if p.codeLine off ≠ line then []
    else
      let r := p.pathNext x off br
      off :: p.linePath x line n r.1 r.2

/-- Whether the buffer holds the line of an offset. -/
def Pipe.inFab (p : Pipe) (off : Nat) : Bool := p.fab.any (fun l => l.code == p.codeLine off)

/-- The lines fetch-ahead has yet to hand to issue: those its path passes, and that of the bundle that issues next. -/
def Pipe.fabNeeds (p : Pipe) (l : FetchLine) : Bool :=
  l.code == p.codeLine p.arch.pc.toNat || p.fapath.any (fun o => p.codeLine o == l.code)

/-- Room for a line in the buffer of 4: the oldest line off the path gives way; none where all are on it. (DESIGN CHOICE, log
entry 77) -/
def Pipe.fabRoom (p : Pipe) : Option (List FetchLine) :=
  if p.fab.length < 4 then some p.fab
  else match p.fab.find? (fun l => !p.fabNeeds l) with
    | some l => some (p.fab.filter (fun k => k.code != l.code))
    | none => none

/-- Where fetch-ahead reads next: on from where it stands, or from the bundle that issues next. -/
def Pipe.faStart (p : Pipe) : Nat × Option Branch :=
  match p.fapc with
  | some o => (o.toNat, p.faBr)
  | none => (p.arch.pc.toNat, p.arch.br)

/-- The path passes the rest of a line whose data the buffer or L1I holds. -/
def Pipe.faPass (p : Pipe) (x : RunCtx) : Pipe :=
  let s := p.faStart
  let nx := p.leaveLine x (p.codeLine s.1) 16 s.1 s.2
  { p with fapath := p.fapath ++ p.linePath x (p.codeLine s.1) 16 s.1 s.2, fapc := some (BitVec.ofNat 32 nx.1), faBr := nx.2 }

/-- Pass the lines that the buffer holds already. -/
def Pipe.faSkip (p : Pipe) (x : RunCtx) : Nat → Pipe
  | 0 => p
  | n + 1 => if p.inFab p.faStart.1 then (p.faPass x).faSkip x n else p

/-- Fetch-ahead of one line (R175): in an open window until its closing instant, along the predicted or sequential path, from
L1I or the party's L2 ways. At a line found in neither, and at whatever a fetch would raise a cause for, it stops until issue
reaches that line. -/
def Chip.fetchAhead (c : Chip) (a pi : Nat) : Chip :=
  let p := c.pipe pi
  match p.ctx with
  | none => c
  | some x =>
    if !x.open_ || p.closing || p.run != .run || p.arch.crab || p.faStop then c
    else
      let p := p.faSkip x 4
      let s := p.faStart
      match p.fabRoom with
      | none => c
      | some fab =>
        let found := match c.fetchCheck p x (s.1 / 8 * 8) with
          | .ok (addr, false) => (c.peekLine (c.mctx a x) (addr / 32)).map (fun l => (addr / 32, l))
          | _ => none
        match found with
        | none => c.setPipe pi { p with fapc := some (BitVec.ofNat 32 s.1), faBr := s.2, faStop := true }
        | some (line, d, l2) => c.setPipe pi { p.faPass x with fab := fab ++ [⟨p.codeLine s.1, line, d, l2⟩] }

/-- Discard the fetch-ahead buffer (R173, R175, R223). (DEDUCED, log entry 70) -/
def Pipe.dropFab (p : Pipe) : Pipe := { p with fab := [], fapath := [], fapc := none, faBr := none, faStop := false }

/-- A bundle issues: fetch-ahead is beyond it from then on, and a line whose last bundle on the path has issued leaves the
buffer; a fetch-ahead that has stopped goes on once issue has reached its line. Where issue has gone another way than the path
read, by an entry, a return or a system call, the buffer is discarded and fetch-ahead begins anew; no branch left those lines,
so they are not counted (R175, R176). (DESIGN CHOICE, log entry 77) -/
def Pipe.faIssue (p : Pipe) (off : Nat) : Pipe :=
  match p.fapath.dropWhile (· != off) with
  | [] => if p.faStop && p.codeLine p.faStart.1 == p.codeLine off then
    { p with fapath := [], fapc := none, faBr := none, faStop := false }
    else p.dropFab
  | _ :: rest =>
    { p with
      fapath := rest
      fab := p.fab.filter (fun l => rest.any (fun o => p.codeLine o == l.code)
        || !p.fapath.any (fun o => p.codeLine o == l.code)) }

/-- The first lines the path passes from an offset. -/
def Pipe.pathLines (p : Pipe) (x : RunCtx) : Nat → Nat → Option Branch → List Nat
  | 0, _, _ => []
  | n + 1, off, br =>
    let nx := p.leaveLine x (p.codeLine off) 16 off br
    p.codeLine off :: p.pathLines x n nx.1 nx.2

/-- A branch at `pc` resolves to go to `next` after its delay slots (R176). Where fetch-ahead has not read so far it goes on to
`next`; where it has read another path, the lines off the path the branch takes are discarded, and counted as wrong-path lines,
and it goes on from `next`. `fapath` starts at the first delay slot; with no place to read on from, the buffer is empty. -/
def Chip.fabBranch (c : Chip) (pi : Nat) (x : RunCtx) (pc next : Nat) : Chip :=
  let p := c.pipe pi
  let to_ : Option Pair := some (BitVec.ofNat 32 next)
  if !x.open_ || p.fapc.isNone then c
  else match p.fapath with
  | [] => c.setPipe pi (if p.fapc = some (BitVec.ofNat 32 (pc + 8)) then { p with faBr := some ⟨BitVec.ofNat 32 next, 2, 0⟩ }
      else p.dropFab)
  | [_] => c.setPipe pi { p with faBr := some ⟨BitVec.ofNat 32 next, 1, 0⟩ }
  | [_, _] => c.setPipe pi { p with fapc := to_, faBr := none, faStop := p.faStop && p.fapc == to_ }
  | d1 :: d2 :: k :: _ =>
    if k = next then c
    else
      let keep := [p.codeLine d1, p.codeLine d2, p.codeLine pc] ++ p.pathLines x 4 next none
      let wrong := p.fab.filter (fun l => !keep.contains l.code)
      let c := c.count pi 0x16 (wrong.filter (fun l => !l.l2)).length
      let c := c.count pi 0x17 (wrong.filter (·.l2)).length
      let p := c.pipe pi
      c.setPipe pi { p with
        fab := p.fab.filter (fun l => keep.contains l.code), fapath := [d1, d2], fapc := to_, faBr := none, faStop := false }

end Sys2Proof.Machine
end

