-- ==== Sys2Proof/Machine/Crypto.lean ====
section
/-! DEFINITION. SHA-384 and the check of an ECDSA P-384 signature, as the rules that name them use them (R41, R358, R476). The
functions themselves are those of FIPS 180-4 and FIPS 186, which the spec names. -/

namespace Sys2Proof.Machine

/-! ### SHA-384 -/

/-- The round constants, four to a number with the first in the highest 64 bits. -/
def shaFour : Nat → Nat
  | 0 => 0x428a2f98d728ae227137449123ef65cdb5c0fbcfec4d3b2fe9b5dba58189dbbc
  | 1 => 0x3956c25bf348b53859f111f1b605d019923f82a4af194f9bab1c5ed5da6d8118
  | 2 => 0xd807aa98a303024212835b0145706fbe243185be4ee4b28c550c7dc3d5ffb4e2
  | 3 => 0x72be5d74f27b896f80deb1fe3b1696b19bdc06a725c71235c19bf174cf692694
  | 4 => 0xe49b69c19ef14ad2efbe4786384f25e30fc19dc68b8cd5b5240ca1cc77ac9c65
  | 5 => 0x2de92c6f592b02754a7484aa6ea6e4835cb0a9dcbd41fbd476f988da831153b5
  | 6 => 0x983e5152ee66dfaba831c66d2db43210b00327c898fb213fbf597fc7beef0ee4
  | 7 => 0xc6e00bf33da88fc2d5a79147930aa72506ca6351e003826f142929670a0e6e70
  | 8 => 0x27b70a8546d22ffc2e1b21385c26c9264d2c6dfc5ac42aed53380d139d95b3df
  | 9 => 0x650a73548baf63de766a0abb3c77b2a881c2c92e47edaee692722c851482353b
  | 10 => 0xa2bfe8a14cf10364a81a664bbc423001c24b8b70d0f89791c76c51a30654be30
  | 11 => 0xd192e819d6ef5218d69906245565a910f40e35855771202a106aa07032bbd1b8
  | 12 => 0x19a4c116b8d2d0c81e376c085141ab532748774cdf8eeb9934b0bcb5e19b48a8
  | 13 => 0x391c0cb3c5c95a634ed8aa4ae3418acb5b9cca4f7763e373682e6ff3d6b2b8a3
  | 14 => 0x748f82ee5defb2fc78a5636f43172f6084c87814a1f0ab728cc702081a6439ec
  | 15 => 0x90befffa23631e28a4506cebde82bde9bef9a3f7b2c67915c67178f2e372532b
  | 16 => 0xca273eceea26619cd186b8c721c0c207eada7dd6cde0eb1ef57d4f7fee6ed178
  | 17 => 0x06f067aa72176fba0a637dc5a2c898a6113f9804bef90dae1b710b35131c471b
  | 18 => 0x28db77f523047d8432caab7b40c724933c9ebe0a15c9bebc431d67c49c100d4c
  | 19 => 0x4cc5d4becb3e42b6597f299cfc657e2a5fcb6fab3ad6faec6c44198c4a475817
  | _ => 0

/-- The 64-bit field of a number of `n` fields, counted from the highest. -/
def wordAt (n x i : Nat) : Nat := x / 2 ^ (64 * (n - 1 - i)) % 2 ^ 64

/-- The constant of a round. -/
def shaK (i : Nat) : Nat := wordAt 4 (shaFour (i / 4)) (i % 4)

/-- The initial hash value of SHA-384. -/
def shaIv : List Nat :=
  (List.range 8).map (wordAt 8 (2 ^ 256 * 0xcbbb9d5dc1059ed8629a292a367cd5079159015a3070dd17152fecd8f70e5939
    + 0x67332667ffc00b318eb44a8768581511db0c2e0d64f98fa747b5481dbefa4fa4))

/-- Rotate a 64-bit number right. -/
def ror64 (x n : Nat) : Nat := (x >>> n) ||| ((x <<< (64 - n)) % 2 ^ 64)

/-- The eight working variables of a round. -/
structure ShaVar where
  a : Nat
  b : Nat
  c : Nat
  d : Nat
  e : Nat
  f : Nat
  g : Nat
  h : Nat
  deriving DecidableEq, Repr

/-- One round with schedule word `w` and constant `k`. -/
def ShaVar.round (v : ShaVar) (w k : Nat) : ShaVar :=
  let s1 := (ror64 v.e 14).xor ((ror64 v.e 18).xor (ror64 v.e 41))
  let ch := (v.e &&& v.f).xor ((2 ^ 64 - 1 - v.e) &&& v.g)
  let t1 := v.h + s1 + ch + k + w
  let s0 := (ror64 v.a 28).xor ((ror64 v.a 34).xor (ror64 v.a 39))
  let mj := (v.a &&& v.b).xor ((v.a &&& v.c).xor (v.b &&& v.c))
  ⟨(t1 + s0 + mj) % 2 ^ 64, v.a, v.b, v.c, (v.d + t1) % 2 ^ 64, v.e, v.f, v.g⟩

/-- The next word of the message schedule from the last sixteen, oldest first. -/
def shaNext (l : List Nat) : Nat :=
  let x := l.getD 14 0
  let y := l.getD 1 0
  let s1 := (ror64 x 19).xor ((ror64 x 61).xor (x >>> 6))
  let s0 := (ror64 y 1).xor ((ror64 y 8).xor (y >>> 7))
  (s1 + l.getD 9 0 + s0 + l.getD 0 0) % 2 ^ 64

/-- The rounds of a block from round `80 - n` on, the list holding the next sixteen schedule words. -/
def shaRounds : Nat → List Nat → ShaVar → ShaVar
  | 0, _, v => v
  | n + 1, l, v => shaRounds n (l.drop 1 ++ [shaNext l]) (v.round (l.headD 0) (shaK (79 - n)))

/-- The eight variables as a list. -/
def ShaVar.toList (v : ShaVar) : List Nat := [v.a, v.b, v.c, v.d, v.e, v.f, v.g, v.h]

/-- One block of sixteen 64-bit words added to the hash value. -/
def shaBlock (hv blk : List Nat) : List Nat :=
  let g (i : Nat) : Nat := hv.getD i 0
  let v := shaRounds 80 blk ⟨g 0, g 1, g 2, g 3, g 4, g 5, g 6, g 7⟩
  (List.range 8).map (fun i => (g i + v.toList.getD i 0) % 2 ^ 64)

/-- The 64-bit words, most significant byte first, of a list of bytes. -/
def shaWords : Nat → List Nat → List Nat
  | 0, _ => []
  | n + 1, bs => (bs.take 8).foldl (fun x b => x * 256 + b) 0 :: shaWords n (bs.drop 8)

/-- The blocks of a list of words. -/
def shaBlocks : Nat → List Nat → List Nat → List Nat
  | 0, _, hv => hv
  | n + 1, ws, hv => shaBlocks n (ws.drop 16) (shaBlock hv (ws.take 16))

/-- SHA-384 of a list of bytes, as the number its 48 bytes spell, most significant first. (PRESUMED, log entry 67) -/
def sha384Bytes (bs : List Nat) : Nat :=
  let n := bs.length
  let nb := (n + 17 + 127) / 128
  let pad := bs ++ [0x80] ++ List.replicate (128 * nb - n - 1 - 8) 0
    ++ (List.range 8).map (fun i => (8 * n / 2 ^ (8 * (7 - i))) % 256)
  ((shaBlocks nb (shaWords (16 * nb) pad) shaIv).take 6).foldl (fun x w => x * 2 ^ 64 + w) 0

/-- The bytes of words in the order of R476: bits 7:0 first. -/
def wordBytes (ws : List Word) : List Nat := ws.flatMap (fun w => [w.toNat % 256, w.toNat / 256])

/-- SHA-384 of a list of words, as an integer (R476). -/
def sha384 (ws : List Word) : Nat := sha384Bytes (wordBytes ws)

/-- A digest as 24 words: byte 2j in bits 7:0 of word j (R476). -/
def digestWords (d : Nat) : List Word :=
  (List.range 24).map (fun j =>
    BitVec.ofNat 16 ((d / 2 ^ (8 * (47 - 2 * j))) % 256 + (d / 2 ^ (8 * (46 - 2 * j))) % 256 * 256))

/-- A digest as the number whose words are those of `digestWords` in the layout of R2. -/
def digestNum (d : Nat) : Nat := ofWords (digestWords d)

/-! ### ECDSA P-384 -/

/-- The field prime. -/
def p384 : Nat := 2 ^ 384 - 2 ^ 128 - 2 ^ 96 + 2 ^ 32 - 1

/-- The order of the base point. -/
def n384 : Nat :=
  39402006196394479212279040100143613805079739270465446667946905279627659399113263569398956308152294913554433653942643

/-- A point in Jacobian coordinates; `z = 0` is the point at infinity. -/
structure EcPt where
  x : Nat
  y : Nat
  z : Nat
  deriving DecidableEq, Repr

/-- The base point. -/
def g384 : EcPt :=
  ⟨26247035095799689268623156744566981891852923491109213387815615900925518854738050089022388053975719786650872476732087,
   8325710961489029985546751289520108179287853048861315594709205902480503199884419224438643760392947333078086511627871, 1⟩

/-- The coefficient b of the curve. -/
def b384 : Nat :=
  27580193559959705877849011840389048093056905856361568521428707301988689241309860865136260764883745107765439761230575

/-- Twice a point. -/
def EcPt.dbl (a : EcPt) : EcPt :=
  let yy := a.y * a.y % p384
  let s := 4 * a.x * yy % p384
  let zz := a.z * a.z % p384
  let m := 3 * ((a.x + zz) * (a.x + (p384 - zz))) % p384
  let x3 := (m * m + 2 * (p384 - s)) % p384
  ⟨x3, (m * (s + (p384 - x3)) + 8 * (p384 - yy * yy % p384)) % p384, 2 * a.y * a.z % p384⟩

/-- The sum of two points. -/
def EcPt.add (a b : EcPt) : EcPt :=
  if a.z = 0 then b
  else if b.z = 0 then a
  else
    let za := a.z * a.z % p384
    let zb := b.z * b.z % p384
    let u1 := a.x * zb % p384
    let u2 := b.x * za % p384
    let s1 := a.y * b.z % p384 * zb % p384
    let s2 := b.y * a.z % p384 * za % p384
    if u1 = u2 then (if s1 = s2 then a.dbl else ⟨1, 1, 0⟩)
    else
      let h := (u2 + (p384 - u1)) % p384
      let r := (s2 + (p384 - s1)) % p384
      let hh := h * h % p384
      let hhh := h * hh % p384
      let v := u1 * hh % p384
      let x3 := (r * r + (p384 - hhh) + 2 * (p384 - v)) % p384
      ⟨x3, (r * (v + (p384 - x3)) + (p384 - s1 * hhh % p384)) % p384, a.z * b.z % p384 * h % p384⟩

/-- `u` times the base point plus `v` times `q`, from the highest of `n` bits down; `s` is the base point plus `q`. -/
def ecMul2 (q s : EcPt) (u v : Nat) : Nat → EcPt → EcPt
  | 0, acc => acc
  | n + 1, acc =>
    let d := acc.dbl
    ecMul2 q s u v n
      (match u.testBit n, v.testBit n with
       | true, true => d.add s
       | true, false => d.add g384
       | false, true => d.add q
       | false, false => d)

/-- `x ^ e` modulo `m`, from the highest of `n` bits of `e` down. -/
def powMod (x e m : Nat) : Nat → Nat → Nat
  | 0, acc => acc
  | n + 1, acc => powMod x e m n (if e.testBit n then acc * acc % m * x % m else acc * acc % m)

/-- Whether a signature (r, s) of the digest integer `e` verifies under the public key (x, y). (PRESUMED, log entry 67) -/
def ecdsaOk (x y e r s : Nat) : Bool :=
  if r = 0 ∨ n384 ≤ r ∨ s = 0 ∨ n384 ≤ s ∨ p384 ≤ x ∨ p384 ≤ y then false
  else if y * y % p384 ≠ (x * x % p384 * x + 3 * (p384 - x) + b384) % p384 then false
  else
    let w := powMod s (n384 - 2) n384 384 1
    let q : EcPt := ⟨x, y, 1⟩
    let pt := ecMul2 q (g384.add q) (e * w % n384) (r * w % n384) 384 ⟨1, 1, 0⟩
    if pt.z = 0 then false
    else
      -- the affine x coordinate equals r modulo n, compared without a division
      let zz := pt.z * pt.z % p384
      (pt.x == r * zz % p384) || (decide (r + n384 < p384) && pt.x == (r + n384) * zz % p384)

/-- The signature (r, s) of the digest integer `e` under the private key `d` with the number `k` below the order (R353, R476).
(PRESUMED, log entry 67) -/
def ecdsaSign (d e k : Nat) : Nat × Nat :=
  let pt := ecMul2 g384 g384.dbl k 0 384 ⟨1, 1, 0⟩
  let r := pt.x * powMod (pt.z * pt.z % p384) (p384 - 2) p384 384 1 % p384 % n384
  (r, powMod k (n384 - 2) n384 384 1 * ((e + r * d) % n384) % n384)

end Sys2Proof.Machine
end

