-- ==== Sys2Proof/Machine/Header.lean ====
section
/-! DEFINITION. Who accesses a register, owners of pages and sources, and the error status every page carries (R209, R270, R449
to R455). -/

namespace Sys2Proof.Machine

/-- Who accesses a register: the requester code of R455, the party it acts for (none for codes 64 to 66), and the level of a
core. (DESIGN CHOICE, log entry 71) -/
structure Requester where
  unit  : Nat
  party : Option Nat
  level : Nat := 0
  deriving DecidableEq, Repr

/-- The launch controller as a requester. -/
def launchRq : Requester := ⟨64, none, 0⟩

/-- The page of the block that raises a source outside the software and lane groups (R269, R270). -/
def srcPage (s : Nat) : Nat :=
  if s < 0x0C0 then 0x010 + (s - 0x080) / 8
  else if s < 0x100 then 0x120 + (s - 0x0C0) / 2
  else if s < 0x308 then 0x0F1 + (s - 0x300) / 4
  else if s < 0x30C then 0x0F3
  else if s < 0x314 then 0x0E0 + (s - 0x30C) / 2
  else if s < 0x31C then 0x0E8 + (s - 0x314) / 4
  else if s < 0x320 then 0x080 + (s - 0x31C)
  else if s < 0x324 then 0x004
  else if s < 0x327 then 0x0F4
  else if s < 0x329 then 0x0F5
  else if s = 0x329 then 0x090
  else if s < 0x32C then 0x006
  else if s = 0x32C then 0x007
  else 0x005

/-- Software and lane sources, which OWNERSHIP entries of KIND 5 give (R270). -/
def srcPlanned (s : Nat) : Bool := decide (s < 0x080) || (decide (0x100 ≤ s) && decide (s < 0x300))

/-- The owner of a source, `none` for the launch controller (R270). -/
def Chip.srcOwner (c : Chip) (s : Nat) : Option Nat :=
  if srcPlanned s then c.ownerOf 5 s
  else if s == 0x32E || (decide (0x080 ≤ s) && decide (s < 0x0C0) && s % 8 == 5) then none
  else c.pageOwner (srcPage s)

/-- Pages whose ERRSTAT is banked per party: those with a party window (R455). -/
def errBanked (page : Nat) : Bool := page == 0x070 || page == 0x090 || page == 0x006

/-- The key of a bank of a register. -/
def bankKey (page off bank : Nat) : Nat := regKey page off * 128 + bank

/-- The bank of a requester where a register is banked per party: the launch controller's is 64. -/
def Requester.partyBank (r : Requester) : Nat := r.party.getD 64

/-- A banked register. -/
def Chip.bank (c : Chip) (page off bank reset : Nat) : Nat := tget reset c.banked (bankKey page off bank)

/-- The chip with a banked register replaced. -/
def Chip.setBank (c : Chip) (page off bank reset v : Nat) : Chip :=
  { c with banked := tset reset c.banked (bankKey page off bank) v }

/-- ERRSTAT (0x00E) or ERRINFO (0x010) of a page as a requester reaches it. -/
def Chip.errReg (c : Chip) (page off : Nat) (r : Requester) : Nat :=
  if errBanked page then c.bank page off r.partyBank 0 else c.live page off

/-- The chip with it replaced. -/
def Chip.setErrReg (c : Chip) (page off : Nat) (r : Requester) (v : Nat) : Chip :=
  if errBanked page then c.setBank page off r.partyBank 0 v else c.setLive page off v

/-- An ERRSTAT bit is set: ERRINFO records the access when every bit was 0, and CTRL.ERREV raises the page's source. -/
def Chip.setErr (c : Chip) (page bit off : Nat) (wr : Bool) (r : Requester) : Chip :=
  let old := c.errReg page 0x00E r
  if bitN old bit then c
  else
    let c := c.setErrReg page 0x00E r (old + 2 ^ bit)
    let c := if old ≠ 0 then c
      else c.setErrReg page 0x010 r
        (off + b2n wr * 2 ^ 11 + r.unit * 2 ^ 12 + (if r.unit < 64 then r.party.getD 0 else 0) * 2 ^ 19 + bit * 2 ^ 25)
    let src := c.fld page 0x014 9 0
    if c.fld page 0x00A 0 0 = 1 && c.srcOwner src == c.pageOwner page then c.raise src else c

/-- An access to a page: the requester, the page and offset, and its direction. -/
structure Access where
  rq   : Requester
  page : Nat
  off  : Nat
  wr   : Bool
  deriving DecidableEq, Repr

/-- An access sets an ERRSTAT bit of its page. -/
def Chip.accErr (c : Chip) (a : Access) (bit : Nat) : Chip := c.setErr a.page bit a.off a.wr a.rq

/-! ### Injected errors (R360) -/

/-- The kind of the injection a page has armed. -/
def Chip.armed (c : Chip) (page : Nat) : Option Nat :=
  let v := c.live page 0x012
  if bitN v 7 then some (bits v 2 1) else none

/-- An injection takes effect: it disarms and ERRSTAT.INJ is set, with the write that armed it. -/
def Chip.injected (c : Chip) (page : Nat) : Chip :=
  let v := c.live page 0x012
  (c.setLive page 0x012 (bits v 6 1 * 2)).setErr page 4 0x012 true ⟨bits v 14 8, none, 0⟩

/-- An access to a reserved offset (R454). -/
def Chip.badOff (c : Chip) (a : Access) : Chip := c.accErr a 1

end Sys2Proof.Machine
end

