-- ==== Sys2Proof/Machine/Hub.lean ====
section
/-! DEFINITION. The event hub (chapter "The Event Hub", R269 to R287). -/

namespace Sys2Proof.Machine

/-! ### Sources, targets and candidates (R272 to R275) -/

/-- The slice of a target, 64 being the launch controller (R280). -/
def Hub.slice (h : Hub) (t : Nat) : Slice := tget {} h.slices t

/-- The hub with a slice replaced. -/
def Hub.setSlice (h : Hub) (t : Nat) (s : Slice) : Hub := { h with slices := tset {} h.slices t s }

/-- The configuration of a source: one owned by the launch controller always targets 64, with no fallback (R273). -/
def Chip.srcCfg (c : Chip) (s : Nat) : SrcCfg :=
  let g := tget {} c.hub.cfg s
  if (c.srcOwner s).isNone then { g with tgt := 64, fbk := 127 } else g

/-- Whether a core target is quarantined (R274, R255). -/
def Chip.quarantined (c : Chip) (t : Nat) : Bool := decide (t < 64) && (c.eight (t / 8)).quarCore.contains t

/-- The effective target of a source, if it has one (R274). -/
def Chip.effTarget (c : Chip) (s : Nat) : Option Nat :=
  let g := c.srcCfg s
  let t := if c.quarantined g.tgt then g.fbk else g.tgt
  if t = 127 || c.quarantined t then none else some t

/-- The party of the open window a core is in, as the cox reports it from the entry band to the closing instant. -/
def Chip.openParty (c : Chip) (core : Nat) : Option Nat :=
  match c.pipeOf core with
  | none => none
  | some pi =>
    let p := c.pipe pi
    match p.ctx with
    | some x => if x.open_ && !p.closing && !(p.run == .feathered || p.run == .mismatched) then some x.party else none
    | none => none

/-- The running priority of a slice (R275). -/
def Slice.runPri (s : Slice) : Nat := match s.stack with
  | [] => 256
  | e :: _ => e.pri

/-- The threshold of a slice; values above 0x100 act as 0x100. -/
def Slice.tpri (s : Slice) : Nat := Nat.min 0x100 s.tctl

/-- Whether a source is a candidate of a target (R275). -/
def Chip.isCand (c : Chip) (t s : Nat) : Bool :=
  let h := c.hub
  h.pend.testBit s && h.ena.testBit s && !h.mask.testBit s && !h.act.testBit s && c.effTarget s == some t
  && (t == 64 || (c.openParty t == c.srcOwner s && (c.srcOwner s).isSome))
  && decide ((c.srcCfg s).pri < (h.slice t).runPri) && decide ((c.srcCfg s).pri < (h.slice t).tpri)

/-- Sources that can be pending. -/
def srcCount : Nat := 0x32F

/-- The candidates of a target, in source order. -/
def Chip.cands (c : Chip) (t : Nat) : List Nat := (List.range srcCount).filter (c.isCand t)

/-- The best candidate: lowest priority number, then lowest source (R275). -/
def Chip.bestCand (c : Chip) (t : Nat) : Option Nat :=
  (c.cands t).foldl (fun b s => match b with
    | none => some s
    | some r => if (c.srcCfg s).pri < (c.srcCfg r).pri then some s else some r) none

/-! ### Evaluation and moderation (R274, R276, R281) -/

/-- Whether a core is feathered after WEND in an open window. -/
def Chip.wended (c : Chip) (core : Nat) : Bool :=
  match c.pipeOf core with
  | none => false
  | some pi => (c.pipe pi).run == .ended && (c.openParty core).isSome

/-- Whether moderation releases the line of a target with candidates `cs` (R281). -/
def Chip.modRelease (c : Chip) (t : Nat) (cs : List Nat) (s : Slice) : Bool :=
  let delay := bits s.modctl 15 0
  let count := bits s.modctl 23 16
  let urg := bits s.modctl 31 24
  t == 64 || delay == 0 || s.released
  || (match s.timer with
      | some t0 => decide (t0 + delay * 20 ≤ c.now)
      | none => false)
  || (count != 0 && decide (count ≤ cs.length)) || cs.any (fun q => decide ((c.srcCfg q).pri < urg)) || c.wended t

/-- One target evaluated: its timer, whether the line is released, and the line (R276, R281). -/
def Chip.evalTarget (c : Chip) (t : Nat) : Chip :=
  let s := c.hub.slice t
  let cs := c.cands t
  let s' :=
    if cs.isEmpty then { s with timer := none, released := false, line := false }
    else if c.modRelease t cs s then { s with released := true, line := true }
    else { s with timer := some (s.timer.getD c.now), line := false }
  { c with hub := c.hub.setSlice t s' }

/-- The pending sources with no effective target, which a catch leaves for the next evaluation to record (R274). (DEDUCED, log
entry 45) -/
def Chip.untargeted (c : Chip) : List Nat :=
  (List.range srcCount).filter (fun s => c.hub.pend.testBit s && (c.effTarget s).isNone)

/-- Record a source that had no effective target at the last catch: NTSRC, and source 0x32E (R274). (DEDUCED, log entry 45) -/
def Chip.noTarget (c : Chip) (s : Nat) : Chip :=
  let n := c.fld 0x073 0x104 31 16
  (c.setLive 0x073 0x104 (s + Nat.min 0xFFFF (n + 1) * 2 ^ 16)).raise 0x32E

/-- HUB_EVALUATION: every target once (R276). -/
def Chip.hubEvaluate (c : Chip) : Chip :=
  let due := c.hub.ntDue
  let c := due.foldl Chip.noTarget { c with hub := { c.hub with ntDue := [] } }
  (List.range 65).foldl Chip.evalTarget c

/-- MODERATION_TIMER_EXPIRY: TB reaches the end of the delay of a target's running timer, which releases the line (R281). -/
def Chip.modExpiry (c : Chip) (t : Nat) : Chip :=
  match (c.hub.slice t).timer with
  | some t0 =>
    let c := c.reach (t0 + bits (c.hub.slice t).modctl 15 0 * 20)
    let s := c.hub.slice t
    { c with hub := c.hub.setSlice t { s with released := true, line := !(c.cands t).isEmpty } }
  | none => c

/-! ### Acknowledge and end of interrupt (R278, R279) -/

/-- PSTAT of a requester. -/
def Hub.pst (h : Hub) (u : Nat) : Nat := tget 0 h.pstat u

/-- Set bits of PSTAT. -/
def Hub.pstSet (h : Hub) (u m : Nat) : Hub := { h with pstat := tset 0 h.pstat u (h.pst u ||| m) }

/-- Count a spurious acknowledge; SPUR holds at 0xFF. -/
def Hub.spur (h : Hub) (u : Nat) : Hub :=
  { h with pstat := tset 0 h.pstat u (setBits (h.pst u) 15 8 (Nat.min 0xFF (bits (h.pst u) 15 8 + 1))) }

/-- A bit set in a set of sources. -/
def setBit (x s : Nat) : Nat := x ||| 2 ^ s

/-- A bit cleared. -/
def clrBit (x s : Nat) : Nat := if x.testBit s then x - 2 ^ s else x

/-- A read of IACK (R278): the value returned and the chip after it. -/
def Chip.iack (c : Chip) (r : Requester) : Chip × Nat :=
  let t := r.unit
  if 64 < t then (c, 0)
  else
    let s := c.hub.slice t
    match c.bestCand t with
    | none => ({ c with hub := c.hub.spur t }, 0x3FF)
    | some q =>
      if 32 ≤ s.stack.length then ({ c with hub := (c.hub.spur t).pstSet t 4 }, 0x3FF)
      else
        let pri := (c.srcCfg q).pri
        let h := { c.hub with pend := clrBit c.hub.pend q, act := setBit c.hub.act q }
        ({ c with hub := h.setSlice t { s with stack := ⟨q, pri, false⟩ :: s.stack } }, q + pri * 2 ^ 10)

/-- A write of IEOI (R279). -/
def Chip.ieoi (c : Chip) (r : Requester) (x : Nat) : Chip :=
  let t := r.unit
  let id := bits x 9 0
  if 64 < t || id == 0x3FF then c
  else
    let s := c.hub.slice t
    match s.stack with
    | [] => { c with hub := c.hub.pstSet t 8 }
    | e :: rest =>
      let h := c.hub.setSlice t { s with stack := rest }
      let h := if e.stale then h else { h with act := clrBit h.act e.id }
      { c with hub := if e.id = id then h else h.pstSet t 8 }

/-! ### Configuration and groups (R282 to R287) -/

/-- Whether a requester owns a source in the sense of R283. -/
def Chip.ownsSrc (c : Chip) (r : Requester) (s : Nat) : Bool :=
  if r.unit = 64 then (c.srcOwner s).isNone else r.party.isSome && c.srcOwner s == r.party

/-- Targets a party may name (R273). -/
def partyTarget (t : Nat) : Bool := decide (t < 64) || t == 127

/-- A write of CFGW (R282). -/
def Chip.cfgw (c : Chip) (r : Requester) (x : Nat) : Chip :=
  let s := bits x 9 0
  let tgt := bits x 24 18
  let fbk := bits x 31 25
  let u := r.unit
  if 64 < u then c
  else if !c.ownsSrc r s then { c with hub := c.hub.pstSet u 1 }
  else
    let bad (t : Nat) : Bool := if u = 64 then !(partyTarget t || t == 64) else !partyTarget t
    if bad tgt || bad fbk then { c with hub := c.hub.pstSet u 2 }
    else { c with hub := { c.hub with cfg := tset {} c.hub.cfg s ⟨bits x 17 10, tgt, fbk⟩ } }

/-- A write of SWSET (R287). -/
def Chip.swset (c : Chip) (r : Requester) (x : Nat) : Chip :=
  let s := bits x 9 0
  if 64 < r.unit then c
  else if s < 0x080 && c.ownsSrc r s then c.raise s
  else { c with hub := c.hub.pstSet r.unit 1 }

/-- The sources of a group of 32 that a requester's group write reaches (R283, R285). -/
def Chip.groupBits (c : Chip) (r : Requester) (all : Bool) (g : Nat) : List Nat :=
  let wm := (c.hub.slice r.unit).wmask
  ((List.range 32).filter (fun j => bitN wm j && !srcReserved (32 * g + j) && (all || c.ownsSrc r (32 * g + j)))).map
    (fun j => 32 * g + j)

/-- A set of sources with those of a list taken from the bits of a written group. -/
def putBits (set_ x g : Nat) (ss : List Nat) : Nat :=
  ss.foldl (fun v s => if bitN x (s - 32 * g) then setBit v s else clrBit v s) set_

/-- A write to a PEND (0), ENA (1) or MASK (2) group; `all` for the launch controller's unfiltered pages (R285). -/
def Chip.groupWrite (c : Chip) (r : Requester) (all : Bool) (kind g x : Nat) : Chip :=
  if 64 < r.unit then c
  else
    let ss := c.groupBits r all g
    let h := c.hub
    { c with hub := match kind with
        | 0 => { h with pend := putBits h.pend x g ss }
        | 1 => { h with ena := putBits h.ena x g ss }
        | 2 => { h with mask := putBits h.mask x g ss }
        | _ => h }

/-- A read of a PEND, ENA, MASK or ACT group, filtered to the sources of the requester (R283). -/
def Chip.groupRead (c : Chip) (r : Requester) (all : Bool) (kind g : Nat) : Nat :=
  let h := c.hub
  let v := match kind with
    | 0 => h.pend
    | 1 => h.ena
    | 2 => h.mask
    | _ => h.act
  (List.range 32).foldl (fun x j =>
    if v.testBit (32 * g + j) && (all || c.ownsSrc r (32 * g + j)) then x + 2 ^ j else x) 0

/-! ### Views (the register tables of the chapter) -/

/-- TSTAT of a target. -/
def Chip.tstat (c : Chip) (t : Nat) : Nat :=
  let s := c.hub.slice t
  s.runPri + s.stack.length * 2 ^ 9 + b2n s.line * 2 ^ 15 + b2n (c.quarantined t) * 2 ^ 16

/-- TGTSTAT of a target. -/
def Chip.tgtstat (c : Chip) (t : Nat) : Nat :=
  c.tstat t + (match c.openParty t with
    | some p => p * 2 ^ 18 + 2 ^ 24
    | none => 0)

/-- CFGRD: the configuration of the source CFGSEL names, or 0 when it is not owned. -/
def Chip.cfgrd (c : Chip) (r : Requester) : Nat :=
  let s := (c.hub.slice r.unit).cfgsel
  if c.ownsSrc r s then
    let g := c.srcCfg s
    s + g.pri * 2 ^ 10 + g.tgt * 2 ^ 18 + g.fbk * 2 ^ 25
  else 0

/-- OWNRD: the owner of the source OWNSEL names. -/
def Chip.ownrd (c : Chip) : Nat :=
  match c.srcOwner (c.fld 0x073 0x100 9 0) with
  | some p => p + b2n (c.worldOf p) * 2 ^ 6
  | none => 2 ^ 7

/-! ### Ownership changes and slices (R271, R280) -/

/-- The owner of sources changes: bits and configuration reset, and stack entries become stale (R271). -/
def Hub.resetSources (h : Hub) (f : Nat → Bool) : Hub :=
  let keep (v : Nat) : Nat := (List.range srcCount).foldl (fun x s => if f s then clrBit x s else x) v
  { h with
    pend := keep h.pend, ena := keep h.ena, mask := keep h.mask, act := keep h.act
    cfg := h.cfg.filter (fun e => !f e.1)
    gen := ((List.range srcCount).filter f).foldl (fun t s => tset 0 t s (tget 0 t s + 1)) h.gen
    slices := h.slices.map (fun e => (e.1, { e.2 with stack := e.2.stack.map (fun s =>
      if f s.id then { s with stale := true } else s) })) }

/-- Discard a running-priority stack: ACTIVE of its sources is cleared, but for stale entries (R280). -/
def Hub.dropStack (h : Hub) (st : List StackE) : Hub :=
  { h with act := st.foldl (fun v e => if e.stale then v else clrBit v e.id) h.act }

end Sys2Proof.Machine
end

