-- ==== Sys2Proof/Machine/Lanes.lean ====
section
/-! DEFINITION. The lane engine: lanes, message copies, pinned lanes, notifications, handles and completion records (R304 to
R319). -/

namespace Sys2Proof.Machine

/-! ### Memory as the lane engine and the launch controller reach it (R209, R229) -/

/-- The architectural core whose tight memory an address lies in, with the offset (R228). -/
def tightOf (a : Nat) : Option (Nat × Nat) :=
  if tightBase ≤ a ∧ a < tightBase + 64 * 0x1_0000 then some ((a - tightBase) / 0x1_0000, (a - tightBase) % 0x1_0000)
  else none

/-- Read words at a physical address under a key; tight memory through the ring port. (DEDUCED, log entry 30) -/
def Chip.physRead (c : Chip) (key a n : Nat) : Nat :=
  match tightOf a with
  | some (core, off) => c.tightRead core off n
  | none => c.rdN key a n

/-- Write words at a physical address under a key. -/
def Chip.physWrite (c : Chip) (key a : Nat) (ws : List Word) : Chip :=
  match tightOf a with
  | some (core, off) => c.ringWrite core off ws.length (ofWords ws)
  | none => c.memWrite key a ws

/-- Whether words at a physical address meet an uncorrectable error. -/
def Chip.physErr (c : Chip) (a n : Nat) : Bool :=
  match tightOf a with
  | some (core, off) => c.tightErr core off n
  | none => c.memErr a n 65

/-- An uncorrectable word of tight memory that the ring port reads is logged (R247). -/
def Chip.physLog (c : Chip) (a n : Nat) : Chip :=
  match tightOf a with
  | some (core, off) => c.tightLog core off n
  | none => c

/-- Whether a range has a word in no range that R446 lists (R447). -/
def Chip.unlisted (c : Chip) (a n : Nat) : Bool :=
  (List.range ((a + n - 1) / 4096 + 1 - a / 4096)).any (fun i =>
    let g := (a / 4096 + i) * 4096
    !c.inQdr g && !c.inLpd g && (tightOf g).isNone && decide (g < devBase))

/-- Whether every word of a range lies in memory a party owns; `none` is the launch controller. -/
def Chip.ownsRange (c : Chip) (party : Option Nat) (a n : Nat) : Bool :=
  match tightOf a with
  | some (core, off) =>
    (List.range ((off + n - 1) / 64 + 1 - off / 64)).all (fun i => c.ownerOf 4 (core * 1024 + off / 64 + i) == party)
  | none =>
    (List.range ((a + n - 1) / 4096 + 1 - a / 4096)).all (fun i =>
      let g := (a / 4096 + i) * 4096
      (c.inQdr g || c.inLpd g) && (c.memOwner g == party))

/-- The key pair of a party, or of the launch controller. (DEDUCED, log entry 30) -/
def Chip.partyKey (c : Chip) (party : Option Nat) : Nat :=
  match party with
  | some q => worldKey (c.worldOf q)
  | none => 0

/-! ### Lanes (R304 to R307, R313) -/

/-- A lane. -/
def Chip.ln (c : Chip) (l : Nat) : Lane := tget {} c.lane.lanes l

/-- The chip with a lane replaced. -/
def Chip.setLn (c : Chip) (l : Nat) (x : Lane) : Chip := { c with lane := { c.lane with lanes := tset {} c.lane.lanes l x } }

/-- The owner of a lane. -/
def Chip.laneOwner (c : Chip) (l : Nat) : Option Nat := c.ownerOf 1 l

/-- log2 of the descriptors of a lane's ring (R306). -/
def laneLog (cfg : Nat) : Nat := Nat.min 11 (bits cfg 27 24) + 4

/-- The configuration a lane acts on. -/
def Lane.acting (x : Lane) : Nat := if x.st == .stopped then x.cfg else x.aCfg

/-- Address of descriptor `i`. -/
def Lane.descAt (x : Lane) (i : Nat) : Nat := bits x.acting 23 0 * 4096 + (i % 2 ^ laneLog x.acting) * 8

/-- Descriptors handed over and not finished. -/
def Lane.waiting (x : Lane) : Nat := (x.pidx + 0x1_0000 - x.cidx) % 0x1_0000

/-- The connections of the live plan. -/
def Chip.conns (c : Chip) : List ConnE := (c.livePlan.map Plan.conns).getD []

/-- Every FPINST entry of the live plan. -/
def Chip.fpInsts (c : Chip) : List FpiE := (c.livePlan.map (fun p => p.fpis.flatMap Prod.snd)).getD []

/-- Whether the plan binds a lane (R307). -/
def Chip.laneBound (c : Chip) (l : Nat) : Bool :=
  c.conns.any (fun q => q.a == l || ((q.kind == 0 || q.kind == 1) && q.b == l))

/-- Whether a lane is pinned: named in an FPINST entry or LANEA of a TRIGGER entry (R310). -/
def Chip.lanePinned (c : Chip) (l : Nat) : Bool :=
  c.conns.any (fun q => q.kind == 2 && q.a == l) || c.fpInsts.any (fun q => q.laneA == l || q.laneB == some l)

/-- A lane enters ERROR (R313). -/
def Chip.laneError (c : Chip) (l code : Nat) : Chip :=
  let x := c.ln l
  let c := c.setLn l { x with st := .error, err := code, pin := none }
  let c := if c.fld 0x090 0x102 17 17 = 1 then c else c.setLive 0x090 0x102 (l + code * 2 ^ 13 + 2 ^ 17)
  c.raise 0x329

/-- Fields of a message or pinned descriptor (R309). -/
def descLen (d : Oct) : Nat := bits d.toNat 15 0
/-- EVT of a descriptor. -/
def descEvt (d : Oct) : Bool := d.getLsbD 16
/-- ADDR of a descriptor. -/
def descAddrOf (d : Oct) : Nat := bits d.toNat 63 32 + bits d.toNat 67 64 * 2 ^ 32
/-- TAG of a descriptor. -/
def descTag (d : Oct) : Nat := bits d.toNat 95 80
/-- Reserved bits set in a message or pinned descriptor. -/
def descReserved (d : Oct) : Bool := bits d.toNat 31 17 != 0 || bits d.toNat 79 68 != 0

/-- The descriptor at an index of a lane. -/
def Chip.laneDesc (c : Chip) (l i : Nat) : Oct :=
  BitVec.ofNat 128 (c.physRead (c.partyKey (c.laneOwner l)) ((c.ln l).descAt i) 8)

/-- The code of the error a lane enters when the engine accesses the descriptor at its CIDX, if any: its ring fails the owner
check, or the read is uncorrectable (R209, R313). -/
def Chip.descFault (c : Chip) (l : Nat) : Option Nat :=
  let a := (c.ln l).descAt (c.ln l).cidx
  if !c.ownsRange (c.laneOwner l) a 8 then some 1 else if c.physErr a 8 then some 2 else none

/-- A pinned lane that becomes RUN reads its descriptor once (R310). -/
def Chip.pinRead (c : Chip) (l : Nat) : Chip :=
  let x := c.ln l
  match c.descFault l with
  | some k => (c.physLog (x.descAt x.cidx) 8).laneError l k
  | none =>
    let d := c.laneDesc l x.cidx
    if descLen d != 8 || descReserved d then c.laneError l 6
    else if !c.ownsRange (c.laneOwner l) (descAddrOf d) 8 then c.laneError l 1
    else c.setLn l { x with pin := some d }

/-- A write of LCFG or LLINK: ignored while the lane is not STOPPED (R305). -/
def Chip.laneCfgWrite (c : Chip) (l : Nat) (link : Bool) (v : Nat) : Chip :=
  let x := c.ln l
  if x.st != .stopped then c.setLn l { x with wign := true }
  else c.setLn l (if link then { x with link := v % 2 ^ 11 } else { x with cfg := v % 2 ^ 28 })

/-- A write of LPTR: the doorbell (R306, R307). -/
def Chip.doorbell (c : Chip) (l v : Nat) : Chip :=
  let x := { c.ln l with pidx := v % 2 ^ 16 }
  let c := c.setLn l x
  if x.st == .error then c
  else if 2 ^ laneLog x.acting < x.waiting then c.laneError l 3
  else if !c.laneBound l && !c.lanePinned l then c.laneError l 4
  else c

/-- LSTAT as read. -/
def Lane.lstat (x : Lane) : Nat :=
  b2n x.en + (match x.st with | .stopped => 0 | .run => 1 | .error => 2) * 2 + x.err * 8 + b2n x.wign * 2 ^ 7
  + b2n x.full * 2 ^ 8 + b2n x.note * 2 ^ 9 + b2n x.pin.isSome * 2 ^ 10

/-! ### Notifications (R312) -/

/-- Notify a RUN lane with EVEN set. -/
def Chip.notify (c : Chip) (l : Nat) : Chip :=
  let x := c.ln l
  if x.st == .run && bitN x.aLink 10 then (c.setLn l { x with note := true }).raise (bits x.aLink 9 0) else c

/-- The requester's LNSEL. -/
def Chip.lnsel (c : Chip) (r : Requester) : Nat := c.bank 0x090 0x180 r.unit 0

/-- A read of LNRD: the lowest notified lane of the reader's party with the source LNSEL names, whose NOTE is cleared. -/
def Chip.lnrd (c : Chip) (r : Requester) : Chip × Nat :=
  if 64 < r.unit then (c, 0)
  else
    match c.lane.lanes.find? (fun q => q.2.note && c.laneOwner q.1 == r.party && bits q.2.aLink 9 0 == bits (c.lnsel r) 9 0) with
    | none => (c, 0)
    | some (l, x) => (c.setLn l { x with note := false }, l + 2 ^ 31)

/-! ### Message copies (R308, R309) -/

/-- Write the status pair of a descriptor, and the TAG the engine replaces on receive; a ring that its party no longer owns
puts the lane in ERROR instead (R313). (DEDUCED, log entry 22) -/
def Chip.descStatus (c : Chip) (l i status xlen : Nat) (tag : Option Nat) : Chip :=
  let x := c.ln l
  let a := x.descAt i
  let key := c.partyKey (c.laneOwner l)
  if !c.ownsRange (c.laneOwner l) a 8 then c.laneError l 1
  else
    let c := match tag with
      | some t => c.physWrite key (a + 5) [BitVec.ofNat 16 t]
      | none => c
    c.physWrite key (a + 6) (toWords 2 (1 + status * 2 + xlen * 2 ^ 16))

/-- Advance CIDX, unless the lane is in ERROR. -/
def Chip.laneNext (c : Chip) (l : Nat) : Chip :=
  let x := c.ln l
  if x.st == .error then c else c.setLn l { x with cidx := (x.cidx + 1) % 0x1_0000 }

/-- The STATUS BUS of a lane step, whose code is not given (R309, R447): a free value. (DEDUCED, log entry 62) -/
def Chip.busStatus (c : Chip) : Chip × Nat :=
  ({ c with free := c.free + 1 }, Config.freeValue c.free % 128)

/-- Best-effort step units (R302, R319). -/
def stepUnits : Nat := 8

/-- Words a best-effort step unit holds: 128 octs (R302). -/
def unitWords : Nat := 1024

/-- Whether a best-effort step unit is free. -/
def Chip.unitFree (c : Chip) : Bool := decide (c.lane.copies.length < stepUnits)

/-- The copy in progress of a sender lane. -/
def Chip.copyOf (c : Chip) (a : Nat) : Option Copying := c.lane.copies.find? (fun k => k.a == a)

/-- The words a message copy is to move. -/
def Copying.len (k : Copying) : Nat := Nat.min (descLen k.ds) (descLen k.dr)

/-- The unit of a copy is free again. -/
def Chip.dropCopy (c : Chip) (a : Nat) : Chip :=
  { c with lane := { c.lane with copies := c.lane.copies.filter (fun k => k.a != a) } }

/-- End a descriptor: its status pair, CIDX, and the notification EVT asks for (R308, R309). -/
def Chip.descEnd (c : Chip) (l status xlen : Nat) (tag : Option Nat) (evt : Bool) : Chip :=
  let c := (c.descStatus l (c.ln l).cidx status xlen tag).laneNext l
  if evt then c.notify l else c

/-- A copy ends: both statuses, both CIDX, both notifications (R308). -/
def Chip.copyEnd (c : Chip) (k : Copying) (status : Nat) : Chip :=
  let c := c.dropCopy k.a
  let i := (c.ln k.a).cidx
  let j := (c.ln k.b).cidx
  let c := (c.descStatus k.a i status k.done none).descStatus k.b j status k.done (some (descTag k.ds))
  let c := (c.laneNext k.a).laneNext k.b
  let c := if descEvt k.ds then c.notify k.a else c
  if descEvt k.dr then c.notify k.b else c

/-- The next step of a copy: what one step unit holds, checked against each party's owner map; the copy ends with its status,
or stays in progress (R302, R308, R309). (DEDUCED, log entry 22) -/
def Chip.copyStep (c : Chip) (k : Copying) : Chip :=
  let n := k.len
  let m := Nat.min unitWords (n - k.done)
  let from_ := descAddrOf k.ds + k.done
  let to_ := descAddrOf k.dr + k.done
  if descLen k.ds == 0 || descLen k.dr == 0 || descReserved k.ds || descReserved k.dr then c.copyEnd k 4
  else if c.unlisted from_ (n - k.done) || c.unlisted to_ (n - k.done) then
    let (c, code) := c.busStatus
    c.copyEnd k code
  else if !c.ownsRange (c.laneOwner k.a) from_ (n - k.done) || !c.ownsRange (c.laneOwner k.b) to_ (n - k.done) then c.copyEnd k 2
  else if c.physErr from_ m then (c.physLog from_ m).copyEnd k 3
  else
    let c := c.physWrite (c.partyKey (c.laneOwner k.b)) to_ (toWords m (c.physRead (c.partyKey (c.laneOwner k.a)) from_ m))
    let k := { k with done := k.done + m }
    if k.done = n then c.copyEnd k (if descLen k.dr < descLen k.ds then 1 else 0)
    else { c.dropCopy k.a with lane := { (c.dropCopy k.a).lane with copies := (c.dropCopy k.a).lane.copies ++ [k] } }

/-- MESSAGE_COPY for the pair a sender lane belongs to: a step of its copy, which starts when both rings hold descriptors and a
best-effort unit is free (R308). (DEDUCED, log entry 22) -/
def Chip.messageCopy (c : Chip) (a : Nat) : Chip :=
  match c.conns.find? (fun q => q.kind == 0 && q.a == a), c.copyOf a with
  | none, _ => c
  | some _, some k => if (c.ln k.a).st == .run && (c.ln k.b).st == .run then c.copyStep k else c
  | some q, none =>
    let s := c.ln a
    let r := c.ln q.b
    if s.st != .run || r.st != .run || s.waiting == 0 || r.waiting == 0 || !c.unitFree then c
    else match c.descFault a, c.descFault q.b with
      | some k, _ => (c.physLog (s.descAt s.cidx) 8).laneError a k
      | none, some k => (c.physLog (r.descAt r.cidx) 8).laneError q.b k
      | none, none => c.copyStep ⟨a, q.b, c.laneDesc a s.cidx, c.laneDesc q.b r.cidx, 0⟩

/-- The copies a lane takes part in are abandoned: the sides that stay get status ABORT (R309, R314). -/
def Chip.abortCopies (c : Chip) (l : Nat) (reset : Bool) : Chip :=
  (c.lane.copies.filter (fun k => k.a == l || k.b == l)).foldl (fun c k =>
    if !reset then c.copyEnd k 5
    else if k.a == l then (c.dropCopy k.a).descEnd k.b 5 k.done (some (descTag k.ds)) (descEvt k.dr)
    else (c.dropCopy k.a).descEnd k.a 5 k.done none (descEvt k.ds)) c

/-- A write of LSTAT (R305, R309, R312): EN and the W1C of WIGN. A stop ends the copies in progress with ABORT. -/
def Chip.lstatWrite (c : Chip) (l v : Nat) : Chip :=
  let seen (x : Lane) : Lane := { x with wign := x.wign && !bitN v 7 }
  if bitN v 0 then
    let x := seen (c.ln l)
    match x.st with
    | .stopped =>
      let c := c.setLn l { x with en := true, st := .run, aCfg := x.cfg, aLink := x.link, err := 0 }
      let ev := bits x.link 9 0
      let party := c.laneOwner l
      if bitN x.link 10 && !(decide (0x100 ≤ ev) && decide (ev < 0x300) && c.srcOwner ev == party) then c.laneError l 5
      else if !c.ownsRange party (bits x.cfg 23 0 * 4096) (2 ^ laneLog x.cfg * 8) then c.laneError l 1
      else if c.lanePinned l then c.pinRead l
      else c
    | _ => c.setLn l { x with en := true }
  else
    let c := c.abortCopies l false
    c.setLn l { seen (c.ln l) with en := false, st := .stopped, pin := none }

/-! ### Pinned lanes (R310) -/

/-- A guaranteed step is skipped. -/
def Chip.stepMissed (c : Chip) : Chip := (c.bumpFld 0x090 0x104 31 0).raise 0x329

/-- What a step of a pinned lane finds: it is missed, its address fails the owner check, or the address and the key of its
party (R310, R313). -/
inductive PinStep where
  | missed
  | notOwned
  | at_ (addr key : Nat)
  deriving DecidableEq, Repr

/-- A step of a pinned lane falls due. -/
def Chip.pinStep (c : Chip) (l : Nat) : PinStep :=
  match (c.ln l).st, (c.ln l).pin with
  | .run, some p =>
    if c.ownsRange (c.laneOwner l) (descAddrOf p) 8 then .at_ (descAddrOf p) (c.partyKey (c.laneOwner l)) else .notOwned
  | _, _ => .missed

/-- PINNED_INBOUND_STEP: write a sample oct to the lane's address. -/
def Chip.pinnedIn (c : Chip) (l : Nat) (d : Oct) : Chip :=
  match c.pinStep l with
  | .missed => c.stepMissed
  | .notOwned => c.laneError l 1
  | .at_ a key => c.physWrite key a (toWords 8 d.toNat)

/-- The closing instant of a window steps each lane a TRIGGER entry names for it (R307, R310). -/
def Chip.stepsDue (c : Chip) (core win : Nat) : Chip :=
  let ls := (c.conns.filter (fun q => q.kind == 2 && q.b == core && q.aux == win)).map ConnE.a
  { c with lane := { c.lane with due := c.lane.due ++ ls } }

/-! ### Handles, submissions and completion records (R315 to R318) -/

/-- The handle table of a party. -/
def Chip.handles (c : Chip) (party : Nat) : Handles := tget {} c.lane.handles party

/-- The chip with it replaced. -/
def Chip.setHandles (c : Chip) (party : Nat) (h : Handles) : Chip :=
  { c with lane := { c.lane with handles := tset {} c.lane.handles party h } }

/-- The generation a slot is reused with (R316). -/
def nextGen (slot gen : Nat) : Nat := if slot = 0xFFF ∧ gen = 0xE then 0 else (gen + 1) % 16

/-- Allocate a handle: slots never used first, in rising order, then freed slots in the order they were freed (R316). -/
def Handles.alloc (h : Handles) : Option (Handles × Nat) :=
  if h.fresh < 4096 then
    some ({ h with fresh := h.fresh + 1, out := h.fresh :: h.out }, h.fresh)
  else match h.freed with
    | [] => none
    | s :: rest =>
      let g := nextGen s (tget 0 h.gen s)
      some ({ h with freed := rest, gen := tset 0 h.gen s g, out := s :: h.out }, s + g * 2 ^ 12)

/-- The handle a slot stands for at its present generation. -/
def Handles.handleAt (h : Handles) (s : Nat) : Nat := s + tget 0 h.gen s * 2 ^ 12

/-- Free the slot of an outstanding handle; a value that names none frees nothing (R316, R347). -/
def Handles.free (h : Handles) (handle : Nat) : Handles :=
  let s := handle % 4096
  if h.out.contains s && h.handleAt s == handle then { h with out := h.out.filter (· != s), freed := h.freed ++ [s] } else h

/-- HSTAT fields that count, by party. -/
def Chip.hstatCount (c : Chip) (party h l : Nat) : Chip :=
  let v := c.bank 0x090 0x184 party 0
  if bits v h l = 0xFF then c else c.setBank 0x090 0x184 party 0 (setBits v h l (bits v h l + 1))

/-- COMMAND_SUBMISSION on a command lane (R315). -/
def Chip.submit (c : Chip) (l : Nat) : Chip :=
  match c.conns.find? (fun q => q.kind == 1 && q.a == l), c.laneOwner l with
  | some q, some party =>
    let x := c.ln l
    if x.st != .run || x.waiting == 0 || !c.unitFree then c
    else match c.descFault l with
    | some k => (c.physLog (x.descAt x.cidx) 8).laneError l k
    | none =>
      let d := c.laneDesc l x.cidx
      let done (c : Chip) (accept handle : Nat) : Chip := (c.descStatus l x.cidx accept handle none).laneNext l
      if (c.ln q.b).st != .run then done c 2 0xFFFF
      else match (c.handles party).alloc with
        | none => (done c 1 0xFFFF).hstatCount party 23 16
        | some (h, v) =>
          let c := (done (c.setHandles party h) 0 v).raise 0x32D
          { c with lane := { c.lane with mail := c.lane.mail ++ [⟨party, q.b, v, bits d.toNat 15 0, descAddrOf d⟩] } }
  | _, _ => c

/-- A record for the completion lane of an operation (R317); it is discarded and counted where the lane was reset since (R314).
(DEDUCED, log entry 69) -/
def Chip.complete (c : Chip) (party lane handle code : Nat) (words : List Word) : Chip :=
  let lost := c.lane.lost.contains (party, lane, handle)
  let c := { c with lane := { c.lane with
    mail := c.lane.mail.filter (fun m => !(m.party == party && m.handle == handle))
    lost := c.lane.lost.filter (fun q => !(q.1 == party && q.2.2 == handle)) } }
  if lost then (c.setHandles party ((c.handles party).free handle)).hstatCount party 31 24
  else { c with lane := { c.lane with recs := c.lane.recs ++ [⟨party, lane, handle, code, c.now % 2 ^ 32, words⟩] } }

/-- The eight words of a record. -/
def Rec.words8 (r : Rec) : List Word :=
  [BitVec.ofNat 16 r.handle, BitVec.ofNat 16 r.code] ++ toWords 2 r.tb ++ (List.range 4).map (fun i => r.words.getD i 0)

/-- COMPLETION_RECORD: the first record for a completion lane is written at CIDX, or waits while the ring is full (R317, R318).
(DEDUCED, log entry 69) -/
def Chip.writeRecord (c : Chip) (l : Nat) : Chip :=
  match c.lane.recs.find? (fun r => r.lane == l) with
  | none => c
  | some r =>
    let x := c.ln l
    if x.st != .run then c
    else if x.waiting == 0 then c.setLn l { x with full := true }
    else if !c.ownsRange (c.laneOwner l) (x.descAt x.cidx) 8 then c.laneError l 1
    else
      let c := c.physWrite (c.partyKey (c.laneOwner l)) (x.descAt x.cidx) r.words8
      let c := c.setLn l { x with cidx := (x.cidx + 1) % 0x1_0000, full := false }
      let c := { c with lane := { c.lane with recs := dropFirstRec l c.lane.recs } }
      (c.setHandles r.party ((c.handles r.party).free r.handle)).notify l
where
  /-- The records without the first for a lane. -/
  dropFirstRec (l : Nat) : List Rec → List Rec
    | [] => []
    | r :: rs => if r.lane == l then rs else r :: dropFirstRec l rs

/-- Records that still wait at a catch notify their lane (R318). -/
def Chip.notifyWaiting (c : Chip) : Chip :=
  (c.lane.lanes.filter (fun q => q.2.full)).foldl (fun c q => c.notify q.1) c

/-! ### Reset of lanes whose owner changes (R314) -/

/-- The outstanding operations of a party whose record would go to a lane: by handle, and the record of a switch's hand-overs,
which has none (R347). -/
def Chip.lostWith (c : Chip) (party l : Nat) : List (Nat × Nat × Nat) :=
  ((c.handles party).out.map (c.handles party).handleAt ++ (if c.armRec = some (party, l) then [0xFFFF] else [])).map
    (fun h => (party, l, h))

/-- Reset a lane: its copies are abandoned, its steps and context dropped; records for it, present and to come, are discarded
and counted for its former party. -/
def Chip.resetLane (c : Chip) (l : Nat) (former : Option Nat) : Chip :=
  let c := c.abortCopies l true
  let gone := c.lane.recs.filter (fun r => r.lane == l)
  let c := { c with lane := { c.lane with
    lanes := terase c.lane.lanes l
    recs := c.lane.recs.filter (fun r => r.lane != l)
    inq := c.lane.inq.filter (fun q => q.1 != l)
    due := c.lane.due.filter (· != l) } }
  match former with
  | none => c
  | some p =>
    let c := gone.foldl (fun c r => (c.setHandles r.party ((c.handles r.party).free r.handle)).hstatCount p 31 24) c
    { c with lane := { c.lane with lost := c.lane.lost ++ c.lostWith p l } }

/-! ### Views -/

/-- LESTAT: lanes in RUN, guaranteed units with a step to do, and best-effort units with a copy in progress (R319). -/
def Chip.lestat (c : Chip) : Nat :=
  (c.lane.lanes.filter (fun q => q.2.st == .run)).length
  + Nat.min 8 (c.lane.inq.length + c.lane.due.length) * 2 ^ 14 + c.lane.copies.length * 2 ^ 18

/-- PINNED: descriptors in the pin store. -/
def Chip.pinnedCount (c : Chip) : Nat := (c.lane.lanes.filter (fun q => q.2.pin.isSome)).length

/-- HSTAT of a party. -/
def Chip.hstat (c : Chip) (party : Nat) : Nat :=
  (c.handles party).out.length + c.bank 0x090 0x184 party 0 / 2 ^ 16 * 2 ^ 16

end Sys2Proof.Machine
end

