-- ==== Sys2Proof/Machine/Launch.lean ====
section
/-! DEFINITION. The launch controller's commands: the journal and its anchor, authorization by role, and long operations (R49,
R358 to R365, R437). -/

namespace Sys2Proof.Machine

/-- A fresh free value. (DESIGN CHOICE, log entry 5) -/
def Chip.draw (c : Chip) : Chip × Nat := ({ c with free := c.free + 1 }, Config.freeValue c.free)

/-! ### STATUS codes (R46, R49, R268, R341, R347, R367, R403, R416, R432, R440) -/

/-- DONE. -/
def stDone : Nat := 0x00
/-- BADFORMAT. -/
def stBadFormat : Nat := 0x01
/-- BADSIG. -/
def stBadSig : Nat := 0x02
/-- OWNERSHIP. -/
def stOwnership : Nat := 0x09
/-- BUSY. -/
def stBusy : Nat := 0x0C
/-- LATE. -/
def stLate : Nat := 0x0D
/-- ALIGN. -/
def stAlign : Nat := 0x0E
/-- PARTNER. -/
def stPartner : Nat := 0x0F
/-- ROLE. -/
def stRole : Nat := 0x10
/-- JOURNAL. -/
def stJournal : Nat := 0x11
/-- NOSPARE. -/
def stNoSpare : Nat := 0x13
/-- STATE. -/
def stState : Nat := 0x14
/-- MEMSTATE. -/
def stMemState : Nat := 0x19
/-- NOPARTITION. -/
def stNoPartition : Nat := 0x1A
/-- LIFECYCLE. -/
def stLifecycle : Nat := 0x1B
/-- ANCHOR. -/
def stAnchor : Nat := 0x1C
/-- WORLD. -/
def stWorld : Nat := 0x1D
/-- PROFILE. -/
def stProfile : Nat := 0x1F
/-- DIAGADDR. -/
def stDiagAddr : Nat := 0x20
/-- PARTIAL. -/
def stPartial : Nat := 0x21
/-- FAILED. -/
def stFailed : Nat := 0x22
/-- INTERRUPTED. -/
def stInterrupted : Nat := 0x23
/-- SCRUBECC. -/
def stScrubEcc : Nat := 0x24

/-! ### The journal (R361 to R365) -/

/-- Entries of the journal ring. -/
def journalRing : Nat := 131072

/-- The 64 words of an entry (R361). -/
def JEntry.words (e : JEntry) : List Word :=
  toWords 4 e.seq ++ toWords 4 e.time ++ [BitVec.ofNat 16 e.kind, BitVec.ofNat 16 e.role] ++ toWords 2 e.keyId
  ++ [BitVec.ofNat 16 e.code, BitVec.ofNat 16 e.status, BitVec.ofNat 16 e.epoch, BitVec.ofNat 16 e.step]
  ++ digestWords e.digest ++ digestWords e.prev

/-- The digest of an entry. -/
def JEntry.hash (e : JEntry) : Nat := sha384 e.words

/-- The journal head: the digest of the newest entry (R362). -/
def Chip.journalHead (c : Chip) : Nat :=
  match c.roles.newest with
  | none => 0
  | some e => e.hash

/-- Write a new entry; it chains to the one before it. -/
def Chip.journalNew (c : Chip) (kind role keyId code status digest : Nat) : Chip :=
  let r := c.roles
  let e : JEntry := ⟨r.jseq, c.now % 2 ^ 64, kind, role, keyId, code, status, r.epoch, r.step, digest, c.journalHead⟩
  let c := { c with roles := { r with
    journal := tset {} r.journal (r.jseq % journalRing) e, newest := some e, jseq := r.jseq + 1 } }
  c.bumpFld 0x007 0x182 31 0

/-- Replace the entry of a sequence number. -/
def Roles.putEntry (r : Roles) (seq : Nat) (e : JEntry) : Roles :=
  { r with journal := tset {} r.journal (seq % journalRing) e, newest := if r.jseq = seq + 1 then some e else r.newest }

/-- An entry chains to the one before it as that now stands; the first entry of a chain, whose PREV is zero, stays (R361,
R440). (DEDUCED, log entry 32) -/
def Roles.chainEntry (r : Roles) (seq : Nat) : Roles :=
  let e := tget {} r.journal (seq % journalRing)
  if e.prev = 0 then r else r.putEntry seq { e with prev := (tget {} r.journal ((seq - 1) % journalRing)).hash }

/-- Write the final STATUS of an entry still in the ring; the entries after it chain to it as it now stands (R361, R362).
(DEDUCED, log entry 32) -/
def Chip.journalEnd (c : Chip) (seq status : Nat) : Chip :=
  let r := c.roles
  let e := tget {} r.journal (seq % journalRing)
  if e.seq = seq ∧ seq < r.jseq then
    let after := (List.range (r.jseq - (seq + 1))).map (seq + 1 + ·)
    { c with roles := after.foldl Roles.chainEntry (r.putEntry seq { e with status := status }) }
  else c

/-- Events journaled as device records (R362, R396, R399, R431). -/
inductive DevEvent where
  | quarantine | substitution | retirement | unrun | dropped | freeze | remirror | handOver | worldRestart | roleChange
  | holdover | spareOut | deckleFailed | anchorLow | retiredPipe | chain | clock | config | boot
  deriving DecidableEq, Repr

/-- The model's number of an event, by which its record code is looked up. -/
def DevEvent.num : DevEvent → Nat
  | .quarantine => 0 | .substitution => 1 | .retirement => 2 | .unrun => 3 | .dropped => 4 | .freeze => 5
  | .remirror => 6 | .handOver => 7 | .worldRestart => 8 | .roleChange => 9 | .holdover => 10 | .spareOut => 11
  | .deckleFailed => 12 | .anchorLow => 13 | .retiredPipe => 14 | .chain => 15 | .clock => 16
  | .config => 17 | .boot => 18

/-- A device record: it advances no anchor (R362, R363). Its code and data are not given by the spec. -/
def Chip.deviceRecord (c : Chip) (e : DevEvent) : Chip :=
  { (c.journalNew 1 0 0 (Config.recordCode e.num).toNat stDone (Config.recordDigest e.num c.free)) with free := c.free + 1 }

/-- A device record whose data and STATUS a rule gives: DIGEST is that of the data (R361, R431, R442). Its code is not given by
the spec. -/
def Chip.dataRecord (c : Chip) (e : DevEvent) (status : Nat) (ws : List Word) : Chip :=
  c.journalNew 1 0 0 (Config.recordCode e.num).toNat status (sha384 ws)

/-- An alarm record, unacknowledged until an EVENT_ACK names it (R362, R365). -/
def Chip.alarmRecord (c : Chip) (e : DevEvent) : Chip :=
  let seq := c.roles.jseq
  let c := c.journalNew 2 0 0 (Config.recordCode e.num).toNat stDone (Config.recordDigest e.num c.free)
  { c with free := c.free + 1, roles := { c.roles with alarms := c.roles.alarms ++ [seq] } }

/-- Whether the anchor is exhausted (R364). -/
def Chip.anchorOut (c : Chip) : Bool := c.roles.step == 65535

/-- Advance STEP by one; source 0x32C at 61,440 and every further 1,024 steps, with a warning at the first (R362, R363).
(DEDUCED, log entry 32) -/
def Chip.anchorStep (c : Chip) : Chip :=
  let s := c.roles.step + 1
  let c := { c with roles := { c.roles with step := s } }
  let c := if 61440 ≤ s ∧ (s - 61440) % 1024 = 0 then c.raise 0x32C else c
  if s = 61440 then c.alarmRecord .anchorLow else c

/-! ### Authorization (R358, R359) -/

/-- The key number the maker credential stands under beside the 16 slots. (DEDUCED, log entry 33) -/
def makerSlot : Nat := 16

/-- A credential by slot. -/
def Chip.cred (c : Chip) (slot : Nat) : Cred := if slot = makerSlot then c.roles.maker else tget {} c.roles.creds slot

/-- Replace a credential. -/
def Chip.setCred (c : Chip) (slot : Nat) (x : Cred) : Chip :=
  if slot = makerSlot then { c with roles := { c.roles with maker := x } }
  else { c with roles := { c.roles with creds := tset {} c.roles.creds slot x } }

/-- The slot an enrolled credential of a KEYID stands in: an operator or installer slot, or the maker's. (DEDUCED, log entry
33) -/
def Chip.credSlot (c : Chip) (keyId : Nat) : Option Nat :=
  (List.range 17).find? (fun s =>
    let x := c.cred s
    x.keyId == keyId && (x.role == 1 || x.role == 2 || x.role == 3 && s == makerSlot))

/-- The UID quad. -/
def Chip.uidWords (c : Chip) : List Word := toWords 2 (c.live 0 0x100) ++ toWords 2 (c.live 0 0x102)

/-- What a command's signature covers: the UID quad, NONCE, the command code and the operand words. -/
def Chip.signed (c : Chip) (nonce code : Nat) (ops : List Word) : List Word :=
  c.uidWords ++ toWords 2 nonce ++ [BitVec.ofNat 16 code] ++ ops

/-- The slot that authorizes a command, if one does: enrolled, of a role with the right, with a fresh NONCE and a signature
that verifies. -/
def Chip.authorize (c : Chip) (q : Req) (code : Nat) (ops : List Word) (right : Nat → Bool) : Option Nat :=
  match c.credSlot q.keyId.toNat with
  | none => none
  | some s =>
    let x := c.cred s
    if right x.role && decide (x.nonce < q.nonce.toNat)
      && ecdsaOk x.x x.y (sha384 (c.signed q.nonce.toNat code ops)) q.r.toNat q.s.toNat
    then some s else none

/-- The right of an installer only (R359). -/
def installer (role : Nat) : Bool := role == 2

/-- The right of the maker only. -/
def makerOnly (role : Nat) : Bool := role == 3

/-! ### Commands and their answers -/

/-- How a command that acts ends: at once with STATUS and the rest of the record, later, or with no record. -/
inductive Answer where
  | now (status : Nat) (rest : List Word)
  | later (arg : Nat)
  | silent
  deriving DecidableEq, Repr

/-- Whether a code is that of a plan command. -/
def planCode (code : Nat) : Bool := decide (0x10 ≤ code) && decide (code ≤ 0x13)

/-- Post the completion record of a command; a refused plan command shows in PLANSTAT.LASTREF. -/
def Chip.answer (c : Chip) (q : Req) (code status : Nat) (rest : List Word) : Chip :=
  let c := if planCode code && status != 0 then c.setFld 0x005 0x100 15 8 status else c
  c.complete q.party.val q.lane.val q.handle.toNat code (BitVec.ofNat 16 status :: rest)

/-- Whether the launch controller serves a command now: the commands it finds in the launch mailbox it begins in the order in
which the lane engine passed them (R437). One that waits there comes once every one before it has begun; one that no lane has
passed is served as it comes. (DESIGN CHOICE, log entry 37) -/
def Chip.takesUp (c : Chip) (q : Req) : Bool :=
  let mine (m : MailCmd) : Bool := m.party == q.party.val && m.handle == q.handle.toNat
  let begun (m : MailCmd) : Bool := c.roles.ops.any (fun o => o.party == m.party && o.handle == m.handle)
  match c.lane.mail.find? (fun m => mine m || !begun m) with
  | some m => mine m || !c.lane.mail.any mine
  | none => true

/-- A command served in its turn (R437). -/
def Chip.served (c : Chip) (q : Req) (f : Chip → Chip) : Chip := if c.takesUp q then f c else c

/-- A long operation is outstanding from here on (R49). -/
def Chip.begin_ (c : Chip) (q : Req) (code seq arg : Nat) : Chip :=
  { c with roles := { c.roles with
    ops := c.roles.ops ++ [⟨code, q.party.val, q.lane.val, q.handle.toNat, some seq, arg⟩] } }

/-- Run a role command (R358, R362): refused with ROLE or JOURNAL, or journaled and then acted on by `body`. (DEDUCED, log
entry 32) -/
def Chip.roleCmd (c : Chip) (q : Req) (code : Nat) (ops : List Word) (right : Nat → Bool) (body : Chip → Chip × Answer) :
    Chip :=
  c.served q fun c =>
  match c.authorize q code ops right with
  | none => c.answer q code stRole []
  | some slot =>
    if c.anchorOut || !q.flash then c.answer q code stJournal []
    else
      let x := c.cred slot
      let c := (c.setCred slot { x with nonce := q.nonce.toNat }).anchorStep
      let seq := c.roles.jseq
      let c := c.journalNew 0 x.role q.keyId.toNat code 0xFF (sha384 ops)
      let (c, a) := body c
      match a with
      | .now st rest => (c.journalEnd seq st).answer q code st rest
      | .silent => c.begin_ q code seq 0
      | .later arg => c.begin_ q code seq arg

/-- Complete a long operation: its journal entry, its record, and it leaves the list. -/
def Chip.finishOp (c : Chip) (o : LongOp) (status : Nat) (rest : List Word) : Chip :=
  let c := match o.jseq with
    | some s => c.journalEnd s status
    | none => c
  let c := { c with roles := { c.roles with ops := c.roles.ops.filter (· != o) } }
  let c := if planCode o.code && status != 0 then c.setFld 0x005 0x100 15 8 status else c
  c.complete o.party o.lane o.handle o.code (BitVec.ofNat 16 status :: rest)

/-- The outstanding operation of a code and argument. -/
def Chip.opOf (c : Chip) (code arg : Nat) : Option LongOp := c.roles.ops.find? (fun o => o.code == code && o.arg == arg)

/-- Complete every outstanding operation of a code and argument. (DESIGN CHOICE, log entry 37) -/
def Chip.finishAll (c : Chip) (code arg status : Nat) (rest : List Word) : Chip :=
  (c.roles.ops.filter (fun o => o.code == code && o.arg == arg)).foldl (fun c o => c.finishOp o status rest) c

end Sys2Proof.Machine
end

