-- ==== Sys2Proof/Machine/Stops.lean ====
section
/-! DEFINITION. The stops of the rings, the agents at each, the hops between them, and the clock domains with the bounds of
their crossings (R10, R36, R288, R425). -/

namespace Sys2Proof.Machine

/-! ### Stops and hops (R10, R288) -/

/-- Stops on a ring. -/
def stops : Nat := 21

/-- Whether a ring is descending. -/
def ringDesc (r : Nat) : Bool := r % 2 == 1

/-- Hops from stop `a` to stop `b` on a ring. -/
def hopCount (r a b : Nat) : Nat := if ringDesc r then (a + stops - b) % stops else (b + stops - a) % stops

/-- The seats of a plan on a ring. -/
def Plan.seatsOf (p : Plan) (r : Nat) : List SeatE := tget [] p.seats r

/-- The stop `j` hops on from a stop on a ring. -/
def stopOn (r a j : Nat) : Nat := if ringDesc r then (a + 2 * stops - j % stops) % stops else (a + j) % stops

/-- The stop of a core of a powered eight. -/
def coreStop (core : Nat) : Nat := core / 8

/-- The stop of a QDR channel. -/
def qdrStop (ch : Nat) : Nat := 8 + ch

/-- The stop of an LPDDR controller. -/
def lpdStop (k : Nat) : Nat := 12 + k

/-- The lane engine's stop. -/
def laneStop : Nat := 14

/-- The event hub's stop. -/
def hubStop : Nat := 15

/-- The stop of the field ports. -/
def fieldStop : Nat := 16

/-- The stop of a plant port. -/
def plantStop (k : Nat) : Nat := 17 + k

/-- The pair link's stop. -/
def pairStop : Nat := 19

/-- The system stop. -/
def systemStop : Nat := 20

/-- The stop of a port as R307 numbers ports. -/
def portStop (port : Nat) : Nat := if port < 32 then fieldStop else if port < 34 then plantStop (port - 32) else pairStop

/-- The stop of a requester (R10, R455): a core's eight, the lane engine's, and the system stop for the launch controller and
the debug block. -/
def unitStop (unit : Nat) : Nat := if unit < 64 then coreStop unit else if unit = 65 then laneStop else systemStop

/-! ### Clock domains (R36) -/

/-- The clock domains between which R36 bounds crossings. -/
inductive Clk where
  | cclk | nclk | qclk | dclk | fclk | pclk10 | lclk | aclk
  deriving DecidableEq, Repr

/-- The period of a clock in units of 10^-4 ns. -/
def Clk.period : Clk → Nat
  | .cclk => 12500
  | .nclk => 10000
  | .qclk => 9375
  | .dclk => 18750
  | .fclk => 400000
  | .pclk10 => 64000
  | .lclk => 20000
  | .aclk => 100000

/-- A count of units of 10^-4 ns in whole units of 0.01 ns, rounded up. -/
def cents (t : Nat) : Nat := (t + 99) / 100

/-- The bound of a data crossing, in units of 0.01 ns: one period of the source and five of the destination (R36). -/
def crossing (a b : Clk) : Nat := cents (a.period + 5 * b.period)

/-- The bound of a single-bit crossing. -/
def bitCrossing (a b : Clk) : Nat := cents (a.period + 4 * b.period)

/-- The clock of the blocks at a stop. The lane engine and the event hub run on NCLK, the blocks of the system stop on ACLK. -/
def stopClk (s : Nat) : Clk :=
  if s < 8 then .cclk else if s < 12 then .qclk else if s < 14 then .dclk else if s < 16 then .nclk
  else if s = 16 then .fclk else if s < 19 then .pclk10 else if s = 19 then .lclk else .aclk

/-- Crossing from the rings into the blocks of a stop. -/
def crossIn (s : Nat) : Nat := if stopClk s = .nclk then 0 else crossing .nclk (stopClk s)

/-- Crossing from the blocks of a stop to its ring interface. -/
def crossOut (s : Nat) : Nat := if stopClk s = .nclk then 0 else crossing (stopClk s) .nclk

end Sys2Proof.Machine
end

