-- ==== Sys2Proof/WellFormed.lean ====
section
/-! DEFINITION. Which terms of `Instr` stand for a command of the spec: what the types of the operands do not already say. -/

namespace Sys2Proof

open Machine

/-- The stop an agent stands at (R10): cores in their eight's, the lane engine at 14, other requesters at the system stop. -/
def Machine.Agent.at_ : Machine.Agent → Nat
  | .unit u => if u.val < 64 then u.val / 8 else if u.val = 65 then 14 else 20
  | .block s => s.val

/-- Whether the operands of a command are ones its row can have: the fields of an operation word are legal in its slot (R94), a
flit goes to another stop (R288), an LPDDR access has an address from the LPDDR base up (R446), a mirror table has a count that
a word holds (R403), a register access names a pair (R105) and a safe point is one of R452. (DESIGN CHOICE, log entry 12) -/
def Instr.wf : Instr → Bool
  | .bundleIssue _ => true
  | .resultLanding _ => true
  | .aluOperation _ onB o => opLegal (if onB then .b else .a) (.alu o)
  | .immediateOperation _ onB o => opLegal (if onB then .b else .a) (.imm o)
  | .movi _ onB o => opLegal (if onB then .b else .a) (.movi o)
  | .br _ _ => true
  | .bc _ _ _ => true
  | .bz _ _ _ => true
  | .bnz _ _ _ => true
  | .call _ _ => true
  | .bri _ _ => true
  | .calli _ _ => true
  | .ret _ => true
  | .load _ o => opLegal .l (.load o)
  | .store _ o => opLegal .l (.store o)
  | .movo _ _ => true
  | .fld _ _ => true
  | .fst _ _ => true
  | .farOperationComplete _ => true
  | .lseg _ sg ws => opLegal .l (.lseg sg ws)
  | .mfs _ _ _ => true
  | .casp _ _ => true
  | .mul _ o => opLegal .m (.mul o)
  | .div _ o => opLegal .m (.div o)
  | .mulq15 _ o => opLegal .m (.mulq o)
  | .fadd _ o => opLegal .m (.fp .add o)
  | .fsub _ o => opLegal .m (.fp .sub o)
  | .fmul _ o => opLegal .m (.fp .mul o)
  | .fma _ o => opLegal .m (.fma false o)
  | .fmsb _ o => opLegal .m (.fma true o)
  | .fmin _ o => opLegal .m (.fp .min o)
  | .fmax _ o => opLegal .m (.fp .max o)
  | .fneg _ o => opLegal .m (.fp .neg o)
  | .fabs _ o => opLegal .m (.fp .abs o)
  | .fcmp _ o => opLegal .m (.fp .cmp o)
  | .fcmps _ o => opLegal .m (.fp .cmps o)
  | .fclass _ o => opLegal .m (.fp .class o)
  | .frec _ o => opLegal .m (.fp .frec o)
  | .frsq _ o => opLegal .m (.fp .frsq o)
  | .fcvt _ o => opLegal .m (.fcvt o)
  | .vmac _ o => opLegal .m (.vmac o)
  | .vfma _ o => opLegal .m (.vfma o)
  | .sweepLaneOperation _ o => opLegal .m (.sweep o)
  | .vext _ o => opLegal .m (.vext o)
  | .vaput _ o => opLegal .m (.vaput o)
  | .mfc _ creg xr => opLegal .b (.mfc creg xr)
  | .mtc _ creg xr => opLegal .b (.mtc creg xr)
  | .mtcSelector _ _ _ => true
  | .pkeyhWrite _ _ => true
  | .tlbrdWrite _ _ => true
  | .wcctlInv _ _ => true
  | .rep _ _ => true
  | .repi _ => true
  | .syse _ _ _ => true
  | .sysr _ => true
  | .eret _ => true
  | .wend _ => true
  | .tlbw _ _ => true
  | .tlbi _ _ => true
  | .twalk _ _ => true
  | .prefd _ _ => true
  | .prefi _ _ => true
  | .pref2 _ _ => true
  | .dcwb _ _ => true
  | .dcinv _ _ => true
  | .dcwbi _ _ => true
  | .icinv _ _ => true
  | .dlock _ _ => true
  | .dunlk _ _ => true
  | .ilock _ _ => true
  | .iunlk _ _ => true
  | .mbar _ kind => opLegal .b (.mbar kind)
  | .pflush _ _ => true
  | .pbar _ => true
  | .predictorUpdate _ => true
  | .fetchAhead _ => true
  | .fillArrival _ _ => true
  | .uncachedReply _ _ _ => true
  | .exceptionEntry _ => true
  | .coreWake _ => true
  | .catchInstant _ => true
  | .windowStart _ _ => true
  | .closingInstant _ => true
  | .nistall _ => true
  | .planLoad _ _ _ => true
  | .planArm _ _ => true
  | .planDisarm _ => true
  | .planDiscard _ => true
  | .clearingComplete _ => true
  | .eightPowerDown _ => true
  | .coreSelfTestComplete _ _ => true
  | .arrayMove _ _ => true
  | .arrayCopyComplete _ => true
  | .coreSubst _ _ => true
  | .coreTest _ _ => true
  | .agingSample _ _ => true
  | .lockstepMismatch _ _ _ => true
  | .eventOccurrence _ => true
  | .hubEvaluation => true
  | .moderationTimerExpiry _ => true
  | .iack _ => true
  | .ieoi _ _ => true
  | .cfgw _ _ => true
  | .swset _ _ => true
  | .groupWrite _ _ _ => true
  | .flitArrival _ _ _ _ => true
  | .flitPlacement _ _ f => f.flit.all (fun a => a.agent.at_ == f.stop.val && a.dst != f.stop)
  | .acceptanceMark _ _ _ => true
  | .responseTimeout o => (match o.who with
    | .core a _ => a.val / 8
    | .lane _ => 14
    | .other a => a.at_) != o.dst.val
  | .lstatWrite _ _ _ => true
  | .doorbell _ _ _ => true
  | .messageCopy _ => true
  | .lnrd _ => true
  | .pinnedInboundStep _ => true
  | .pinnedOutboundStep _ => true
  | .commandSubmission _ => true
  | .completionRecord _ => true
  | .qdrAccess _ => true
  | .qdrWindowStart _ _ => true
  | .qdrRecalibration _ => true
  | .qdrPatrolScrub _ _ => true
  | .lpddrRead r => decide (lpdBase ≤ r.addr.toNat)
  | .lpddrWrite r => decide (lpdBase ≤ r.addr.toNat)
  | .mr4Reading _ _ => true
  | .lpddrRefresh _ _ _ _ => true
  | .memDiag _ _ _ _ => true
  | .memRemirror _ _ => true
  | .remirrorComplete _ => true
  | .arrayScrub _ _ => true
  | .handOverClaim _ _ _ => true
  | .restartWorkComplete _ => true
  | .partStart _ _ => true
  | .partStop _ _ => true
  | .partRestart _ _ => true
  | .worldRestart _ _ => true
  | .dwkick _ => true
  | .deckleWatchdogExpiry => true
  | .deckleWorldRestart _ _ => true
  | .gatereq _ _ => true
  | .attest _ _ _ => true
  | .eventAck _ _ => true
  | .journalRead _ _ _ _ => true
  | .credEnrol _ _ _ _ _ _ => true
  | .credRevoke _ _ => true
  | .policySet _ _ _ => true
  | .fwUpdate _ _ _ => true
  | .lifecycle _ _ => true
  | .anchorRenew _ => true
  | .sampleInstant _ _ => true
  | .transmitInstant _ _ => true
  | .fieldFrameReceived _ _ _ _ => true
  | .supervisorConversion _ _ _ _ _ => true
  | .rearm _ _ => true
  | .softStartEnd _ => true
  | .fieldLinkChange _ _ _ _ _ _ => true
  | .portProfile _ _ _ _ _ => true
  | .pairBind _ _ => true
  | .pairMirror _ _ _ _ _ mirs => decide (mirs.length < 65536)
  | .gateControlEntry _ _ => true
  | .plantFrameReceived _ _ _ _ => true
  | .trainingTimeout _ => true
  | .streamRecoveryReset _ _ => true
  | .gptpMessage _ => true
  | .tbAlarm _ => true
  | .tbStep _ => true
  | .tbnowlRead _ => true
  | .align _ => true
  | .attention _ => true
  | .pairFlit _ => true
  | .linkLoss => true
  | .laneFailure _ => true
  | .yieldMessage => true
  | .mirrorStart => true
  | .trigger _ => true
  | .wakeEnd => true
  | .traceFire _ _ => true
  | .traceOverflow _ => true
  | .frameSend _ => true
  | .diagWrite _ _ _ _ => true
  | .diagRead _ _ _ _ _ => true
  | .counterOverflow _ _ => true
  | .pmcntRead _ _ _ => true
  | .pmcntWrite _ _ _ _ _ => true
  | .blockCounterWindowEnd => true
  | .snapshotArm _ _ => true
  | .finishSnapshot => true
  | .thaw _ => true
  | .porReset => true
  | .warmReset => true
  | .chipReset _ => true
  | .firmwareWatchdogExpiry => true
  | .tapReset => true
  | .clockFault _ => true
  | .holdoverEntry => true
  | .holdoverExit => true
  | .powerGoodFall _ => true
  | .safeRetry => true
  | .stepRom _ _ => true
  | .stepFlash _ => true
  | .stepFirmware _ _ => true
  | .stepCredentials _ => true
  | .stepClocks _ => true
  | .stepQdr _ => true
  | .stepLpddr _ => true
  | .stepWorlds _ _ => true
  | .stepField _ => true
  | .stepPlant _ => true
  | .stepAdmit _ => true
  | .stepPair => true
  | .stepRelease => true
  | .commitGo _ _ => true
  | .safePointLoad _ sp => sp != .none_
  | .errinjArm _ _ _ => true
  | .rcRead _ _ off => off.val % 2 == 0
  | .registerWrite _ _ off _ => off.val % 2 == 0
  | .lpddrPatrolScrub _ _ => true
  | .qdrWindowEnd _ => true
  | .plantLinkChange _ _ => true
  | .serdesPllRelock _ _ => true
  | .pairLaneRetrained _ => true
  | .eightPowerUpComplete _ => true
  | .timeSourceLost => true
  | .backupRailLoss _ => true

end Sys2Proof
end

