-- ==== Sys2Proof/Machine/Rings.lean ====
section
/-! DEFINITION. The rings: routes, seats, placement, arrival, acceptance marks and response timeouts (R288 to R303). -/

namespace Sys2Proof.Machine

/-- NCLK in a stroke: one NCLK is 1 ns (R425). -/
def Chip.strokeNclk (c : Chip) : Nat := ((c.livePlan.map Plan.stroke).getD 1000) * 1000

/-! ### Routes (R295, R296) -/

/-- A key of the route table. -/
structure RouteKey where
  party : Nat
  dst   : Nat
  vn    : Nat
  deriving DecidableEq, Repr

/-- An entry of the route table: key and ring. -/
structure Route where
  key  : RouteKey
  ring : Nat
  deriving DecidableEq, Repr

/-- The route table of a stop: one entry for each distinct key that a seat of the stop names, with the ring of the seat. -/
def Plan.routes (p : Plan) (stop : Nat) : List Route :=
  (List.range 4).foldl (fun rs r =>
    (p.seatsOf r).foldl (fun rs s =>
      let k : RouteKey := ⟨s.party, s.dst, s.vn⟩
      if s.valid && s.src == stop && !rs.any (fun e => e.key == k) then rs ++ [⟨k, r⟩] else rs) rs) []

/-- The default route: pair 0 for request and notify, pair 1 for response and management, in the direction of fewer hops. -/
def defaultRing (src dst vn : Nat) : Nat :=
  let pair := if vn = 0 || vn = 2 then 0 else 1
  2 * pair + (if hopCount (2 * pair) src dst ≤ hopCount (2 * pair + 1) src dst then 0 else 1)

/-- The ring a flit takes (R295). -/
def Chip.routeOf (c : Chip) (f : Flit) : Nat :=
  if f.launch then defaultRing f.src f.dst f.vn
  else match (c.livePlan.map (fun p => p.routes f.src)).getD [] |>.find? (fun e => e.key == ⟨f.party, f.dst, f.vn⟩) with
    | some e => e.ring
    | none => defaultRing f.src f.dst f.vn

/-! ### Agents, networks and classes (R10, R290 to R292) -/

namespace Agent

/-- The stop whose ring interface an agent sends through. -/
def stop (a : Agent) : Nat := a.at_

end Agent

namespace Traffic

/-- The virtual network that carries a kind of traffic (R291). -/
def vn : Traffic → Nat
  | .access | .farOp | .laneStep | .planned => 0
  | .reply _ => 1
  | .notice | .handOff => 2
  | .management => 3

/-- Whether a kind of traffic is guaranteed (R292). -/
def guar : Traffic → Bool
  | .farOp | .laneStep | .handOff | .planned => true
  | .reply g => g
  | .access | .notice | .management => false

/-- Whether an agent sends a kind of traffic to a stop (R291, R292): cores, L2s, the debug block, the lane engine and the pair
link make accesses; a core its far operations to QDR; the lane engine the steps of its lanes; the field ports hand off to the
lane engine; occurrences go to the event hub; the plan schedules traffic for the plant ports and the pair link; and traffic of
the launch controller comes from it or answers it. -/
def sends (k : Traffic) (a : Agent) (dst : Nat) : Bool :=
  match k, a with
  | .access, .unit u => u.val != 64
  | .access, .block s => decide (s.val < 8) || s.val == laneStop || s.val == pairStop
  | .farOp, .unit u => decide (u.val < 64) && decide (8 ≤ dst) && decide (dst < 12)
  | .laneStep, .unit u => u.val == 65
  | .laneStep, .block s => s.val == laneStop
  | .reply _, .block _ => true
  | .notice, .block _ => dst == hubStop
  | .notice, .unit u => u.val == 65 && dst == hubStop
  | .handOff, .block s => s.val == fieldStop && dst == laneStop
  | .planned, .block s => decide (17 ≤ s.val) && decide (s.val ≤ 19)
  | .management, .unit u => u.val == 64
  | .management, .block _ => dst == systemStop
  | _, _ => false

end Traffic

/-- Whether a flit is one that its agent can offer: of a kind it sends to that stop, and not to its own. -/
def FlitArg.legal (f : FlitArg) : Bool := f.kind.sends f.agent f.dst.val && f.dst.val != f.agent.stop

/-- The key of a sequence: destination, source, agent, class and network (R301). -/
def seqKey (f : Flit) : Nat := (((f.dst * 32 + f.src) * 128 + f.agent) * 2 + b2n f.guar) * 4 + f.vn

/-- The flit of an offer; its source numbers the flits of each agent, class and network to a stop (R290, R301). -/
def Chip.flitOf (c : Chip) (a : FlitArg) : Flit :=
  let f : Flit := { src := a.agent.stop, dst := a.dst.val, vn := a.kind.vn, party := a.party.val, guar := a.kind.guar
                    launch := a.kind == .management, agent := a.agent.code, seq := 0, tag := a.tag.toNat, data := a.data }
  { f with seq := tget 0 c.rings.sent (seqKey f) }

/-- An agent offers a flit: it waits at the ring its route names (R295, R300). A new request under the tag of one whose
response timed out takes the tag back (R290, R303). -/
def Chip.offer (c : Chip) (a : FlitArg) : Chip :=
  if !a.legal then c
  else
    let f := c.flitOf a
    let late := if f.vn == 1 then c.rings.late else c.rings.late.filter (· != (f.src, f.dst, f.tag))
    { c with rings := { c.rings with
      waiting := c.rings.waiting ++ [(c.routeOf f, f)], sent := tset 0 c.rings.sent (seqKey f) (f.seq + 1), late := late } }

/-! ### Seats and slots (R297 to R300) -/

/-- Seats per frame. -/
def frameSeats : Nat := 512

/-- The frame cycle of an instant, which restarts at each catch. -/
def Chip.frameCycle (c : Chip) (t : Nat) : Nat :=
  let d := t - c.catchAt
  (if d < c.strokeNclk then d else d - c.strokeNclk) % frameSeats

/-- The plan whose seats are live at an instant: past a catch at which a committed switch is due, those of the armed plan (R52,
R297). -/
def Chip.planAt (c : Chip) (t : Nat) : Option Plan :=
  let next := c.catchAt + c.strokeNclk
  if next ≤ t ∧ c.committed ∧ c.armedAt = some next then c.altBank.plan else c.livePlan

/-- The seat of a ring at an instant. -/
def Chip.seatAt (c : Chip) (r t : Nat) : Option SeatE :=
  match c.planAt t with
  | none => none
  | some p => ((p.seatsOf r)[c.frameCycle t]?).filter SeatE.valid

/-- Whether seated flits may be placed: not in the last 44 NCLK before a catch (R299). -/
def Chip.seatsOpen (c : Chip) (t : Nat) : Bool := decide (t - c.catchAt + 44 < c.strokeNclk)

/-- Whether a flit in flight lies in the slot position at a stop (R289, R301): up to its destination, or all the way round once
refused. -/
def Flight.atStop (f : Flight) (r stop t : Nat) : Bool :=
  f.ring == r && decide (f.t ≤ t)
  && (let j := hopCount r f.flit.src stop
      let reach := if f.taken == some false then stops else f.hops
      f.t + 2 * j == t && decide (j < reach))

/-- Whether the slot position `i` hops on in a flight from a stop is a position of a seat whose first position is still to
come: `j` counts the hops from the seat's source (R297). -/
def Chip.seatCrosses (c : Chip) (r stop t i j : Nat) : Bool :=
  let at_ := stopOn r stop i
  let t0 := t + 2 * i - 2 * j
  decide (2 * j ≤ t + 2 * i) && decide (t < t0)
  && (match c.seatAt r t0 with
      | none => false
      | some s => hopCount r s.src at_ == j && decide (j < hopCount r s.src s.dst))

/-- Whether some position of a flight of `h` hops from a stop is one of a seat whose first position is still to come (R297). -/
def Chip.hitsSeat (c : Chip) (r stop t h : Nat) : Bool :=
  (List.range h).any (fun i => (List.range stops).any (c.seatCrosses r stop t i))

/-- Flits of a source in the retention buffer of a ring and network: in flight, or refused and to be placed again (R301,
R302). -/
def Chip.retained (c : Chip) (r src vn : Nat) : Nat :=
  (c.rings.flights.filter (fun f => f.ring == r && f.flit.src == src && f.flit.vn == vn)).length
  + (c.rings.resend.filter (fun q => q.1 == r && q.2.src == src && q.2.vn == vn)).length

/-- A flit passes the ring interface of a stop that R422 counts: 32 data bytes. -/
def Chip.flitCount (c : Chip) (stop dir : Nat) : Chip :=
  if stop ≤ 7 || stop == 14 || stop == 15 || stop == 20 then c.blkCount stop 0 dir 32 else c

/-- Put a flit into the slot. -/
def Chip.putFlit (c : Chip) (r t : Nat) (f : Flit) : Chip :=
  let x : Flight := ⟨r, t, hopCount r f.src f.dst, f, none⟩
  ({ c with rings := { c.rings with flights := c.rings.flights ++ [x] } }).flitCount f.src 1

/-- Remove the first element of which a test holds. -/
def dropFirst {α : Type} (p : α → Bool) : List α → List α
  | [] => []
  | x :: xs => if p x then xs else x :: dropFirst p xs

/-- The key of the buffers and turns of a ring, stop and network. -/
def inKey (r stop vn : Nat) : Nat := (r * 32 + stop) * 4 + vn

/-- Whether two flits are of one sequence, within which order holds (R294, R301). -/
def Flit.follows (f g : Flit) : Bool := seqKey f == seqKey g

/-- The first flit of each sequence among some, in their order. -/
def firstOfEach (l : List Flit) : List Flit :=
  l.foldl (fun fs f => if fs.any f.follows then fs else fs ++ [f]) []

/-- The flits of a stop that wait for a slot of a ring. -/
def waitingAt (l : List (Nat × Flit)) (r stop : Nat) : List Flit :=
  (l.filter (fun q => q.1 == r && q.2.src == stop)).map Prod.snd

/-- Insert a flit by the turn of its agent: `last` had the last turn. -/
def byTurn (last : Nat) (f : Flit) : List Flit → List Flit
  | [] => [f]
  | g :: gs =>
    let wait (x : Flit) : Nat := (x.agent + 127 - last) % 128
    if wait f < wait g then f :: g :: gs else g :: byTurn last f gs

/-- The best-effort flits a stop may place next in a slot of a ring, in the order R300 gives: those refused and returned; then
by network, and within one by the turns of the agents, the first of each sequence that none refused precedes. -/
def Chip.bestEffort (c : Chip) (r stop : Nat) : List Flit :=
  let back := firstOfEach (waitingAt c.rings.resend r stop)
  let heads := (firstOfEach ((waitingAt c.rings.waiting r stop).filter (fun f => !f.guar))).filter (fun f =>
    !back.any f.follows && decide (c.retained r stop f.vn < 46))
  back ++ [3, 1, 2, 0].flatMap (fun vn =>
    (heads.filter (fun f => f.vn == vn)).foldl (fun l f => byTurn (tget 127 c.rings.turn (inKey r stop vn)) f l) [])

/-- The guaranteed flit that goes into the seat of a stop at an instant (R299, R300). -/
def Chip.seated (c : Chip) (r stop t : Nat) : Option Flit :=
  match c.seatAt r t with
  | some s =>
    if s.src == stop && c.seatsOpen t then
      (waitingAt c.rings.waiting r stop).find? (fun f =>
        f.guar && f.party == s.party && f.dst == s.dst && f.vn == s.vn && decide (c.retained r stop f.vn < 46))
    else none
  | none => none

/-- The flit a ring interface places in the slot at its stop at an instant, if any (R297, R300): a guaranteed one in its seat,
else the first best-effort flit that the slot is free for. -/
def Chip.placed (c : Chip) (r stop t : Nat) : Option Flit :=
  if c.rings.flights.any (fun q => q.atStop r stop t) then none
  else match c.seated r stop t with
    | some f => some f
    | none => (c.bestEffort r stop).find? (fun f => !c.hitsSeat r stop t (hopCount r stop f.dst))

/-- The flit leaves the queue it waited in: that of the refused ones, or that of its agent, whose turn it was. -/
def Chip.unqueue (c : Chip) (r : Nat) (f : Flit) : Chip :=
  let mine := fun (q : Nat × Flit) => q.1 == r && decide (q.2 = f)
  if c.rings.resend.any mine then { c with rings := { c.rings with resend := dropFirst mine c.rings.resend } }
  else
    let turn := if f.guar then c.rings.turn else tset 127 c.rings.turn (inKey r f.src f.vn) f.agent
    { c with rings := { c.rings with waiting := dropFirst mine c.rings.waiting, turn := turn } }

/-- FLIT_PLACEMENT: at an instant `dt` NCLK after the catch a ring interface takes the flit offered and fills the slot at its
stop (R300). -/
def Chip.placeFlit (c : Chip) (r stop dt : Nat) (offered : Option FlitArg) : Chip :=
  let c := match offered with
    | some a => if a.agent.stop = stop then c.offer a else c
    | none => c
  let t := c.catchAt + dt
  match c.placed r stop t with
  | some f => (c.unqueue r f).putFlit r t f
  | none => c

/-! ### Arrival and marks (R290, R301) -/

/-- Log the first error of a ring since VALID was cleared. -/
def Chip.ringLog (c : Chip) (r src dst vn party : Nat) (header timeout : Bool) : Chip :=
  let pg := 0x080 + r
  if c.fld pg 0x104 20 20 = 1 then c
  else c.setLive pg 0x104
    (src + dst * 2 ^ 5 + vn * 2 ^ 10 + party * 2 ^ 12 + b2n header * 2 ^ 18 + b2n timeout * 2 ^ 19 + 2 ^ 20)

/-- The flight of a flit placed on a ring by a stop `dt` NCLK after the catch, or before it. -/
def Chip.flightOf (c : Chip) (r src t : Nat) : Option Flight :=
  c.rings.flights.find? (fun f => f.ring == r && f.flit.src == src && f.t == t)

/-- Replace a flight. -/
def Chip.setFlight (c : Chip) (f g : Flight) : Chip :=
  { c with rings := { c.rings with flights := c.rings.flights.map (fun q => if q = f then g else q) } }

/-- Count an uncorrectable flit, log it and raise the ring's source. -/
def Chip.ringError (c : Chip) (f : Flight) (header : Bool) : Chip :=
  ((c.bumpFld (0x080 + f.ring) 0x102 23 16).ringLog f.ring f.flit.src f.flit.dst f.flit.vn f.flit.party header false).raise
    (0x31C + f.ring)

/-- Flits an inbound buffer still holds at an instant: its block takes one at each instant of the list, 16 NCLK after an entry.
(DEDUCED, log entry 21) -/
def heldInbound (l : List Inbound) (t : Nat) : List Inbound := l.filter (fun q => t < q.t)

/-- A flit enters an inbound buffer: the block takes the guaranteed flits ahead of the best-effort ones (R301). -/
def enqueue (l : List Inbound) (now : Nat) (f : Flit) : List Inbound :=
  let fs := if f.guar then (l.map (·.flit)).filter Flit.guar ++ [f] ++ (l.map (·.flit)).filter (fun g => !g.guar)
    else l.map (·.flit) ++ [f]
  List.zipWith (fun t g => ⟨t, g⟩) (l.map (·.t) ++ [now + 16]) fs

/-- The stop of who waits for a response. -/
def Waiter.stop : Waiter → Nat
  | .core a _ => coreStop a.val
  | .lane _ => laneStop
  | .other a => a.stop

/-- FLIT_ARRIVAL at the ring interface: the flit a stop placed at TB instant `t` enters its destination's buffer, or is
refused; every flit of a response that comes after its time-out is discarded (R290, R301, R303). (DEDUCED, log entry 21) -/
def Chip.flitArrival (c : Chip) (r src t : Nat) (err : FlitErr) : Chip :=
  match c.flightOf r src t with
  | none => c
  | some f =>
    if f.taken.isSome then c
    else
      let now := f.t + 2 * f.hops + 4
      let c := if err == .corrected then c.bumpFld (0x080 + r) 0x102 15 0 else c
      if err == .header then (c.ringError f true).setFlight f { f with taken := some true }
      else
        let bad := match err with
          | .data _ => true
          | _ => false
        let c := if bad then c.ringError f false else c
        let fl := { f.flit with poison := f.flit.poison || bad }
        let k := inKey r fl.dst fl.vn
        let held := heldInbound (tget [] c.rings.inbound k) now
        let ok := fl.guar || (decide (held.length + 1 + 8 ≤ 16) && tget 0 c.rings.seqs (seqKey fl) == fl.seq)
        if ok then
          let seqs := if fl.guar then c.rings.seqs else tset 0 c.rings.seqs (seqKey fl) (fl.seq + 1)
          let c := (c.setFlight f { f with taken := some true }).flitCount fl.dst 0
          let late := (fl.dst, fl.src, fl.tag)
          if fl.vn == 1 && c.rings.late.contains late then
            { c with rings := { c.rings with seqs := seqs } }
          else
            { c with rings := { c.rings with seqs := seqs, inbound := tset [] c.rings.inbound k (enqueue held now fl) } }
        else (c.bumpFld (0x080 + r) 0x106 31 0).setFlight f { f with taken := some false }

/-- A refused flit among those to be placed again: before the later flits of its sequence (R301). -/
def putBack (q : Nat × Flit) : List (Nat × Flit) → List (Nat × Flit)
  | [] => [q]
  | g :: gs => if g.1 == q.1 && g.2.follows q.2 && decide (q.2.seq < g.2.seq) then q :: g :: gs else g :: putBack q gs

/-- ACCEPTANCE_MARK: the mark of a flit reaches its source, which releases it or places it again (R301). -/
def Chip.flitMark (c : Chip) (r src t : Nat) : Chip :=
  match c.flightOf r src t with
  | none => c
  | some f =>
    match f.taken with
    | none => c
    | some ok =>
      let rs := { c.rings with flights := c.rings.flights.filter (fun q => !decide (q = f)) }
      { c with rings := if ok then rs else { rs with resend := putBack (r, f.flit) rs.resend } }

/-! ### Views -/

/-- RSTAT of a ring. -/
def Chip.rstat (c : Chip) : Nat := b2n (c.isLive && c.liveB) + c.frameCycle c.now * 2 ^ 10

/-- RTRD: the route entry RTSEL names. -/
def Chip.rtrd (c : Chip) : Nat :=
  let s := c.live 0x080 0x180
  let bank := if bitN s 13 then c.bankB else c.bankA
  let stop := bits s 4 0
  match bank.plan.bind (fun p => (p.routes stop)[bits s 12 5]?) with
  | none => 0
  | some e =>
    e.key.party + e.key.dst * 2 ^ 6 + e.key.vn * 2 ^ 11 + (e.ring / 2) * 2 ^ 13 + (e.ring % 2) * 2 ^ 14
      + hopCount e.ring stop e.key.dst * 2 ^ 15 + 2 ^ 31

end Sys2Proof.Machine
end

