-- ==== Sys2Proof/Machine/Gptp.lean ====
section
/-! DEFINITION. The link of a plant port and the best master clock algorithm over the two of them (R371, R387, R391). -/

namespace Sys2Proof.Machine

/-- The page of a plant port. -/
def pltPage (k : Nat) : Nat := 0x0F1 + k

/-- A plant port. -/
def Chip.pport (c : Chip) (k : Nat) : PPort := tget {} c.plt k

/-- The chip with a plant port replaced. -/
def Chip.setPport (c : Chip) (k : Nat) (p : PPort) : Chip := { c with plt := tset {} c.plt k p }

/-- Whether a plant port has link. -/
def Chip.pltLink (c : Chip) (k : Nat) : Bool := c.fld (pltPage k) 0x100 0 0 == 1

/-! ### Best master clock (R371) -/

/-- The rank of a clock as an announcement gives it: priority1, what else ranks clocks of one priority1, and the steps to it;
the lower ranks first. (PRESUMED, log entry 101) -/
def clockRank (prio1 rest steps : Nat) : Nat := (prio1 % 2 ^ 8 * 2 ^ 104 + rest % 2 ^ 104) * 2 ^ 16 + steps % 2 ^ 16

/-- The rank this chip announces: its TBCTL.PRIO1 where it may be grandmaster, else the last one. (PRESUMED, log entry 101) -/
def Chip.ownRank (c : Chip) : Nat :=
  clockRank (if c.fld 0x004 0x020 2 2 == 1 then c.fld 0x004 0x020 10 3 else 255) Config.clockRest 0

/-- Whether a plant port takes part in gPTP: TBCTL.PORTS names it and it has link. -/
def Chip.takesPart (c : Chip) (k : Nat) : Bool := bitN (c.fld 0x004 0x020 12 11) k && c.pltLink k

/-- The rank of the clock that was last announced on a port that takes part. -/
def Chip.heard (c : Chip) (k : Nat) : Option Nat := if c.takesPart k then (c.pport k).announced else none

/-- The port that follows the best clock announced, if one ranks before this chip. -/
def Chip.slavePort (c : Chip) : Option Nat :=
  match c.heard 0, c.heard 1 with
  | some a, some b => if c.ownRank < Nat.min a b then none else if b < a then some 1 else some 0
  | some a, none => if c.ownRank < a then none else some 0
  | none, some b => if c.ownRank < b then none else some 1
  | none, none => none

/-- The gPTP state of a plant port by the best master clock algorithm: 0 disabled, 1 master, 2 slave, 3 passive. A port that
does not follow is passive where what it hears ranks before what this chip relays. (PRESUMED, log entry 101) -/
def Chip.gptpState (c : Chip) (k : Nat) : Nat :=
  if !c.takesPart k then 0
  else match c.slavePort with
    | none => 1
    | some j =>
      if j = k then 2
      else match c.heard k, c.heard j with
        | some x, some y => if x < y + 1 then 3 else 1
        | _, _ => 1

/-- A port shows a gPTP state; its link source is raised where that changes it (R391). -/
def Chip.showGptp (c : Chip) (k x : Nat) : Chip :=
  let d := c.setFld (pltPage k) 0x100 4 3 x
  if c.fld (pltPage k) 0x100 4 3 = x then d else d.raise (0x300 + 4 * k)

/-- The states of both ports, and TBSTAT.GM, follow what has been announced. -/
def Chip.runGptp (c : Chip) : Chip :=
  let a := c.gptpState 0
  let b := c.gptpState 1
  let gm := c.fld 0x004 0x020 2 2 == 1 && (c.takesPart 0 || c.takesPart 1) && c.slavePort.isNone
  ((c.showGptp 0 a).showGptp 1 b).setFld 0x004 0x100 2 2 (b2n gm)

/-! ### Link and training (R387, R391) -/

/-- Training of a KR port starts (R387). -/
def Chip.pltTrain (c : Chip) (k : Nat) : Chip :=
  (c.setFld (pltPage k) 0x100 2 1 1).setPport k { c.pport k with trainAt := c.now }

/-- A plant port loses its link: what was announced on it is gone, and its link source is raised (R391). -/
def Chip.pltDown (c : Chip) (k : Nat) : Chip :=
  if !c.pltLink k then c
  else
    let c := (c.setFld (pltPage k) 0x100 0 0 0).setPport k { c.pport k with announced := none, delay := 0 }
    (c.raise (0x300 + 4 * k)).runGptp

/-- What PLTCFG has set in motion: a port that is not enabled drops its link; one that is, in KR mode and without link, trains
(R387). -/
def Chip.pltEnabled (c : Chip) (k : Nat) : Chip :=
  let cfg := c.live (pltPage k) 0x020
  if !bitN cfg 1 then (c.pltDown k).setFld (pltPage k) 0x100 2 1 0
  else if c.pltLink k || (bitN cfg 0 && c.fld (pltPage k) 0x100 2 1 != 0) then c
  else if bitN cfg 0 then c.pltTrain k else c.setFld (pltPage k) 0x100 2 1 0

end Sys2Proof.Machine
end

