-- ==== Sys2Proof/Machine/Staging.lean ====
section
/-! DEFINITION. Staged registers: commit, safe points, the values that replace others when a live copy loads, and what a load
sets in motion (R331, R335, R414, R450 to R453). -/

namespace Sys2Proof.Machine

/-- The offsets a row covers. -/
def RegD.offs (r : RegD) : List Nat := (List.range r.cnt).map (fun i => r.off + i * r.stride)

/-- The staged registers of a page that COMMIT captures, with their safe points; FPPROF is set by PORT_PROFILE only (R403). -/
def stagedOffs (page : Nat) : List (Nat × SafePt) :=
  match pageBlk page with
  | none => []
  | some (b, _) => ((regsOf b).filter (fun r => r.isStaged && !(b == .fp && 0x030 ≤ r.off && r.off ≤ 0x034))).flatMap
      (fun r => r.offs.map (fun o => (o, r.sp)))

/-- Offsets of the TRC page that name registers of the core TRSEL selects. -/
def trcBanked (page off : Nat) : Bool := page == 0x0F4 && decide (0x040 ≤ off) && decide (off < 0x080)

/-- What a register reads as that nothing has written; the encoder registers of every core reset alike. -/
def heldReset (page off : Nat) : Nat := if trcBanked page off then (if off = 0x040 then 6 else 0) else regReset page off

/-- The page a register is held under: the encoder registers of a core stand on a page of its own. -/
def Chip.heldPage (c : Chip) (page off : Nat) : Nat := if trcBanked page off then 0x800 + c.fld 0x0F4 0x030 5 0 else page

/-- The value a live copy loads in place of one a register table says acts as another (R451). -/
def replaced (page off v : Nat) : Nat :=
  match pageBlk page with
  | some (.qdr, _) =>
    if off = 0x020 ∧ bits v 1 0 = 3 then setBits v 1 0 2
    else if off = 0x022 ∧ 10 < bits v 4 1 then setBits v 4 1 10 else v
  | some (.lpd, _) =>
    if off = 0x028 then
      let v := if bits v 2 1 = 3 then setBits v 2 1 1 else v
      if 10 < bits v 7 4 then setBits v 7 4 10 else v
    else v
  | some (.eight, _) => if off = 0x020 ∧ bits v 1 0 = 3 then setBits v 1 0 1 else v
  | some (.fp, _) => if off = 0x022 ∧ 1492 < bits v 10 0 then setBits v 10 0 1492 else v
  | some (.pwr, _) => if off = 0x020 ∧ bits v 7 0 = 0 then setBits v 7 0 1 else v
  | some (.trc, _) =>
    if off = 0x022 ∧ bits v 19 16 < 4 then setBits v 19 16 4
    else if off = 0x026 ∧ 6 ≤ bits v 2 0 then setBits v 2 0 0 else v
  | some (.pmc, _) => if off = 0x026 ∧ bits v 19 0 = 0 then setBits v 19 0 1 else v
  | _ => v

/-- Whether a bank mask selects bit 7 + i and no other bit among bits 0 to 4 and 7 to 9 (R331). -/
def maskOk (i m : Nat) : Bool := bits m 4 0 == 0 && bits m 9 7 == 2 ^ i

/-- Every enabled trace encoder emits a SYNC as trace starts (R414). -/
def Chip.traceStart (c : Chip) : Chip := (List.range 64).foldl (fun c core => c.emitSyncAny core 4) c

/-- Whether the pair link is in GO. -/
def Chip.inGo (c : Chip) : Bool := c.pair.st == .go

/-- The pair link drops to SILENT with a cause (R394): what it had still to send, and the partner's decisions, are gone. -/
def Chip.pairDrop (c : Chip) (cause : Nat) : Chip :=
  let p := c.pair
  let p := { p with st := .silent, since := c.now, lanes := 0, spare := none, retrain := [], cause := cause, goAt := none,
                    peer := none, peerMir := none, replay := [], waiting := [], nakked := 0, report := [] }
  ({ c with pair := p }).raise 0x308

/-- The Deckle watchdog's period in ms. -/
def Chip.wdPeriod (c : Chip) : Nat := c.fld 0x006 0x020 15 0

/-- Start the watchdog afresh while its period is not 0 and the Deckle world is RUN (R354). -/
def Chip.wdLoad (c : Chip) : Chip :=
  { c with wdAt := if c.wdPeriod ≠ 0 ∧ c.deckle.st = .run then some c.now else none }

/-- A new period starts a watchdog that does not count, and 0 stops it; a count in progress goes on under the new period
(R354). (DESIGN CHOICE, log entry 87) -/
def Chip.wdPeriodLoaded (c : Chip) : Chip := if c.wdPeriod = 0 || c.wdAt.isNone then c.wdLoad else c

/-- What loading a register sets in motion: trace is enabled or disabled (R414), comparison mode is left (R335), the pair link
is disabled (R394), a plant port trains or loses link (R387), the Deckle watchdog starts or stops (R354). -/
def Chip.afterLoad (c : Chip) (page off : Nat) : Chip :=
  if page = 0x0F4 ∧ off = 0x020 then
    if c.fld 0x0F4 0x020 0 0 = 0 then c.setTrSt .off
    else if c.trace.st == .off then
      ((({ c with trace := { c.trace with wr := 0, drained := 0 } }).setLive 0x0F4 0x104 0).setTrSt .run).traceStart
    else c
  else if (page = 0x0E8 ∨ page = 0x0E9) ∧ off = 0x028 then
    if c.fld page 0x028 0 0 = 0 then
      let l := tget {} c.ext.lpd (page - 0x0E8)
      { c with ext := { c.ext with lpd := tset {} c.ext.lpd (page - 0x0E8) { l with fallback := true } } }
    else c
  else if page = 0x0F3 ∧ off = 0x020 ∧ c.fld 0x0F3 0x020 0 0 = 0 ∧ c.inGo = true then c.pairDrop 1
  else if (page = 0x0F1 ∨ page = 0x0F2) ∧ off = 0x020 then c.pltEnabled (page - 0x0F1)
  else if page = 0x006 ∧ off = 0x020 then c.wdPeriodLoaded
  else c

/-- Load a captured value into the live copy (R451 item 4). -/
def Chip.loadReg (c : Chip) (page off v : Nat) : Chip :=
  let p := c.heldPage page off
  if (page = 0x0E8 ∨ page = 0x0E9) ∧ (off = 0x022 ∨ off = 0x024 ∨ off = 0x026) then
    if maskOk ((off - 0x022) / 2) v then c.setLive p off v
    else (c.setLive p off (regReset page off)).setFld page 0x100 10 10 1
  else
    let w := replaced page off v
    let c := { c with regs := tset (heldReset page off) c.regs (regKey p off) w }
    let k := tget ({} : Capture) c.caps page
    let c := if w = v then c else c.setErr page 2 off true ⟨k.unit, k.party, 0⟩
    c.afterLoad page off

/-- The staged copy of a register. -/
def Chip.stagedVal (c : Chip) (page off : Nat) : Nat :=
  tget (heldReset page off) c.staged
    (regKey (c.heldPage page off) off)

/-- A write reaches the staged copy and sets DIRTY (R450, R451). -/
def Chip.setStaged (c : Chip) (page off v : Nat) : Chip :=
  let k := tget ({} : Capture) c.caps page
  { c with
    staged := tset (heldReset page off) c.staged
      (regKey (c.heldPage page off) off) v
    caps := tset ({} : Capture) c.caps page { k with dirty := true } }

/-- Whether a captured register with a safe point loads with the commit itself (R452). -/
def Chip.loadsNow (c : Chip) (sp : SafePt) : Bool :=
  match sp with
  | .commit => true
  | .tbctl => !c.isLive
  | _ => false

/-- The encoder registers of every core load with a commit of the TRC page. -/
def Chip.commitEncoders (c : Chip) : Chip :=
  (List.range 64).foldl (fun c core =>
    (((stagedOffs 0x0F4).filter (fun q => trcBanked 0x0F4 q.1))).foldl (fun c q =>
      let d := heldReset 0x0F4 q.1
      { c with regs := tset d c.regs (regKey (0x800 + core) q.1) (tget d c.staged (regKey (0x800 + core) q.1)) }) c) c

/-- A write of COMMIT.GO captures the staged set of a page; what loads with the commit itself loads at once (R451, R452). -/
def Chip.commitGo (c : Chip) (page : Nat) (rq : Requester) : Chip :=
  if (stagedOffs page).isEmpty then c
  else
    let c := { c with caps := tset ({} : Capture) c.caps page ⟨c.now, rq.unit, rq.party, false⟩ }
    let c := if page = 0x0F4 then c.commitEncoders else c
    ((stagedOffs page).filter (fun q => !trcBanked page q.1)).foldl (fun c q =>
      if c.loadsNow q.2 then c.loadReg page q.1 (c.stagedVal page q.1)
      else { c with captured := tset 0 c.captured (regKey page q.1) (c.stagedVal page q.1 + 1) }) c

/-- Load the captured registers of a page that a predicate selects. -/
def Chip.loadWhere (c : Chip) (page : Nat) (f : SafePt → Bool) : Chip :=
  ((stagedOffs page).filter (fun q => f q.2)).foldl (fun c q =>
    let k := regKey page q.1
    match tget 0 c.captured k with
    | 0 => c
    | v + 1 => ({ c with captured := tset 0 c.captured k 0 }).loadReg page q.1 v) c

/-- Whether the captured registers of a safe point load at a catch now (R452): a mirror table that waits for its switch catch
loads there and at no earlier catch, whatever becomes of GO (R51, R403). -/
def Chip.loadsAtCatch (c : Chip) (page : Nat) (sp : SafePt) : Bool :=
  decide ((tget ({} : Capture) c.caps page).at_ + 20 ≤ c.now) &&
  (match sp with
   | .catch_ | .tbctl => true
   | .pair => (match c.pair.swAt with
     | some t => t == c.catchAt
     | none => !c.inGo)
   | _ => false)

/-- Pages that hold captured registers. -/
def Chip.capturedPages (c : Chip) : List Nat := (c.caps.map Prod.fst).filter (fun p =>
  c.captured.any (fun e => e.1 / 0x800 == p))

/-- The safe point of the next catch, for every page (R452). -/
def Chip.loadCatch (c : Chip) : Chip := c.capturedPages.foldl (fun c p => c.loadWhere p (c.loadsAtCatch p)) c

/-- The safe point of a training (R452). -/
def Chip.loadTraining (c : Chip) (page : Nat) : Chip := c.loadWhere page (· == .training)

/-- The safe point a SAFE_POINT_LOAD names, for a page. -/
def Chip.loadPoint (c : Chip) (page : Nat) (sp : SafePt) : Chip :=
  match sp with
  | .training | .commit => c.loadWhere page (· == sp)
  | .tbctl => c.loadWhere page (fun q => q == .tbctl && (!c.isLive || c.loadsAtCatch page q))
  | _ => c.loadWhere page (fun q => q == sp && c.loadsAtCatch page q)

/-- Whether a captured register of a page awaits its safe point (COMMIT.PENDING). -/
def Chip.pendingCommit (c : Chip) (page : Nat) : Bool := c.captured.any (fun e => e.1 / 0x800 == page)

/-- A release or BLOCK reset discards the captures of a page and sets CLOST (R453). -/
def Chip.dropCaptures (c : Chip) (page : Nat) : Chip :=
  if c.pendingCommit page then
    let c := { c with captured := c.captured.filter (fun e => e.1 / 0x800 != page) }
    c.setErr page 3 0x00C false launchRq
  else c

/-- BLOCK reset: the registers of a page take their Reset-column values, but for BLKID, BLKVER, CAPS and OWNER (R433). -/
def Chip.blockReset (c : Chip) (page : Nat) : Chip :=
  let pending := c.pendingCommit page
  let out (e : Nat × Nat) : Bool := !(e.1 / 0x800 == page && e.1 % 0x800 != 0x006)
  let c := { c with
    regs := c.regs.filter out
    staged := c.staged.filter (fun e => e.1 / 0x800 != page)
    captured := c.captured.filter (fun e => e.1 / 0x800 != page)
    caps := terase c.caps page }
  if pending then c.setErr page 3 0x00C false launchRq else c

end Sys2Proof.Machine
end

