-- ==== Sys2Proof/Machine/Save.lean ====
section
/-! DEFINITION. Save areas of open contexts and their hub slices (R27, R178, R194, R280). -/

namespace Sys2Proof.Machine

/-- The first word of a context's save area in its core's tight memory. -/
def CtxE.area (x : CtxE) : Nat := x.saveBase * 64

/-- Words of a save area before the hub slice (R280). -/
def areaState : Nat := 0x1B8

/-- The words of a save area. -/
def Chip.areaWords (c : Chip) (core base n : Nat) : List Word := toWords n (c.tightRead core base n)

/-- Write words into tight memory. -/
def Chip.tightPut (c : Chip) (core base : Nat) (ws : List Word) : Chip := c.tightWrite core base ws.length (ofWords ws)

/-- The control registers that belong to a context (R119, R196, R227, R165). -/
def ctxCregs : List Nat :=
  [0x10, 0x11, 0x12, 0x13, 0x14] ++ (List.range 16).map (· + 0x20) ++ [0x42, 0x43, 0x44, 0x45, 0x46, 0x4E, 0x4F, 0x60, 0x62]

/-- Build a table from a list of numbers. -/
def tblOf {w : Nat} (ks : List Nat) (f : Nat → Nat) : Tbl (BitVec w) :=
  ks.foldl (fun t k => tset 0 t k (BitVec.ofNat w (f k))) []

/-- A segment register from fields of a save area. -/
def segOfArea (ws : List Word) (n : Nat) : SegReg :=
  ⟨BitVec.ofNat 16 (Config.savedField ws n), BitVec.ofNat 128 (Config.savedField ws (n + 1)),
   (Config.savedField ws (n + 2)) % 2 == 1⟩

/-- The bits that a control register of a context can hold: those of its table that are not reserved (R6, R119, R196, R227). -/
def cregHeld (n : Nat) : Nat :=
  match n with
  | 0x10 | 0x12 | 0x13 | 0x24 | 0x25 | 0x2A | 0x2B | 0x4E | 0x60 => 0xFFFF_FFFF
  | 0x11 => 0x3FF
  | 0x14 => 0x7FFF
  | 0x20 | 0x21 | 0x2D | 0x2E => 0xFFFF
  | 0x22 | 0x23 | 0x26 | 0x27 | 0x42 => 0xFFFF_FFF8
  | 0x28 | 0x29 => 0x1FF
  | 0x2C => 0x1FFF
  | 0x2F => 0xFFFF_0001
  | 0x43 => 0x3_FFFF
  | 0x44 => 0xFFFF_F000
  | 0x45 => 0x8000_000F
  | 0x46 => 0xFFF
  | 0x4F => 0x3FF
  | 0x62 => 7
  | _ => 0

/-- The architectural state that the words of a save area written by software or by an image restore. -/
def archOfArea (ws : List Word) : Arch :=
  let f (n : Nat) : Nat := Config.savedField ws n
  let cr : Tbl Pair := tblOf ctxCregs (fun k => f (0x200 + k) &&& cregHeld k)
  { w := tblOf (List.range 64) f
    v := tblOf (List.range 16) (fun k => f (0x40 + k))
    a := tblOf (List.range 32) (fun k => f (0x80 + k))
    lk := BitVec.ofNat 32 (f 0xA0), st := BitVec.ofNat 32 ((f 0xA1 &&& 0x1F0) + f 0xA6 % 3)
    fl := BitVec.ofNat 32 (f 0xA2 &&& 0x1F1F)
    ct := BitVec.ofNat 32 (f 0xA3), pc := BitVec.ofNat 32 (f 0xA4 / 8 * 8)
    seg := (List.range 8).foldl (fun t k => tset {} t k (segOfArea ws (0xB0 + 3 * k))) []
    creg := cr, eff := cr
    edesc := ([0x20, 0x21, 0x24, 0x25, 0x2A, 0x2B]).foldl (fun t k => tset {} t k (segOfArea ws (0x100 + 3 * k))) []
    br := if f 0xD0 % 2 = 1 then some ⟨BitVec.ofNat 32 (f 0xD1 / 8 * 8), 1 + f 0xD2 % 2, 0⟩ else none
    rep := if f 0xD3 % 2 = 1 then some ⟨false, f 0xD5 % 257⟩ else none
    hold := (List.range 16).map (fun i => BitVec.ofNat 16 (f (0xE0 + i))) }

/-! ### The hub slice (R280) -/

/-- The words 0x1B8 to 0x1FF of a save area for a slice. -/
def sliceWords (s : Slice) : List Word :=
  let st := s.stack.reverse
  toWords 2 s.tctl ++ toWords 2 s.modctl ++ toWords 2 s.wmask ++ toWords 2 s.cfgsel
  ++ (List.range 32).flatMap (fun i => match st[i]? with
    | some e => toWords 2 (e.id + e.pri * 2 ^ 10 + 2 ^ 31)
    | none => toWords 2 0)

/-- The pair at word `i` of a list. -/
def pairOf (ws : List Word) (i : Nat) : Nat := (ws.getD i 0).toNat + (ws.getD (i + 1) 0).toNat * 2 ^ 16

/-- The marks kept beside a saved stack: for each entry from the bottom the owner count of its source, none for a stale one. -/
def Hub.stackMarks (h : Hub) (s : Slice) : List (Option Nat) :=
  s.stack.reverse.map (fun e => if e.stale then none else some (tget 0 h.gen e.id))

/-- The slice that those words restore; the moderation timer starts afresh. An entry is current only if it was saved so and its
source has kept its owner since (R271). -/
def sliceOfWords (h : Hub) (marks : List (Option Nat)) (ws : List Word) : Slice :=
  let es := ((List.range 32).map (fun i => pairOf ws (8 + 2 * i))).filter (fun x => bitN x 31)
  { stack := ((es.zip (List.range 32)).map (fun x =>
      ⟨bits x.1 9 0, bits x.1 17 10, marks.getD x.2 none != some (tget 0 h.gen (bits x.1 9 0))⟩)).reverse
    tctl := bits (pairOf ws 0) 8 0, modctl := pairOf ws 2, wmask := pairOf ws 4, cfgsel := bits (pairOf ws 6) 9 0 }

/-- Save the slice of a core's running context into its area, with the marks of its stack, and put the reset values in its
place. The cores of a swing pair have one slice, the lower's. -/
def Chip.saveSlice (c : Chip) (core ctx base : Nat) : Chip :=
  let k := c.lowCore core
  let s := c.hub.slice k
  let c := c.setSaved core ctx { c.savedCtx core ctx with marks := c.hub.stackMarks s }
  let c := c.tightPut core (base + areaState) (sliceWords s)
  { c with hub := c.hub.setSlice k {} }

/-- The slice saved for a context. -/
def Chip.savedSlice (c : Chip) (core ctx base : Nat) : Slice :=
  sliceOfWords c.hub (c.savedCtx core ctx).marks (c.areaWords core (base + areaState) 72)

/-- Restore the slice of a core from a context's area. -/
def Chip.loadSlice (c : Chip) (core ctx base : Nat) : Chip :=
  { c with hub := c.hub.setSlice (c.lowCore core) (c.savedSlice core ctx base) }

/-! ### The architectural state (R27) -/

/-- The words the cox writes for an architectural state. -/
def archWords (a : Arch) : List Word := (List.range areaState).map (Config.saveWord a)

/-- Save the architectural state of a context. -/
def Chip.saveArch (c : Chip) (core ctx base : Nat) (a : Arch) : Chip :=
  let s := c.savedCtx core ctx
  (c.setSaved core ctx { s with arch := a, have_ := true, fresh := false }).tightPut core base (archWords a)

/-- The architectural state a save area restores: the one saved, unless its words have been written since. -/
def Chip.loadArch (c : Chip) (core ctx base : Nat) : Arch :=
  let s := c.savedCtx core ctx
  let ws := c.areaWords core base areaState
  if ws = archWords s.arch then s.arch else archOfArea ws

/-! ### Contexts written afresh (R349, R355, R478) -/

/-- Clear ACTIVE of the sources a saved slice had acknowledged, but for stale entries (R271, R280). -/
def Chip.dropSavedStack (c : Chip) (core ctx base : Nat) : Chip :=
  { c with hub := c.hub.dropStack (c.savedSlice core ctx base).stack }

/-- The reset state of an open context: every register clear, ST as its first window starts (R71), the program counter at
ENTRYOFF (R478), at the multiple of 8 below where it is none, PCTL 7 (R168). (DESIGN CHOICE, log entry 78) -/
def CtxE.resetArch (x : CtxE) (world : Bool) : Arch :=
  { st := BitVec.ofNat 32 (x.level + b2n world * 4), pc := BitVec.ofNat 32 (x.entryOff / 8 * 8)
    creg := [(0x62, 7)], eff := [(0x62, 7)] }

/-- Write a context of one core afresh from an image's 512 words, or from the reset state; the slice holds its reset values
either way (R280). -/
def Chip.writeFreshOne (c : Chip) (core ctx : Nat) (x : CtxE) (world : Bool) (img : Option (List Word)) : Chip :=
  let base := x.area
  let a := x.resetArch world
  let s := c.savedCtx core ctx
  let s := { s with arch := a, have_ := true, damaged := false, fresh := img.isNone, first := true, keyNew := true, marks := [] }
  let c := c.setSaved core ctx s
  c.tightPut core base ((match img with
    | some ws => ws.take areaState
    | none => archWords a) ++ sliceWords {})

/-- Write a context afresh; in swing its twin's as well (R263). -/
def Chip.writeFresh (c : Chip) (core ctx : Nat) (x : CtxE) (world : Bool) (img : Option (List Word)) : Chip :=
  let c1 := c.writeFreshOne core ctx x world img
  if c.inSwing (core / 8) && (core / 8) % 2 == 0 then c1.writeFreshOne (core + 8) ctx x world img else c1

end Sys2Proof.Machine
end

