-- ==== Sys2Proof/Machine/Worlds.lean ====
section
/-! DEFINITION. Worlds, partitions and their restarts, world images, clock and power requests, and the role commands (chapter
"Worlds, Parties and Roles", R342 to R367). -/

namespace Sys2Proof.Machine

/-! ### World images (R351, R352) -/

/-- A signed region: the words before its trailer of 50 words (R41). -/
def bodyOf (ws : List Word) : List Word := ws.take (ws.length - 50)

/-- The KEYID, r and s of a trailer (R41, R476). -/
def trailerOf (ws : List Word) : Nat × Nat × Nat :=
  let t := ws.drop (ws.length - 50)
  (pairOf t 0, ofWords ((t.drop 2).take 24), ofWords ((t.drop 26).take 24))

/-- Whether a signed region verifies against an enrolled credential of a role (2 installer, 3 maker). -/
def Chip.signedBy (c : Chip) (role : Nat) (ws : List Word) : Bool :=
  let t := trailerOf ws
  match c.credSlot t.1 with
  | none => false
  | some s =>
    let x := c.cred s
    decide (50 ≤ ws.length) && x.role == role && ecdsaOk x.x x.y (sha384 (bodyOf ws)) t.2.1 t.2.2

/-- An entry of a load table (R351): KIND, the bits above it, LEN and OFFSET. -/
structure LoadE where
  kind   : Nat
  entry  : Nat
  len    : Nat
  off    : Nat
  deriving DecidableEq, Repr

/-- The target of an entry, bits [63:16]. -/
def LoadE.target (e : LoadE) : Nat := bits e.entry 63 16

/-- The architectural core of a KIND 1 entry. -/
def LoadE.core (e : LoadE) : Nat := bits e.entry 21 16

/-- The context index of a KIND 1 entry. -/
def LoadE.ctx (e : LoadE) : Nat := bits e.entry 29 22

/-- The load table of an image. -/
def loadTable (ws : List Word) : List LoadE :=
  (List.range (pairOf ws 0x0A)).map (fun i =>
    let o := ofWords ((ws.drop (0x10 + 8 * i)).take 8)
    ⟨bits o 3 0, o, bits o 95 64, bits o 127 96⟩)

/-- The data of an entry. -/
def LoadE.data (e : LoadE) (ws : List Word) : List Word := (ws.drop e.off).take e.len

/-- Whether an image has the form of R351 for a world. -/
def imageForm (world : Bool) (ws : List Word) : Bool :=
  pairOf ws 0 == 0x574C_4449 && pairOf ws 2 == 0x0001_0000 && pairOf ws 4 == b2n world && pairOf ws 8 == ws.length
  && decide (ws.length ≤ 4 * 2 ^ 20)
  && decide (1 ≤ pairOf ws 0x0A) && decide (pairOf ws 0x0A ≤ 4096)
  && (loadTable ws).all (fun e => decide (e.kind ≤ 3) && (e.kind != 1 || e.len == 512))

/-- The watermark of an image (R352). -/
def watermark (ws : List Word) : Nat := sha384 (bodyOf ws)

/-! ### Owners by world -/

/-- The parties of a world in the live plan. -/
def Chip.partiesOf (c : Chip) (world : Bool) : List Nat :=
  match c.livePlan with
  | none => []
  | some p => (p.parties.filter (fun e => e.valid && e.world == world)).map PartyE.party

/-- Whether a party of a world owns every word of a range. -/
def Chip.worldOwns (c : Chip) (world : Bool) (a n : Nat) : Bool :=
  match tightOf a with
  | some _ => (c.partiesOf world).any (fun q => c.ownsRange (some q) a n)
  | none =>
    (List.range ((a + n - 1) / 4096 + 1 - a / 4096)).all (fun i =>
      match c.memOwner ((a / 4096 + i) * 4096) with
      | some q => c.worldOf q == world
      | none => false)

/-! ### What an image writes (R351) -/

/-- WSTL and WSTH of a world on every pipeline (R227, R351). -/
def Chip.setWst (c : Chip) (world : Bool) (l h : Nat) : Chip :=
  (List.range 72).foldl (fun c pi =>
    let p := c.pipe pi
    let k := 0x100 * b2n world
    let put (t : Tbl Pair) : Tbl Pair :=
      tset 0 (tset 0 t (0x40 + k) (BitVec.ofNat 32 (l / 8 * 8))) (0x41 + k) (BitVec.ofNat 32 (h % 2 ^ 18))
    c.setPipe pi { p with core := put p.core, coreEff := put p.coreEff }) c

/-- The context entry of a core and index in the live plan. -/
def Chip.ctxEntry (c : Chip) (core ctx : Nat) : Option CtxE := c.livePlan.bind (fun p => (p.ctxsOf core)[ctx]?)

/-- The party of a context entry. -/
def Plan.ctxParty (p : Plan) (x : CtxE) : Option Nat :=
  (p.partitions.find? (fun q => q.part == x.part)).map PartE.party

/-- Make one write of an image. -/
def Chip.applyEntry (c : Chip) (world : Bool) (ws : List Word) (e : LoadE) : Chip :=
  match e.kind with
  | 0 => if c.worldOwns world e.target e.len then c.physWrite (worldKey world) e.target (e.data ws) else c
  | 1 =>
    (match c.ctxEntry e.core e.ctx, c.livePlan with
     | some x, some p =>
       if x.open_ && p.tableCore e.core == e.core && ((p.ctxParty x).map p.worldOf) == some world && !c.ctxHeld e.core x then
         c.writeFresh e.core e.ctx x world (some (e.data ws)) else c
     | _, _ => c)
  | 2 =>
    let a := bits e.target 31 0 + bits e.len 3 0 * 2 ^ 32
    if c.worldOwns world a (bits e.len 17 4 * 8) then c.setWst world (bits e.target 31 0) e.len else c
  | _ => c

/-- Make the writes of an image. -/
def Chip.applyImage (c : Chip) (world : Bool) (ws : List Word) : Chip :=
  (loadTable ws).foldl (fun c e => c.applyEntry world ws e) c

/-- The 512 words an image gives a context. -/
def imageArea (ws : List Word) (core ctx : Nat) : Option (List Word) :=
  ((loadTable ws).find? (fun e => e.kind == 1 && e.core == core && e.ctx == ctx)).map (fun e => e.data ws)

/-- Whether an image marks a lane for reset (KIND 3). -/
def imageResets (ws : List Word) (l : Nat) : Bool :=
  (loadTable ws).any (fun e => e.kind == 3 && bits e.entry 28 16 ≤ l && decide (l < bits e.entry 28 16 + e.len))

/-! ### World state -/

/-- A world. -/
def Chip.world (c : Chip) (w : Bool) : WorldS := if w then c.deckle else c.web

/-- The chip with a world replaced. -/
def Chip.setWorld (c : Chip) (w : Bool) (x : WorldS) : Chip := if w then { c with deckle := x } else { c with web := x }

/-- The code of a world's state in WSTAT. -/
def WorldSt.code : WorldSt → Nat
  | .down => 0 | .starting => 1 | .run => 2 | .restarting => 3 | .failed => 4

/-- WSTAT.WDREM (R354). -/
def Chip.wdRem (c : Chip) : Nat :=
  match c.wdAt with
  | some t => if c.deckle.st == .run then c.wdPeriod - (c.now - t) / 1000000 else 0
  | none => 0

/-- WSTAT. -/
def Chip.wstat (c : Chip) : Nat := c.web.st.code + c.deckle.st.code * 8 + b2n c.dfail * 64 + c.wdRem * 2 ^ 16

/-- A write of DWKICK (R354): only a Deckle context at monitor level reloads the watchdog. -/
def Chip.dwkick (c : Chip) (r : Requester) : Chip :=
  if r.unit < 64 && r.level == 2 && ((r.party.map c.worldOf) == some true) then
    (if c.wdAt.isSome then c.wdLoad else c)
  else c.setErr 0x006 9 0x102 true r

/-- DECKLE_WATCHDOG_EXPIRY: the count reaches 0, its period after it was last loaded, and starts a Deckle world restart
(R354). -/
def Chip.wdExpire (c : Chip) : Chip :=
  match c.wdAt with
  | some t =>
    if c.deckle.st == .run && c.wdPeriod != 0 then
      { (c.reach (t + 1000000 * c.wdPeriod)) with wdAt := none, deckle := { c.deckle with due := true } }
    else c
  | none => c

/-! ### Invalidations on the cores of a context (R218) -/

/-- Invalidate the TLB and walk cache of a core, in swing of both. -/
def Chip.dropTlb (c : Chip) (core : Nat) : Chip :=
  (c.twins core).foldl (fun c a => match c.pipeOf a with
    | none => c
    | some pi => c.setPipe pi { c.pipe pi with tlb := [], wc := [] }) c

/-- The contexts of a plan: core, index, entry; in swing those of the lower eight stand for the twin's too (R40, R263). -/
def Plan.allCtxs (p : Plan) : List (Nat × Nat × CtxE) :=
  ((List.range 64).filter (fun core => p.tableCore core == core)).flatMap (fun core =>
    ((List.range (p.ctxsOf core).length).zip (p.ctxsOf core)).map (fun q => (core, q.1, q.2)))

/-- The open contexts of the live plan that satisfy a predicate. -/
def Chip.openCtxs (c : Chip) (f : Plan → CtxE → Bool) : List (Nat × Nat × CtxE) :=
  match c.livePlan with
  | none => []
  | some p => p.allCtxs.filter (fun q => q.2.2.open_ && f p q.2.2)

/-! ### Partitions (R348 to R350) -/

/-- A partition's state. -/
def Chip.part (c : Chip) (k : Nat) : PartS := tget {} c.parts k

/-- The chip with it replaced. -/
def Chip.setPart (c : Chip) (k : Nat) (x : PartS) : Chip := { c with parts := tset {} c.parts k x }

/-- The PARTITION entry of the live plan. -/
def Chip.partEntry (c : Chip) (k : Nat) : Option PartE := c.livePlan.bind (fun p => p.partitions.find? (fun q => q.part == k))

/-- A restart of a partition is called for; it merges into one in progress (R350). -/
def Chip.callRestart (c : Chip) (k : Nat) : Chip :=
  let x := c.part k
  if x.st == .restarting then c else c.setPart k { x with restart := true }

/-- A restart begins at a catch: the invalidations of R218, and the slices' sources are cleared (R280, R350). A WORLD policy
restarts the Deckle world (R349), unless it is FAILED (R356): that restart is its work, and the partition is RESTARTING until
it ends (R348, R350). -/
def Chip.beginRestart (c : Chip) (k : Nat) : Chip :=
  match c.partEntry k with
  | none => c
  | some e =>
    if e.rsp = 3 then
      { (c.setPart k { c.part k with st := .restarting, restart := false, done := false })
        with deckle := { c.deckle with due := c.deckle.due || c.deckle.st == .run } }
    else
      let xs := c.openCtxs (fun _ x => x.part == k)
      let c := xs.foldl (fun c q => (c.dropTlb q.1).dropSavedStack q.1 q.2.1 q.2.2.area) c
      c.setPart k { c.part k with st := .restarting, restart := false, done := false }

/-- Clear a stretch of tight memory, in 64-word units, but for what is under hand-over (R346). -/
def Chip.clearTight (c : Chip) (first last : Nat) : Chip :=
  (c.tightFree first last).foldl (fun c q => c.ringWrite q.1 q.2.1 q.2.2 0) c

/-- Rewrite a context's tight-memory region from an image; words it does not name are cleared, and a block under hand-over is
left alone (R346, R349). -/
def Chip.rewriteRegion (c : Chip) (core : Nat) (x : CtxE) (world : Bool) : Chip :=
  let base := x.tmBase * 64
  let n := x.tmSize * 64
  let u := core * 1024 + x.tmBase
  let c := c.clearTight u (u + x.tmSize - 1)
  (loadTable (c.world world).img).foldl (fun c e =>
    if e.kind = 0 then
      match tightOf e.target with
      | some (k, off) =>
        if k = core then
          (((List.range e.len).zip (e.data (c.world world).img)).filter (fun q =>
            decide (base ≤ off + q.1) && decide (off + q.1 < base + n) && !c.tightHeld core (off + q.1) 1)).foldl
              (fun c q => c.ringWrite core (off + q.1) 1 q.2.toNat) c
        else c
      | none => c
    else c) c

/-- RESTART_WORK_COMPLETE: the restart work of a partition is done (R349, R350). -/
def Chip.restartWork (c : Chip) (k : Nat) : Chip :=
  match c.partEntry k with
  | none => c
  | some e =>
    if (c.part k).st != .restarting || (c.part k).done || e.rsp == 3 then c
    else
      let w := c.worldOf e.party
      let img := (c.world w).img
      let xs := (c.livePlan.map (fun p => p.allCtxs.filter (fun q => q.2.2.part == k))).getD []
      let c := if e.rsp = 1 then c else xs.foldl (fun c q => c.rewriteRegion q.1 q.2.2 w) c
      let c := (xs.filter (fun q => q.2.2.open_ && !c.ctxHeld q.1 q.2.2)).foldl (fun c q =>
        c.writeFresh q.1 q.2.1 q.2.2 w (imageArea img q.1 q.2.1)) c
      let ls := (c.lane.lanes.map Prod.fst).filter (fun l => c.laneOwner l == some e.party && imageResets img l)
      let c := ls.foldl (fun c l => c.resetLane l (some e.party)) c
      c.setPart k { c.part k with done := true, hold := (c.part k).hold || e.rsp == 2 }

/-- What a partition does at a catch before policies act: restarts end or begin, starts take effect (R348, R350). -/
def Chip.partCatch (c : Chip) (k : Nat) : Chip :=
  let x := c.part k
  let x := if x.st == .restarting && x.done then
      { x with st := if x.hold then .stopped else .run, done := false, hold := false } else x
  let x := if x.start then { x with start := false, st := if x.st == .stopped then .run else x.st } else x
  let c := c.setPart k x
  if x.restart then c.beginRestart k else c

/-! ### World restarts (R355, R356) -/

/-- A restart of a world is called for. -/
def Chip.callWorld (c : Chip) (w : Bool) : Chip := c.setWorld w { c.world w with due := true }

/-- Whether a party belongs to a world by the live plan. -/
def Chip.inWorld (c : Chip) (w : Bool) (q : Option Nat) : Bool := (q.map c.worldOf) == some w

/-- Every tight-memory region the parties of a world own is cleared, but for what is under hand-over (R346, R355). -/
def Chip.clearWorldTight (c : Chip) (w : Bool) : Chip :=
  ((c.livePlan.map Plan.owns).getD []).foldl (fun c o =>
    if o.kind = 4 ∧ c.worldOf o.party = w then c.clearTight o.first o.last else c) c

/-- The partitions whose restart was the world's become RUN with it, or STOPPED where they were to end so (R350). -/
def Chip.endWorldParts (c : Chip) : Chip :=
  (c.parts.map Prod.fst).foldl (fun c k =>
    let x := c.part k
    if x.st == .restarting && (c.partEntry k).any (fun e => e.rsp == 3) then
      c.setPart k { x with st := if x.hold then .stopped else .run, hold := false } else c) c

/-- Steps 1 and 2 at the catch: the world's lanes, event sources and tight-memory regions, and the sources its contexts had
acknowledged (R280, R355). -/
def Chip.worldCatch (c : Chip) (w : Bool) : Chip :=
  let x := c.world w
  let c := if x.done then
      let c := c.setWorld w { x with st := .run, done := false }
      let c := if w then (({ c with dfail := false }).wdLoad).endWorldParts else c
      (c.raise 0x32B).deviceRecord .worldRestart
    else c
  let x := c.world w
  if !x.due then c
  else
    let ls := (c.lane.lanes.map Prod.fst).filter (fun l => c.inWorld w (c.laneOwner l))
    let c := ls.foldl (fun c l => c.resetLane l (c.laneOwner l)) c
    let xs := c.openCtxs (fun p q => (p.ctxParty q).map p.worldOf == some w)
    let c := xs.foldl (fun c q => (c.dropTlb q.1).dropSavedStack q.1 q.2.1 q.2.2.area) c
    let c0 := c
    let c := { c with hub := c.hub.resetSources (fun s => c0.inWorld w (c0.srcOwner s)) }
    let c := c.clearWorldTight w
    let c := c.setWorld w { x with st := .restarting, due := false, done := false }
    if w then { c with wdAt := none } else c

/-- DECKLE_WORLD_RESTART: steps 3 and 4 with the image read from the boot flash (R355, R356). -/
def Chip.worldReload (c : Chip) (w : Bool) (img : List Word) : Chip :=
  let x := c.world w
  if x.st != .restarting || x.done then c
  else if imageForm w img && c.signedBy 2 img && (!w || watermark img == x.wm) then
    let c := c.setWorld w { x with img := img, done := true }
    let c := c.applyImage w img
    let xs := c.openCtxs (fun p q => (p.ctxParty q).map p.worldOf == some w)
    xs.foldl (fun c q => if (imageArea img q.1 q.2.1).isSome || c.ctxHeld q.1 q.2.2 then c else c.writeFresh q.1 q.2.1 q.2.2 w none) c
  else
    let c := c.setWorld w { x with st := .failed }
    let c := if w then ({ c with dfail := true }).alarmRecord .deckleFailed else c
    c.raise 0x32B

/-! ### Clock and power requests (R357) -/

/-- The pages of field and plant ports. -/
def portPage (page : Nat) : Bool :=
  (decide (0x120 ≤ page) && decide (page < 0x140)) || page == 0x0F1 || page == 0x0F2

/-- The port number of a page as PORT entries number ports (R307). -/
def portNum (page : Nat) : Nat := if 0x120 ≤ page then page - 0x120 else page - 0x0F1 + 32

/-- The owners of the lanes bound to a port, and the port's own owner: its users (R357). -/
def Chip.portUsers (c : Chip) (page : Nat) : List Nat :=
  let n := portNum page
  let ls := ((c.conns.filter (fun q => q.kind == 3 && q.port == n)).map ConnE.a)
    ++ (if n < 32 then ((c.livePlan.map (fun p => tget [] p.fpis n)).getD []).flatMap (fun f => f.laneA :: f.laneB.toList)
        else [])
  ((c.pageOwner page) :: ls.map c.laneOwner).filterMap id

/-- Whether a port is gated, by clock or by power. -/
def Chip.portGated (c : Chip) (page : Nat) : Bool := c.gated.any (fun g => g.1 == page)

/-- A write of GATEREQ: carried out where every user of the port, if it has any, is the requester's party (R357). -/
def Chip.gateReq (c : Chip) (r : Requester) (v : Nat) : Chip :=
  let page := bits v 8 0
  let op := bits v 10 9
  match r.party with
  | none => c
  | some q =>
    if !portPage page then c.setErr 0x006 8 0x180 true r
    else
      let us := c.portUsers page
      if us.all (· == q) then
        let g := (page, decide (2 ≤ op))
        { c with gated := if op % 2 = 0 then g :: c.gated.filter (· != g) else c.gated.filter (· != g) }
      else
        let c := c.setErr 0x006 8 0x180 true r
        if !c.worldOf q && us.any c.worldOf then
          let c := if c.fld 0x006 0x104 17 17 = 1 then c
            else c.setLive 0x006 0x104 (page + op * 2 ^ 9 + q * 2 ^ 11 + 2 ^ 17)
          c.raise 0x32A
        else c

/-- Hand-over and every reset of a block ungate it. -/
def Chip.ungate (c : Chip) (page : Nat) : Chip := { c with gated := c.gated.filter (fun g => g.1 != page) }

/-! ### Role commands (R353, R359, R360, R364, R365, R367) -/

/-- The right over a partition's commands (R359). -/
def Chip.partRight (c : Chip) (k : Nat) (role : Nat) : Bool :=
  role == 2 || (role == 1 && match c.partEntry k with
    | some e => bitN (c.live 0x007 0x102 + c.live 0x007 0x104 * 2 ^ 32) e.party
    | none => false)

/-- The windows of a partition that run now are feathered until their closing instants: it is RUN no more (R348). (DESIGN
CHOICE, log entry 34) -/
def Chip.stopWindows (c : Chip) (k : Nat) : Chip :=
  (List.range 72).foldl (fun c pi =>
    let p := c.pipe pi
    match p.ctx with
    | some x => if x.part = k ∧ p.run = .run then c.setPipe pi { p with run := .ended, stall := none, pend := none } else c
    | none => c) c

/-- PART_START, PART_STOP and PART_RESTART by code 0x50 to 0x52. (DESIGN CHOICE, log entry 34) -/
def Chip.partCmd (c : Chip) (q : Req) (code k : Nat) : Chip :=
  c.roleCmd q code [BitVec.ofNat 16 k] (c.partRight k) (fun c =>
    match c.partEntry k with
    | none => (c, .now stNoPartition [])
    | some _ =>
      let x := c.part k
      let c := match code with
        | 0x50 => if x.st == .restarting then c else c.setPart k { x with start := true }
        | 0x51 => if x.st == .restarting then c.setPart k { x with hold := true, start := false }
          else (c.setPart k { x with st := .stopped, start := false }).stopWindows k
        | _ => c.callRestart k
      (c, .now stDone []))

/-- WORLD_RESTART. (DESIGN CHOICE, log entry 34) -/
def Chip.worldRestart (c : Chip) (q : Req) (w : Bool) : Chip :=
  c.roleCmd q 0x0053 [BitVec.ofNat 16 (b2n w)] installer (fun c =>
    if (c.world w).st == .restarting then (c, .now stWorld []) else (c.callWorld w, .now stDone []))

/-- EVENT_ACK. -/
def Chip.eventAck (c : Chip) (q : Req) (seq : Nat) : Chip :=
  c.roleCmd q 0x0054 (toWords 4 seq) (fun r => r == 2 || r == 3 || (r == 1 && c.fld 0x007 0x106 0 0 == 1)) (fun c =>
    if c.roles.alarms.contains seq then
      ({ c with roles := { c.roles with alarms := c.roles.alarms.filter (· != seq) } }, .now stDone [])
    else (c, .now stState []))

/-- JOURNAL_READ: not journaled, and it advances nothing (R362, R364). -/
def Chip.journalRead (c : Chip) (q : Req) (first count addr : Nat) : Chip :=
  let ops := toWords 4 first ++ toWords 2 count ++ toWords 4 addr
  c.served q fun c =>
  match c.authorize q 0x0055 ops (fun r => r == 2 || r == 3 || (r == 1 && c.fld 0x007 0x106 1 1 == 1)) with
  | none => c.answer q 0x0055 stRole []
  | some slot =>
    let c := c.setCred slot { c.cred slot with nonce := q.nonce.toNat }
    let oldest := c.roles.jseq - journalRing
    if count = 0 ∨ 1024 < count ∨ first < oldest ∨ c.roles.jseq < first + count then c.answer q 0x0055 stState []
    else if !c.ownsRange (some q.party.val) addr (count * 64) then c.answer q 0x0055 stOwnership []
    else
      let ws := (List.range count).flatMap (fun i => (tget {} c.roles.journal ((first + i) % journalRing)).words)
      (c.physWrite (c.partyKey (some q.party.val)) addr ws).answer q 0x0055 stDone []

/-- The anchor as ANCHOR shows it. -/
def Chip.anchorReg (c : Chip) : Nat :=
  let r := c.roles
  r.step % 2 ^ 16 + (r.epoch % 64) * 2 ^ 16 + b2n c.anchorOut * 2 ^ 22 + b2n (decide (61440 ≤ r.step)) * 2 ^ 23

/-- The lifecycle state (R360). -/
def Chip.lifecycle (c : Chip) : Nat := c.fld 0x000 0x104 2 0

/-- Whether debug access and ERRINJ are open (R360). -/
def Chip.debugOpen (c : Chip) : Bool := c.lifecycle ≤ 1 || c.lifecycle == 3

/-- The report of an attestation before its signature (R353). -/
def Chip.report (c : Chip) (nonce : Nat) : List Word :=
  let p := c.livePlan
  toWords 2 0x4154_5354 ++ toWords 2 0x0001_0000 ++ c.uidWords ++ toWords 4 nonce
  ++ [BitVec.ofNat 16 c.lifecycle, BitVec.ofNat 16 c.roles.epoch, BitVec.ofNat 16 c.roles.step, 0]
  ++ toWords 2 ((p.map Plan.planId).getD 0) ++ toWords 2 ((p.map Plan.seq).getD 0) ++ List.replicate 12 0
  ++ digestWords c.power.wmLaunch ++ digestWords c.web.wm ++ digestWords c.deckle.wm
  ++ ((p.map Plan.digest).getD (List.replicate 24 0)).take 24 ++ digestWords c.journalHead

/-- ATTEST: the report with its signature by the device key; the number a signature takes is a value no rule gives (R353).
(DESIGN CHOICE, log entry 5) -/
def Chip.attest (c : Chip) (q : Req) (nonce addr : Nat) : Chip :=
  c.served q fun c =>
  if !c.ownsRange (some q.party.val) addr 200 then c.answer q 0x0056 stOwnership []
  else
    let (c, k) := c.draw
    let ws := c.report nonce
    let sig := ecdsaSign c.power.devKey (sha384 ws) (1 + k % (n384 - 1))
    (c.physWrite (c.partyKey (some q.party.val)) addr (ws ++ toWords 24 sig.1 ++ toWords 24 sig.2)).answer q 0x0056 stDone []

/-- CRED_ENROL. -/
def Chip.credEnrol (c : Chip) (q : Req) (slot role x y keyId : Nat) : Chip :=
  let ops := [BitVec.ofNat 16 slot, BitVec.ofNat 16 role] ++ toWords 24 x ++ toWords 24 y ++ toWords 2 keyId
  c.roleCmd q 0x0060 ops (fun r => (r == 2 && (role == 1 || role == 2)) || (r == 3 && role == 2)) (fun c =>
    let old := c.cred slot
    if old.role = 1 ∨ old.role = 2 ∨ 16 ≤ slot then (c, .now stState [])
    else (c.setCred slot ⟨role, keyId, x, y, old.nonce⟩, .now stDone []))

/-- CRED_REVOKE: the slot keeps its NONCE and accepts no command. -/
def Chip.credRevoke (c : Chip) (q : Req) (slot : Nat) : Chip :=
  let target := (tget {} c.roles.creds slot).role
  c.roleCmd q 0x0061 [BitVec.ofNat 16 slot]
    (fun r => (r == 2 && (target == 1 || target == 2)) || (r == 3 && target == 2)) (fun c =>
      (c.setCred slot { c.cred slot with role := 3 }, .now stDone []))

/-- OPPOLL, OPPOLH and ROLECFG show the policy fields of the credential store (R359). -/
def Chip.showPolicy (c : Chip) : Chip :=
  let p := c.roles.oppol
  ((c.setLive 0x007 0x102 (p % 2 ^ 32)).setLive 0x007 0x104 (p / 2 ^ 32 % 2 ^ 32)).setLive 0x007 0x106 c.roles.roleCfg

/-- POLICY_SET. -/
def Chip.policySet (c : Chip) (q : Req) (oppol cfg : Nat) : Chip :=
  c.roleCmd q 0x0062 (toWords 4 oppol ++ toWords 2 cfg) installer (fun c =>
    (({ c with roles := { c.roles with oppol := oppol, roleCfg := cfg % 4 } }).showPolicy, .now stDone []))

/-- FW_UPDATE: the slot that is not active takes the image and is marked pending (R439). -/
def Chip.fwUpdate (c : Chip) (q : Req) (addr len : Nat) : Chip :=
  c.roleCmd q 0x0070 (toWords 4 addr ++ toWords 2 len) makerOnly (fun c =>
    let ws := toWords len (c.physRead (c.partyKey (some q.party.val)) addr len)
    if c.signedBy 3 ws then
      let k := 1 - c.power.fwActive
      ({ c with power := { c.power with fw := tset [] c.power.fw k ws, fwPend := some k } }, .now stDone [])
    else (c, .now stBadSig []))

/-- The transitions of R360. -/
def lifecycleNext (a b : Nat) : Bool :=
  [(0, 1), (1, 2), (1, 4), (2, 3), (2, 4), (3, 1), (3, 4)].contains (a, b)

/-- LIFECYCLE: the target is entered at the next power-on reset. (DEDUCED, log entry 53) -/
def Chip.lifecycleCmd (c : Chip) (q : Req) (target : Nat) : Chip :=
  c.roleCmd q 0x0071 [BitVec.ofNat 16 target] makerOnly (fun c =>
    if lifecycleNext c.lifecycle target then (c.setFld 0x000 0x104 5 3 target, .now stDone []) else (c, .now stLifecycle []))

/-- ANCHOR_RENEW: EPOCH advances, STEP is 0, and its own entry takes STEP 1; the entry is written first with STATUS 0xFF and
then with DONE, and where the flash does not take it the command is refused (R362, R364). (DEDUCED, log entry 32) -/
def Chip.anchorRenew (c : Chip) (q : Req) : Chip :=
  c.served q fun c =>
  match c.authorize q 0x0072 [] makerOnly with
  | none => c.answer q 0x0072 stRole []
  | some slot =>
    if c.roles.epoch = 63 then c.answer q 0x0072 stAnchor []
    else if !q.flash then c.answer q 0x0072 stJournal []
    else
      let x := c.cred slot
      let c := c.setCred slot { x with nonce := q.nonce.toNat }
      let c := { c with roles := { c.roles with epoch := c.roles.epoch + 1, step := 1 } }
      let seq := c.roles.jseq
      ((c.journalNew 0 x.role q.keyId.toNat 0x0072 0xFF (sha384 [])).journalEnd seq stDone).answer q 0x0072 stDone []

/-- PARTST as a requester reads it (16 partitions from 16k). -/
def Chip.partst (c : Chip) (r : Requester) (k : Nat) : Nat :=
  (List.range 16).foldl (fun v j =>
    let n := 16 * k + j
    let code := match c.partEntry n with
      | some e => if r.party == some e.party || r.unit == 64 then
          (match (c.part n).st with | .run => 0 | .stopped => 1 | .restarting => 2) else 3
      | none => 3
    v + code * 2 ^ (2 * j)) 0

/-- CREDSTAT: the store as step CREDENTIALS loaded it; its reset value until then (R7, R440). -/
def Chip.credstat (c : Chip) : Nat :=
  if !c.roles.loaded then 0
  else (List.range 16).foldl (fun v s => v + ((tget {} c.roles.creds s).role % 4) * 2 ^ (2 * s)) 0

end Sys2Proof.Machine
end

