-- ==== Sys2Proof/Machine/Ports.lean ====
section
/-! DEFINITION. Field ports and plant ports: samples, transmits, the power supervisor, traffic shaping and stream entries
(chapter "Field Ports, Plant Ports, Pair Link and Time", R374 to R392). -/

namespace Sys2Proof.Machine

/-! ### Plan instants -/

/-- The length of a stroke in ns. -/
def Chip.strokeNs (c : Chip) : Nat := ((c.livePlan.map Plan.stroke).getD 1000) * 1000

/-- The catch that ends this stroke. -/
def Chip.nextCatch (c : Chip) : Nat := c.catchAt + c.strokeNs

/-- Whether this chip is the standby of a redundant pair (R392). -/
def Chip.standby (c : Chip) : Bool := (c.livePlan.map Plan.paired).getD false && !c.pair.active

/-- The replica of TB of a block whose clock has a period in ns, at its last edge: it never leads the master and lags by less
than the period (R369). The edges of FCLK are taken at whole periods of TB. (DEDUCED, log entry 57) -/
def Chip.replica (c : Chip) (period t : Nat) : Nat := Nat.min c.now t / period * period

/-- The stamp of a field port for a frame whose delimiter came at an instant: at FCLK resolution, 40 ns (R369). -/
def Chip.fieldStamp (c : Chip) (t : Nat) : Nat := c.replica 40 t

/-- The stamp of a plant port: whole ns are coarser than its 0.8 ns, and it never leads TB (R369). -/
def Chip.plantStamp (c : Chip) (t : Nat) : Nat := c.replica 1 t

/-! ### Field ports: state and views -/

/-- The page of a field port. -/
def fpPage (n : Nat) : Nat := 0x120 + n

/-- A field port. -/
def Chip.fport (c : Chip) (n : Nat) : FPort := tget {} c.fp n

/-- The chip with a field port replaced. -/
def Chip.setFport (c : Chip) (n : Nat) (p : FPort) : Chip := { c with fp := tset {} c.fp n p }

/-- Whether a field port has link. -/
def Chip.fpLink (c : Chip) (n : Nat) : Bool := c.fld (fpPage n) 0x100 0 0 == 1

/-- Whether its switch is closed. -/
def FPort.closed (p : FPort) : Bool := p.supply == .soft || p.supply == .on

/-- The code of a supply state. -/
def Supply.code : Supply → Nat
  | .off => 0 | .soft => 1 | .on => 2 | .tripped => 3

/-- Whether a profile is that of intrinsic safety (R375). -/
def isProfile (p0 : Nat) : Bool := decide (2 ≤ bits p0 1 0)

/-- The rules of the IS profile on limits: IFAST, TOFF, and IINR × 16 against IMAX (R375). -/
def isRules (p0 p2 : Nat) : Bool :=
  bits p2 7 0 != 0 && decide (1 ≤ bits p2 15 8) && decide (bits p2 31 24 * 16 ≤ bits p0 25 14)

/-- FPSTAT: the held fields with PWR and GATED. -/
def Chip.fpstat (c : Chip) (n : Nat) : Nat :=
  setBits (setBits (c.live (fpPage n) 0x100) 4 3 (c.fport n).supply.code) 8 8 (b2n (c.portGated (fpPage n)))

/-- FPXTRIP. -/
def Chip.fpxTrip (c : Chip) : Nat :=
  (List.range 32).foldl (fun v n => v + b2n ((c.fport n).supply == .tripped) * 2 ^ n) 0

/-- FPXLINK. -/
def Chip.fpxLink (c : Chip) : Nat := (List.range 32).foldl (fun v n => v + b2n (c.fpLink n) * 2 ^ n) 0

/-- The FPINST entries of a port in the live plan. -/
def Chip.fpEntries (c : Chip) (n : Nat) : List FpiE := (c.livePlan.map (fun p => tget [] p.fpis n)).getD []

/-- The entry of an instant that runs in this stroke, on a port that is not gated. -/
def Chip.fpRuns (c : Chip) (n i : Nat) (tx : Bool) : Option FpiE :=
  if c.portGated (fpPage n) then none
  else ((c.fpEntries n)[i]?).filter (fun e => e.tx == tx && runsIn e.divm1 e.phase c.stroke)

/-! ### Samples (R376, R377) -/

/-- STATUS of a sample oct. -/
def FPort.sampleStatus (p : FPort) (link : Bool) (age : Nat) : Nat :=
  b2n p.fresh + b2n link * 2 + b2n (p.supply == .tripped) * 4 + b2n p.rxerr * 8 + age * 256

/-- The AGE of the next sample oct. -/
def FPort.nextAge (p : FPort) : Nat := if p.fresh then 0 else Nat.min 255 (p.age + 1)

/-- The sample oct. -/
def FPort.sampleOct (p : FPort) (link : Bool) : Oct :=
  BitVec.ofNat 128 (p.data.toNat + (p.rxts % 2 ^ 32) * 2 ^ 64 + (p.seq % 2 ^ 16) * 2 ^ 96
    + p.sampleStatus link p.nextAge * 2 ^ 112)

/-- SAMPLE_INSTANT of an FPINST entry: one oct to the lane engine for each named lane. -/
def Chip.sampleInstant (c : Chip) (n i : Nat) : Chip :=
  match c.fpRuns n i false with
  | none => c
  | some e =>
    let c := c.reach (c.granuleAt e.instant)
    let p := c.fport n
    let d := p.sampleOct (c.fpLink n)
    let c := c.setFport n { p with age := p.nextAge, fresh := false, rxerr := false }
    { c with lane := { c.lane with inq := c.lane.inq ++ (e.laneA :: e.laneB.toList).map (fun l => (l, d)) } }

/-- The first oct handed over for a lane, and the rest. -/
def takeHanded (l : Nat) : List (Nat × Oct) → Option (Oct × List (Nat × Oct))
  | [] => none
  | q :: qs => if q.1 = l then some (q.2, qs) else (takeHanded l qs).map (fun r => (r.1, q :: r.2))

/-- PINNED_INBOUND_STEP: the step a hand-off causes on a lane. -/
def Chip.inboundStep (c : Chip) (l : Nat) : Chip :=
  match takeHanded l c.lane.inq with
  | none => c
  | some (d, rest) => ({ c with lane := { c.lane with inq := rest } }).pinnedIn l d

/-! ### Link, trips and the supply (R375, R381 to R384) -/

/-- Link goes down: the sample register is 0 until a frame arrives. (DEDUCED, log entry 61) -/
def Chip.linkDown (c : Chip) (n : Nat) : Chip :=
  (c.setFld (fpPage n) 0x100 0 0 0).setFport n { c.fport n with data := 0, rxts := 0, seq := 0, fresh := false }

/-- A trip with its cause (R382). (DEDUCED, log entry 61) -/
def Chip.trip (c : Chip) (n cause : Nat) : Chip :=
  let c := c.linkDown n
  let p := c.fport n
  let c := c.setFport n { p with
    supply := .tripped, tripAt := some c.now, exceeded := []
    sent := if c.now < p.txEnd then [] else p.sent }
  let c := (c.setFld (fpPage n) 0x100 7 5 cause).bumpFld (fpPage n) 0x100 15 9
  (c.raise (0x0C0 + 2 * n)).raise (0x0C1 + 2 * n)

/-- The conditions of R381 that need two successive conversions and that one conversion exceeds; SENSE alone asks for a closed
switch. (DEDUCED, log entry 55) -/
def Chip.overConds (c : Chip) (n vs is : Nat) : List Nat :=
  let p0 := c.live (fpPage n) 0x030
  let p1 := c.live (fpPage n) 0x032
  let p2 := c.live (fpPage n) 0x034
  let ocLimit := if (c.fport n).supply == .soft then bits p2 31 24 * 16 else bits p0 25 14
  (if bits p0 13 2 < vs then [1] else [])
  ++ (if ocLimit < is then [2] else [])
  ++ (if bits p1 23 0 < vs * is then [3] else [])
  ++ (if (c.fport n).closed && isProfile p0 && decide (vs < bits p1 31 24 * 16) then [5] else [])

/-- SUPERVISOR_CONVERSION: codes of VS and IS, the comparator's finding, and the converter's self-check. A port that is TRIPPED
already is not tripped again. (DESIGN CHOICE, log entry 11) (DEDUCED, log entry 55) -/
def Chip.supervise (c : Chip) (n vs is : Nat) (fast checkOk : Bool) : Chip :=
  let c := c.setLive (fpPage n) 0x104 (vs + is * 2 ^ 16)
  let p := c.fport n
  if p.supply == .tripped then c
  else
    let now := c.overConds n vs is
    let c' := c.setFport n { p with exceeded := now }
    if fast && c.fld (fpPage n) 0x034 7 0 != 0 then c'.trip n 4
    else match now.find? (fun k => p.exceeded.contains k && k != 5) with
      | some k => c'.trip n k
      | none =>
        let sense := now.contains 5 && p.exceeded.contains 5
        if sense || (p.closed && isProfile (c.live (fpPage n) 0x030) && !checkOk) then c'.trip n 5 else c'

/-- Whether a REARM may close the switch now (R383). -/
def Chip.rearmOk (c : Chip) (n : Nat) : Bool :=
  let p := c.fport n
  let p0 := c.live (fpPage n) 0x030
  let p1 := c.live (fpPage n) 0x032
  let p2 := c.live (fpPage n) 0x034
  let rested := match p.supply, p.tripAt with
    | .tripped, some t => decide (t + bits p2 15 8 * 1000000 ≤ c.now)
    | _, _ => true
  rested && bits p0 13 2 != 0 && bits p0 25 14 != 0 && bits p1 23 0 != 0 && (!isProfile p0 || isRules p0 p2)

/-- A link goes down by itself or with its supply, and the port's link source is raised. -/
def Chip.dropLink (c : Chip) (n : Nat) : Chip := if c.fpLink n then (c.linkDown n).raise (0x0C1 + 2 * n) else c

/-- The switch closes: the port is SOFT, and its link renegotiates (R375, R383). -/
def Chip.closeSwitch (c : Chip) (n : Nat) : Chip :=
  (c.setFport n { c.fport n with supply := .soft, softAt := c.now, tripAt := none, exceeded := [] }).dropLink n

/-- A REARM acts on an OFF or TRIPPED port (R383). -/
def Chip.rearmNow (c : Chip) (n : Nat) (r : Requester) : Chip :=
  let p := c.fport n
  -- in every state other than RUN the pin FPn_PSW is held at its off level (R428)
  if p.closed || c.power.st != .run then c
  else if c.rearmOk n then c.closeSwitch n
  else c.setErr (fpPage n) 8 0x102 true r

/-- A write of FPCTL.REARM; on a gated port it acts when the port is ungated (R384). -/
def Chip.rearm (c : Chip) (n : Nat) (r : Requester) : Chip :=
  if c.portGated (fpPage n) then c.setFport n { c.fport n with rearm := some (r.unit, r.party) } else c.rearmNow n r

/-- SOFT_START_END: TSOFT × 10 µs after closing the port is ON; a limit that the last conversion exceeded still counts as the
first of two (R381). -/
def Chip.softEnd (c : Chip) (n : Nat) : Chip :=
  let p := c.fport n
  if p.supply == .soft then
    (c.reach (p.softAt + c.fld (fpPage n) 0x034 23 16 * 10000)).setFport n { p with supply := .on }
  else c

/-- The REARM writes that waited for ungating act. -/
def Chip.rearmHeld (c : Chip) (n : Nat) : Chip :=
  let p := c.fport n
  match p.rearm with
  | some (u, q) =>
    if c.portGated (fpPage n) then c else (c.setFport n { p with rearm := none }).rearmNow n ⟨u, q, 0⟩
  | none => c

/-- A write of GATEREQ, and the REARM that an ungated field port had waiting (R357, R384). -/
def Chip.gateWrite (c : Chip) (r : Requester) (v : Nat) : Chip :=
  let c := c.gateReq r v
  (List.range 32).foldl Chip.rearmHeld c

/-- The base page of clause 98 that a port advertises: the 10BASE-T1L ability, the increased-amplitude ability, and the request
for it (R374, R375). -/
def Chip.basePage (c : Chip) (n : Nat) : Bool × Bool × Bool :=
  let prof := c.fld (fpPage n) 0x030 1 0
  (true, prof == 0, decide (prof < 2) && c.fld (fpPage n) 0x020 3 3 == 1)

/-- FIELD_LINK_CHANGE: negotiation ends with the partner's 2.4 Vpp ability, its request, whether it insists on 2.4 Vpp, and the
role negotiated (R374, R375). (DEDUCED, log entry 58) -/
def Chip.fieldLink (c : Chip) (n : Nat) (up p24 req24 insist leader : Bool) : Chip :=
  let cfg := c.live (fpPage n) 0x020
  let std := c.fld (fpPage n) 0x030 1 0 == 0
  if c.portGated (fpPage n) || c.fpLink n == up then c
  else if up then
    if (c.fport n).supply == .tripped || (insist && !std) then c
    else
      let (_, able, asks) := c.basePage n
      let amp := if bitN cfg 0 then able && p24 && (req24 || asks) else std && bitN cfg 1
      let role := if bitN cfg 0 then leader else bitN cfg 2
      let c := c.setFld (fpPage n) 0x100 2 0 (1 + b2n amp * 2 + b2n role * 4)
      (c.setFport n { c.fport n with outs := [], outNew := [] }).raise (0x0C1 + 2 * n)
  else (c.linkDown n).raise (0x0C1 + 2 * n)

/-- PORT_PROFILE: stages a profile that takes effect at the next catch (R403). -/
def Chip.portProfile (c : Chip) (q : Req) (n p0 p1 p2 : Nat) : Chip :=
  c.roleCmd q 0x0080 (BitVec.ofNat 16 n :: (toWords 2 p0 ++ toWords 2 p1 ++ toWords 2 p2)) installer (fun c =>
    if isProfile p0 && !isRules p0 p2 then (c, .now stProfile [])
    else
      let put (c : Chip) (off v : Nat) : Chip := { c with
        staged := tset (regReset (fpPage n) off) c.staged (regKey (fpPage n) off) v }
      let c := put (put (put c 0x030 (p0 % 2 ^ 26)) 0x032 p1) 0x034 p2
      (c.setFport n { c.fport n with prof := some ⟨c.now, p0 % 2 ^ 26, p1, p2⟩ }, .now stDone []))

/-- A profile that was staged at least one granule before a catch takes effect at it: the switch opens, and a link at an
amplitude the profile does not allow goes down (R375, R382, R452). (DEDUCED, log entry 58) -/
def Chip.profileCatch (c : Chip) (n : Nat) : Chip :=
  let p := c.fport n
  match p.prof with
  | some x =>
    if x.at_ + 20 ≤ c.now then
      let c := c.setFport n { p with prof := none, supply := .off, tripAt := none, exceeded := [] }
      let c := ((c.setLive (fpPage n) 0x030 x.p0).setLive (fpPage n) 0x032 x.p1).setLive (fpPage n) 0x034 x.p2
      if c.fld (fpPage n) 0x100 1 1 == 1 && bits x.p0 1 0 != 0 then c.dropLink n else c
    else c
  | none => c

/-- BLOCK reset and hand-over of a field port: OFF, in the IS profile with every limit 0 (R383). -/
def Chip.fpReset (c : Chip) (n : Nat) : Chip := ((c.setFport n {}).blockReset (fpPage n)).ungate (fpPage n)

/-! ### Frames (R376, R378 to R380) -/

/-- The bytes of a number in the order of R2: the lowest first. -/
def bytesOf (n x : Nat) : List Byte := (List.range n).map (fun i => BitVec.ofNat 8 (x >>> (8 * i)))

/-- Words of bytes packed by R2: the first byte in bits 7:0. -/
def packBytes : List Byte → List Word
  | [] => []
  | [b] => [b.setWidth 16]
  | a :: b :: r => (b ++ a) :: packBytes r

/-- A frame padded with zeros to the minimum, without its FCS. -/
def padFrame (f : List Byte) : List Byte := f ++ List.replicate (60 - f.length) 0

/-- Bytes of a frame on the line without preamble and gap: with the FCS, at least 64. -/
def frameBytes (f : List Byte) : Nat := (padFrame f).length + 4

/-- The EtherType of a frame at a byte offset, high byte first. (PRESUMED, log entry 56) -/
def etherAt (f : List Byte) (i : Nat) : Nat := (f.getD i 0).toNat * 256 + (f.getD (i + 1) 0).toNat

/-- gPTP frames belong to the launch controller's servo; no party sends or receives them (R371). -/
def isGptp (f : List Byte) : Bool := etherAt f 12 == 0x88F7

/-- ns a frame takes at 10 Mb/s with preamble and interframe gap (R379). -/
def fieldTime (f : List Byte) : Nat := (frameBytes f + 20) * 800

/-- A field port sends a frame from now. -/
def Chip.fieldSend (c : Chip) (n : Nat) (f : List Byte) : Chip :=
  (c.setFport n { c.fport n with sent := padFrame f, txEnd := c.now + fieldTime f }).blkCount 16 n 1 (frameBytes f)

/-- The header of FPTXHDR0 to 3. -/
def Chip.fpHeader (c : Chip) (n : Nat) : List Byte :=
  ((List.range 4).flatMap (fun k => bytesOf 4 (c.live (fpPage n) (0x024 + 2 * k)))).take 14

/-- TRANSMIT_INSTANT of an FPINST entry: the oct last delivered on the lane it names is sent (R34, R378, R392). (DEDUCED, log
entry 57) -/
def Chip.transmitInstant (c : Chip) (n i : Nat) : Chip :=
  match c.fpRuns n i true with
  | none => c
  | some e =>
    let c := c.reach (c.granuleAt e.instant)
    let p := c.fport n
    if !p.closed || !c.fpLink n then c.setFport n { p with outNew := p.outNew.filter (· != e.laneA) }
    else
      let fresh := p.outNew.contains e.laneA
      let c := c.setFport n { p with outNew := p.outNew.filter (· != e.laneA) }
      if c.standby && c.fld (fpPage n) 0x020 5 5 = 1 then c
      else
        let c := if fresh then c else c.bumpFld (fpPage n) 0x100 23 16
        match tget none p.outs e.laneA with
        | none => c
        | some d =>
          if fresh || c.fld (fpPage n) 0x020 4 4 = 0 then c.fieldSend n (c.fpHeader n ++ bytesOf 16 d.toNat) else c

/-- The next transmit instant of a field port after an instant, in the strokes that a span of time from it touches (R380).
(DEDUCED, log entry 57) -/
def Chip.nextTx (c : Chip) (n t span : Nat) : Option Nat :=
  ((List.range ((t - c.catchAt + span) / c.strokeNs + 2)).flatMap (fun j => (c.fpEntries n).filterMap (fun e =>
    let u := c.catchAt + j * c.strokeNs + 20 * e.instant
    if e.tx && runsIn e.divm1 e.phase (c.stroke + j) && decide (t ≤ u) then some u else none))).min?

/-- The best-effort lane of a port and direction (R380, R390): a PORT entry whose lane is not pinned. -/
def Chip.portLane (c : Chip) (port dir : Nat) : Option Nat :=
  (c.conns.find? (fun q => q.kind == 3 && q.port == port && q.dir == dir && !c.lanePinned q.a)).map ConnE.a

/-- A frame goes to the inbound best-effort lane of a port as a message (R309, R380, R390); the flag says it found a
descriptor. -/
def Chip.portInbound (c : Chip) (port : Nat) (f : List Byte) (tag : Option Nat) : Chip × Bool :=
  match c.portLane port 0 with
  | none => (c, false)
  | some l =>
    let x := c.ln l
    if x.st != .run || x.waiting == 0 then (c, false)
    else match c.descFault l with
    | some k => ((c.physLog (x.descAt x.cidx) 8).laneError l k, false)
    | none =>
      let d := c.laneDesc l x.cidx
      let (c, f) := if f.length % 2 = 1 then
          let (c, v) := c.draw
          (c, f ++ [BitVec.ofNat 8 v])
        else (c, f)
      let ws := packBytes f
      let n := Nat.min (descLen d) ws.length
      let (c, bus) := c.busStatus
      let ok := descLen d != 0 && !descReserved d && c.ownsRange (c.laneOwner l) (descAddrOf d) n
      let status :=
        if descLen d == 0 || descReserved d then 4
        else if c.unlisted (descAddrOf d) n then bus
        else if !ok then 2
        else if descLen d < ws.length then 1 else 0
      let moved := if ok then n else 0
      let c := if moved = 0 then c else c.physWrite (c.partyKey (c.laneOwner l)) (descAddrOf d) (ws.take n)
      (c.descEnd l status moved tag (descEvt d), true)

/-- A received frame is dropped and counted (R380, R390, R391). -/
def Chip.rxDrop (c : Chip) (port : Nat) : Chip :=
  if port < 32 then c.bumpFld (fpPage port) 0x100 31 24
  else (c.bumpFld (pltPage (port - 32)) 0x100 23 16).raise (0x303 + 4 * (port - 32))

/-- The frames received on a port that await the lane engine, each with its tag (R402). -/
def Chip.rxWaits (c : Chip) (port : Nat) : List (Nat × List Byte) :=
  if port < 32 then (c.fport port).rx.toList.map (fun f => (0, f)) else (c.pport (port - 32)).rx

/-- The chip with them replaced. -/
def Chip.setRx (c : Chip) (port : Nat) (fs : List (Nat × List Byte)) : Chip :=
  if port < 32 then c.setFport port { c.fport port with rx := (fs.head?).map Prod.snd }
  else c.setPport (port - 32) { c.pport (port - 32) with rx := fs }

/-- Bytes of some frames with their FCS. -/
def bytesIn (fs : List (List Byte)) : Nat := (fs.map (fun f => f.length + 4)).sum

/-- Whether the receive buffer of a port holds one frame more: one frame awaits the lane engine at a field port, 8,192 bytes at
a plant port (R402). -/
def Chip.rxRoom (c : Chip) (port : Nat) (f : List Byte) : Bool :=
  if port < 32 then (c.fport port).rx.isNone && decide (f.length + 4 ≤ 1536)
  else decide (bytesIn ((c.rxWaits port).map Prod.snd) + f.length + 4 ≤ 8192)

/-- A frame for the inbound best-effort lane of a port: it is handed over, or waits in the receive buffer for a step unit, or
is dropped (R319, R380, R390, R402). (DESIGN CHOICE, log entry 88) -/
def Chip.received (c : Chip) (port : Nat) (f : List Byte) (tag : Option Nat) : Chip :=
  if (c.portLane port 0).isSome && (!(c.rxWaits port).isEmpty || !c.unitFree) then
    if c.rxRoom port f then c.setRx port (c.rxWaits port ++ [(tag.getD 0, f)]) else c.rxDrop port
  else
    let (c, ok) := c.portInbound port f tag
    if ok then c else c.rxDrop port

/-- A step unit takes the first frame that waits at a port. -/
def Chip.portTake (c : Chip) (port : Nat) : Chip :=
  match c.rxWaits port with
  | [] => c
  | (tag, f) :: fs =>
    if !c.unitFree then c
    else
      let (c, ok) := (c.setRx port fs).portInbound port f (if port < 32 then none else some tag)
      if ok then c else c.rxDrop port

/-- Payload byte `i` of a frame; a byte past its end is a value the spec does not give. -/
def Chip.payloadByte (c : Chip) (f : List Byte) (i : Nat) : Chip × Nat :=
  match f[14 + i]? with
  | some b => (c, b.toNat)
  | none =>
    let (c, v) := c.draw
    (c, v % 256)

/-- DATA of a sample register loaded from a frame. -/
def Chip.sampleData (c : Chip) (f : List Byte) (soff : Nat) : Chip × Nat :=
  (List.range 8).foldl (fun (r : Chip × Nat) i =>
    let (c, b) := r.1.payloadByte f (soff + i)
    (c, r.2 + b * 2 ^ (8 * i))) (c, 0)

/-- Whether a frame received without its FCS is one of 64 to 1,522 bytes (R374, R387). -/
def frameFits (f : List Byte) : Bool := decide (60 ≤ f.length) && decide (f.length ≤ 1518)

/-- FIELD_FRAME_RECEIVED: bytes without the FCS, whether the FCS is valid, and TB at the start-of-frame delimiter. A frame of
another length is none of the port's. (PRESUMED, log entry 56) -/
def Chip.fieldFrame (c : Chip) (n : Nat) (f : List Byte) (fcsOk : Bool) (stamp : Nat) : Chip :=
  if c.portGated (fpPage n) || !c.fpLink n || !frameFits f then c
  else
    let c := c.blkCount 16 n 0 (f.length + 4)
    if !fcsOk then c.setFport n { c.fport n with rxerr := true }
    else if etherAt f 12 == c.fld (fpPage n) 0x020 31 16 then
      let (c, v) := c.sampleData f (c.fld (fpPage n) 0x022 10 0)
      let p := c.fport n
      c.setFport n { p with
        data := BitVec.ofNat 64 v, rxts := c.fieldStamp stamp % 2 ^ 32, seq := (p.seq + 1) % 2 ^ 16, fresh := true }
    else
      c.received n f none

/-! ### Plant ports: shaping (R387, R388) -/

/-- The gate control list of a plant port in the live plan. -/
def Chip.gcl (c : Chip) (k : Nat) : List GclE := (c.livePlan.map (fun p => tget [] p.gcls k)).getD []

/-- The gate control list that runs from the next catch on: that of the plan the catch switches to, else the same (R388). -/
def Chip.nextGcl (c : Chip) (k : Nat) : List GclE :=
  if c.committed && c.armedAt == some c.nextCatch then (c.altBank.plan.map (fun p => tget [] p.gcls k)).getD [] else c.gcl k

/-- The instant at which the gate of a class, open now, next closes: an entry before the next catch, where the list is cut, or
one of the list that starts there. (R388) -/
def Chip.gateCloses (c : Chip) (k tc t : Nat) : Option Nat :=
  let next := c.nextCatch
  let shut (base : Nat) (l : List GclE) : List Nat :=
    (l.filter (fun e => !bitN e.gates tc)).map (fun e => base + 20 * e.offset)
  ((shut c.catchAt (c.gcl k)).filter (fun u => decide (t < u) && decide (u < next)) ++ shut next (c.nextGcl k)).min?

/-- Tenths of a ns a frame takes at 10 Gb/s with preamble and interframe gap. -/
def plantTime (f : List Byte) : Nat := (frameBytes f + 20) * 8

/-- The first queued frame of a class, and the queue without it. -/
def takeClass (tc : Nat) : List PFrame → Option (PFrame × List PFrame)
  | [] => none
  | f :: fs => if f.tc = tc then some (f, fs) else (takeClass tc fs).map (fun r => (r.1, f :: r.2))

/-- Send the queued frames of the open gates that end before their gates close; `t` is in tenths of a ns. -/
def Chip.pltDrain (c : Chip) (k : Nat) : Nat → Nat → Chip
  | 0, _ => c
  | fuel + 1, t =>
    let p := c.pport k
    let gates := c.fld (pltPage k) 0x100 12 5
    let pick := (List.range 8).reverse.findSome? (fun tc =>
      if bitN gates tc then
        match takeClass tc p.queue with
        | some (f, rest) => if (c.gateCloses k tc c.now).all (fun u => decide (t + plantTime f.data ≤ 10 * u))
          then some (f, rest) else none
        | none => none
      else none)
    match pick with
    | none => c
    | some (f, rest) =>
      let e := t + plantTime f.data
      let c := c.setPport k { p with queue := rest, sent := padFrame f.data, txEnd := e }
      (c.blkCount (17 + k) 0 1 (frameBytes f.data)).pltDrain k fuel e

/-- Start sending on a plant port as far as link, gates and time allow. -/
def Chip.pltSend (c : Chip) (k : Nat) : Chip :=
  let p := c.pport k
  if c.pltLink k && !c.portGated (pltPage k) then c.pltDrain k p.queue.length (Nat.max (10 * c.now) p.txEnd) else c

/-- Whether the transmit buffer of a plant port, which its queues share, holds a frame of some bytes more (R402). -/
def Chip.txRoom (c : Chip) (k n : Nat) : Bool := decide (bytesIn ((c.pport k).queue.map PFrame.data) + n ≤ 8192)

/-- GUAR frames that do not go out are counted (R390, R391). -/
def Chip.txLate (c : Chip) (k n : Nat) : Chip :=
  let c := (List.range n).foldl (fun c _ => c.bumpFld (pltPage k) 0x100 31 24) c
  if n = 0 then c else c.raise (0x302 + 4 * k)

/-- Queue a frame in its class; a GUAR frame that finds no room counts as late. (DESIGN CHOICE, log entry 88) -/
def Chip.pltQueue (c : Chip) (k : Nat) (f : PFrame) : Chip :=
  let p := c.pport k
  if f.guar && !c.txRoom k (f.data.length + 4) then c.txLate k 1
  else (c.setPport k { p with queue := p.queue ++ [f] }).pltSend k

/-- GATE_CONTROL_ENTRY: an entry of the list begins; one that the next catch cuts never does (R388). -/
def Chip.gateEntry (c : Chip) (k i : Nat) : Chip :=
  match (c.gcl k)[i]? with
  | none => c
  | some e =>
    if c.portGated (pltPage k) || decide (c.nextCatch ≤ c.granuleAt e.offset) then c
    else ((c.reach (c.granuleAt e.offset)).setFld (pltPage k) 0x100 12 5 e.gates).pltSend k

/-- The gates take the first entry of the list at a catch. -/
def Chip.gateRestart (c : Chip) (k : Nat) : Chip :=
  match c.gcl k with
  | [] => c
  | e :: _ => if e.offset = 0 then c.setFld (pltPage k) 0x100 12 5 e.gates else c

/-- PLANT_LINK_CHANGE (R387, R391). -/
def Chip.plantLink (c : Chip) (k : Nat) (up : Bool) : Chip :=
  let kr := c.fld (pltPage k) 0x020 0 0 == 1
  if c.portGated (pltPage k) || (up && c.fld (pltPage k) 0x020 1 1 == 0) || c.pltLink k == up then c
  else
    if up then
      let c := c.setFld (pltPage k) 0x100 0 0 1
      ((if kr then c.setFld (pltPage k) 0x100 2 1 2 else c).raise (0x300 + 4 * k)).runGptp
    else
      let c := c.pltDown k
      if kr then c.pltTrain k else c

/-- TRAINING_TIMEOUT: training has not completed within 500 ms of its start; TRAIN reads failed from then on, while it starts
again (R387, R391). (DEDUCED, log entry 58) -/
def Chip.trainTimeout (c : Chip) (k : Nat) : Chip :=
  let cfg := c.live (pltPage k) 0x020
  if bitN cfg 0 && bitN cfg 1 && !c.pltLink k && !c.portGated (pltPage k) then
    let c := c.reach ((c.pport k).trainAt + 500000000)
    let d := (c.setFld (pltPage k) 0x100 2 1 3).setPport k { c.pport k with trainAt := c.now }
    if c.fld (pltPage k) 0x100 2 1 = 3 then d else d.raise (0x301 + 4 * k)
  else c

/-! ### Stream entries (R389, R390) -/

/-- The four pairs of a stream entry. -/
def Chip.strReg (c : Chip) (k i j : Nat) : Nat := c.live (pltPage k) (0x200 + 8 * i + 2 * j)

/-- The destination address bytes of an entry. -/
def Chip.strDa (c : Chip) (k i : Nat) : List Byte := bytesOf 4 (c.strReg k i 0) ++ bytesOf 2 (c.strReg k i 1)

/-- The tag of a frame: priority and VLAN identifier; untagged frames have class 0 and identifier 0. -/
def frameTag (f : List Byte) : Bool × Nat × Nat :=
  if etherAt f 12 = 0x8100 then (true, etherAt f 14 / 2 ^ 13, etherAt f 14 % 2 ^ 12) else (false, 0, 0)

/-- The entry of a direction that names the stream of a frame. -/
def Chip.strOf (c : Chip) (k dir : Nat) (guar : Bool) (f : List Byte) : Option Nat :=
  let (_, _, vid) := frameTag f
  (List.range 64).find? (fun i =>
    bitN (c.strReg k i 1) 31 && bits (c.strReg k i 2) 0 0 == dir && (dir == 0 || bitN (c.strReg k i 2) 11 == guar)
    && bits (c.strReg k i 1) 27 16 == vid && c.strDa k i == f.take 6)

/-- Whether REPL of an entry acts: one party owns both ports. Otherwise it is ignored and REPLBAD is set. -/
def Chip.replicates (c : Chip) (k i : Nat) : Chip × Bool :=
  if !bitN (c.strReg k i 2) 10 then (c, false)
  else if c.pageOwner (pltPage 0) == c.pageOwner (pltPage 1) && (c.pageOwner (pltPage 0)).isSome then (c, true)
  else (c.setErr (pltPage k) 8 (0x200 + 8 * i + 4) false launchRq, false)

/-- An R-TAG of a sequence number. -/
def rTag (seq : Nat) : List Byte := [0xF1, 0xC1, 0, 0, BitVec.ofNat 8 (seq / 256), BitVec.ofNat 8 seq]

/-- The next sequence number of an outbound entry. -/
def Chip.nextSeq (c : Chip) (k i : Nat) : Chip × Nat :=
  let p := c.pport k
  let s := tget {} p.strm i
  (c.setPport k { p with strm := tset {} p.strm i { s with seq := (s.seq + 1) % 2 ^ 16 } }, s.seq)

/-- Queue a frame on its port, or on both when it is replicated. -/
def Chip.pltQueues (c : Chip) (k : Nat) (both : Bool) (f : PFrame) : Chip :=
  if both then (c.pltQueue 0 f).pltQueue 1 f else c.pltQueue k f

/-- A GUAR frame of an entry (R390). (DESIGN CHOICE, log entry 9) -/
def Chip.guarFrame (c : Chip) (k i seq : Nat) (d : Oct) : List Byte :=
  let tci := bits (c.strReg k i 2) 9 7 * 2 ^ 13 + bits (c.strReg k i 1) 27 16
  let ety := c.fld (pltPage k) 0x020 31 16
  c.strDa k i ++ (List.range 6).map (Config.portAddr k) ++ [0x81, 0, BitVec.ofNat 8 (tci / 256), BitVec.ofNat 8 tci]
  ++ rTag seq ++ [BitVec.ofNat 8 (ety / 256), BitVec.ofNat 8 ety] ++ bytesOf 16 d.toNat

/-- A step of a guaranteed lane at a plant port: a frame of each entry that names the lane (R390, R392). -/
def Chip.guarStep (c : Chip) (k l : Nat) (d : Oct) : Chip :=
  if c.portGated (pltPage k) || (c.standby && c.fld (pltPage k) 0x020 2 2 == 1) then c
  else
    (List.range 64).foldl (fun c i =>
      let x := c.strReg k i 2
      if bitN (c.strReg k i 1) 31 && bitN x 0 && bitN x 11 && bits x 28 16 == l then
        let (c, both) := c.replicates k i
        let (c, seq) := c.nextSeq k i
        c.pltQueues k both ⟨bits x 9 7, true, padFrame (c.guarFrame k i seq d)⟩
      else c) c

/-- An oct delivered to the port a lane is bound to. -/
def Chip.deliver (c : Chip) (l : Nat) (d : Oct) : Chip :=
  match c.conns.find? (fun q => q.kind == 3 && q.a == l && q.dir == 1) with
  | none => c
  | some q =>
    if q.port < 32 then
      if c.portGated (fpPage q.port) then c
      else
        let p := c.fport q.port
        c.setFport q.port { p with outs := tset none p.outs l (some d), outNew := p.outNew.filter (· != l) ++ [l] }
    else if q.port < 34 then c.guarStep (q.port - 32) l d
    else c

/-- PINNED_OUTBOUND_STEP: the oct a pinned lane whose step is due delivers to its port; one that reads poisoned or
uncorrectable delivers nothing (R310, R322). (DESIGN CHOICE, log entry 89) -/
def Chip.outboundStep (c : Chip) (l : Nat) : Chip :=
  if !c.lane.due.contains l then c
  else
    let c := { c with lane := { c.lane with due := dropFirst (· == l) c.lane.due } }
    match c.pinStep l with
    | .missed => c.stepMissed
    | .notOwned => c.laneError l 1
    | .at_ a key => if c.physErr a 8 then c.physLog a 8 else c.deliver l (BitVec.ofNat 128 (c.physRead key a 8))

/-- The PCP of a tagged frame becomes a traffic class. -/
def setPcp (f : List Byte) (tc : Nat) : List Byte := f.set 14 (BitVec.ofNat 8 (tc % 8 * 32 + (f.getD 14 0).toNat % 32))

/-- What a party sends on a plant port: the R-TAG of an outbound entry of its stream, and the entry's class, which a tag
carries as PCP (R387, R389). -/
def Chip.plantOut (c : Chip) (k : Nat) (f : List Byte) : Chip :=
  let (tagged, pcp, _) := frameTag f
  match c.strOf k 1 false f with
  | none => c.pltQueue k ⟨pcp, false, padFrame f⟩
  | some i =>
    let (c, both) := c.replicates k i
    let (c, seq) := c.nextSeq k i
    let h := if tagged then 16 else 12
    let tc := bits (c.strReg k i 2) 9 7
    let f := if tagged then setPcp f tc else f
    c.pltQueues k both ⟨tc, false, padFrame (f.take h ++ rTag seq ++ f.drop h)⟩

/-- Whether the ports a party's frame goes out on have room for it, with its R-TAG (R389, R402). -/
def Chip.plantRoom (c : Chip) (k : Nat) (f : List Byte) : Bool :=
  let ks := match c.strOf k 1 false f with
    | some i => if (c.replicates k i).2 then [0, 1] else [k]
    | none => [k]
  ks.all (fun k => c.txRoom k ((padFrame f).length + 10))

/-- Bytes of words by R2. -/
def unpackWords (ws : List Word) : List Byte := ws.flatMap (fun w => [w.extractLsb' 0 8, w.extractLsb' 8 8])

/-- MESSAGE_COPY for an outbound best-effort lane of a port: one frame from the descriptor at CIDX (R380, R390). -/
def Chip.portOutbound (c : Chip) (port l : Nat) : Chip :=
  let x := c.ln l
  let page := if port < 32 then fpPage port else pltPage (port - 32)
  let ready := if port < 32 then c.fpLink port && (c.fport port).closed && decide ((c.fport port).txEnd ≤ c.now)
    else c.pltLink (port - 32)
  if x.st != .run || x.waiting == 0 || c.portGated page || !ready || !c.unitFree then c
  else match c.descFault l with
  | some k => (c.physLog (x.descAt x.cidx) 8).laneError l k
  | none =>
    let d := c.laneDesc l x.cidx
    let n := Nat.min (descLen d) 759
    let at_ := descAddrOf d
    let ok := descLen d != 0 && !descReserved d && c.ownsRange (c.laneOwner l) at_ n && !c.physErr at_ n
    let (cb, bus) := c.busStatus
    let status :=
      if descLen d == 0 || descReserved d then 4
      else if c.unlisted at_ n then bus
      else if !c.ownsRange (c.laneOwner l) at_ n then 2
      else if c.physErr at_ n then 3
      else if 759 < descLen d then 1 else 0
    let f := unpackWords (toWords n (c.physRead (c.partyKey (c.laneOwner l)) (descAddrOf d) n))
    let wait := if port < 32 then (match c.nextTx port c.now (fieldTime f) with
      | some t => decide (t ≤ c.now + fieldTime f)
      | none => false) else !c.plantRoom (port - 32) f
    if wait && ok then c
    else
      let c := if ok then c else if c.unlisted at_ n then cb else c.physLog at_ n
      let c := if !ok || isGptp f then c else if port < 32 then c.fieldSend port f else c.plantOut (port - 32) f
      c.descEnd l status (if ok then n else 0) none (descEvt d)

/-- End the descriptor at CIDX of a lane with a status and no words moved, and notify if it has EVT. -/
def Chip.endDesc (c : Chip) (l status : Nat) : Chip := c.descEnd l status 0 none (descEvt (c.laneDesc l (c.ln l).cidx))

/-- A step of a pinned lane ends with nothing moved. -/
def Chip.dropStep (c : Chip) (l : Nat) : Chip :=
  { c with lane := { c.lane with
    inq := ((takeHanded l c.lane.inq).map Prod.snd).getD c.lane.inq
    due := dropFirst (· == l) c.lane.due } }

/-- The step of a lane that waits for a response ends with a status. A pinned lane has no status to write; a command gets no
handle, and one whose descriptor read is uncorrectable puts the lane in ERROR (R313). (DEDUCED, log entry 62) -/
def Chip.laneEnd (c : Chip) (l code : Nat) (ecc : Bool) : Chip :=
  let busy (l : Nat) : Bool := (c.ln l).st == .run && (c.ln l).waiting != 0
  if c.lanePinned l then c.dropStep l
  else match c.copyOf l, c.conns.find? (fun q => q.a == l && q.kind != 2) with
    | some k, _ => c.copyEnd k code
    | none, none => c
    | none, some q =>
      if !busy l then c
      else if q.kind = 0 then (if busy q.b then (c.endDesc l code).endDesc q.b code else c)
      else if q.kind = 1 then
        if ecc then c.laneError l 2 else (c.descStatus l (c.ln l).cidx code 0xFFFF none).laneNext l
      else c.endDesc l code

/-- The step of a lane that waits for a response ends with status BUS (R303). -/
def Chip.laneBus (c : Chip) (l : Nat) : Chip :=
  let (c, code) := c.busStatus
  c.laneEnd l code false

/-- MESSAGE_COPY of a lane: a MESSAGE pair by its sender, or a best-effort lane of a port. (DEDUCED, log entry 62) -/
def Chip.laneStep (c : Chip) (l : Nat) : Chip :=
  match c.conns.find? (fun q => q.kind == 3 && q.a == l && decide (q.port < 34) && !c.lanePinned l) with
  | some q => if q.dir = 1 then c.portOutbound q.port l else c.portTake q.port
  | none => c.messageCopy l

/-! ### Frames received by plant ports (R389, R390) -/

/-- The vector recovery of 802.1CB: accept or drop a sequence number. -/
def Strm.vector (s : Strm) (len seq : Nat) : Strm × Bool :=
  if !s.live then ({ s with seq := seq, hist := 1, live := true }, true)
  else
    let d := sgn 16 (seq + 2 ^ 16 - s.seq)
    if (len : Int) ≤ d ∨ d ≤ -(len : Int) then (s, false)
    else if 0 < d then ({ s with seq := seq, hist := (s.hist * 2 ^ d.toNat + 1) % 2 ^ len }, true)
    else if s.hist.testBit (-d).toNat then (s, false)
    else ({ s with hist := s.hist + 2 ^ (-d).toNat }, true)

/-- The match recovery of 802.1CB. -/
def Strm.matching (s : Strm) (seq : Nat) : Strm × Bool :=
  if s.live && s.seq == seq then (s, false) else ({ s with seq := seq, live := true }, true)

/-- The port and entry that hold the recovery of an inbound stream: one for both ports when it is replicated. -/
def Chip.recoveryAt (c : Chip) (k i : Nat) (both : Bool) (f : List Byte) : Nat × Nat :=
  if both then
    match c.strOf 0 0 false f with
    | some j => (0, j)
    | none => (k, i)
  else (k, i)

/-- Sequence recovery of a received frame: whether it is accepted. -/
def Chip.recover (c : Chip) (k : Nat) (f : List Byte) : Chip × Bool :=
  match c.strOf k 0 false f with
  | none => (c, true)
  | some i =>
    let (c, both) := c.replicates k i
    let h := if (frameTag f).1 then 16 else 12
    if etherAt f h ≠ 0xF1C1 then (c, false)
    else
      let seq := etherAt f (h + 4)
      let (k', i') := c.recoveryAt k i both f
      let p := c.pport k'
      let s := tget {} p.strm i'
      let x := c.strReg k i 2
      let (s, ok) := if bitN x 1 then s.matching seq else s.vector (bits x 6 2 + 1) seq
      (c.setPport k' { p with strm := tset {} p.strm i' s }, ok)

/-- PLANT_FRAME_RECEIVED: bytes without the FCS, whether it is valid, and TB at the frame's start. -/
def Chip.plantFrame (c : Chip) (k : Nat) (f : List Byte) (fcsOk : Bool) (stamp : Nat) : Chip :=
  if c.portGated (pltPage k) || !c.pltLink k || !frameFits f then c
  else
    let c := c.blkCount (17 + k) 0 0 (f.length + 4)
    if !fcsOk || isGptp f then c
    else
      let (c, ok) := c.recover k f
      if !ok then c
      else
        c.received (32 + k) f (some (c.plantStamp stamp % 2 ^ 16))

/-- STREAM_RECOVERY_RESET: RESETMS without a frame of an inbound entry (R389, R391). -/
def Chip.recoveryReset (c : Chip) (k i : Nat) : Chip :=
  if bitN (c.strReg k i 1) 31 && bits (c.strReg k i 2) 0 0 == 0 then
    let p := c.pport k
    (c.setPport k { p with strm := tset {} p.strm i {} }).raise (0x303 + 4 * k)
  else c

/-- GUAR frames still queued at a catch are discarded and counted (R390). -/
def Chip.pltCatch (c : Chip) (k : Nat) : Chip :=
  let p := c.pport k
  let late := (p.queue.filter PFrame.guar).length
  ((c.setPport k { p with queue := p.queue.filter (fun f => !f.guar) }).txLate k late).gateRestart k

/-- BLOCK reset and hand-over of a plant port. -/
def Chip.pltReset (c : Chip) (k : Nat) : Chip := ((c.setPport k {}).blockReset (pltPage k)).ungate (pltPage k)

end Sys2Proof.Machine
end

