-- ==== Sys2Proof/Machine/Pair.lean ====
section
/-! DEFINITION. The timebase, its servo, and the pair link with mirroring and yields (chapter "Field Ports, Plant Ports, Pair
Link and Time", R368 to R373 and R393 to R403). -/

namespace Sys2Proof.Machine

/-! ### The timebase (R368 to R373) -/

/-- RATE as a signed number, clamped to ±100 ppm. -/
def Chip.tbRate (c : Chip) : Int := (clamp (-429496) 429496 (sgn 24 (c.fld 0x004 0x102 23 0))).1

/-- One ACLK edge: TB adds 10 × (1 + RATE × 2^-32) ns with 32 fraction bits (R368). (DESIGN CHOICE, log entry 2) -/
def Chip.tick (c : Chip) : Chip :=
  let t := (c.now * 2 ^ 32 + c.nowFrac : Int) + 10 * (2 ^ 32 + c.tbRate)
  { c with now := t.toNat / 2 ^ 32, nowFrac := t.toNat % 2 ^ 32 }

/-- Whether a bank is LIVE or ARMED: then TB may not step (R370). -/
def Chip.planHolds (c : Chip) : Bool := c.isLive || c.armedAt.isSome

/-- In GO a flit goes to the partner at least every 1 µs: an idle flit with a TB stamp where nothing else has been sent
(R397). -/
def Chip.keepAlive (c : Chip) : Chip :=
  if c.inGo && decide (c.pair.sentAt + 1000 ≤ c.now) && c.pair.waiting.isEmpty && decide (c.pair.replay.length < replayFlits) then
    c.pairSend [.idle (BitVec.ofNat 64 c.now)]
  else c

/-- TB_STEP: TB takes a new value while no bank is LIVE or ARMED; it never decreases (R368, R370). (DEDUCED, log entry 59) -/
def Chip.tbStep (c : Chip) (t : Nat) : Chip := if c.planHolds then c else c.reach t

/-- TB_ALARM: TB reaches the instant of an alarm that is not disabled. -/
def Chip.tbAlarm (c : Chip) (k : Nat) : Chip :=
  let t := c.live 0x004 (0x140 + 4 * k) + c.live 0x004 (0x142 + 4 * k) * 2 ^ 32
  if t = 0 then c else (c.reach t).raise (0x320 + k)

/-- A read of TBNOWL latches the high half for the requester (R373). -/
def Chip.tbnowl (c : Chip) (r : Requester) : Chip × Nat :=
  (c.setBank 0x004 0x182 r.unit 0 (c.now / 2 ^ 32 % 2 ^ 32), c.now % 2 ^ 32)

/-- The source the servo follows: 0 none, 1 IEEE 802.1AS, 2 the pair link (R371). -/
def Chip.timeSource (c : Chip) : Nat :=
  let s := c.fld 0x004 0x020 1 0
  if s = 3 then (if c.inGo && !c.pair.active then 2 else 1) else s

/-- The RATE the servo sets for an offset: a value no rule gives, but on the standby in GO, whose TB is to stay within ±10 ns
of the active chip's, the one that takes an offset beyond that back fastest (R371, R372). (DESIGN CHOICE, log entry 102) -/
def servoRate (src : Nat) (offs : Int) (v : Nat) : Int :=
  if src = 2 && decide (10 < offs) then -429496
  else if src = 2 && decide (offs < -10) then 429496
  else (clamp (-429496) 429496 (sgn 24 v)).1

/-- The servo takes a measured offset from the source it follows: OFFS, LOCK after 1 s within ±100 ns, and a new RATE. -/
def Chip.servo (c : Chip) (src : Nat) (offs : Int) : Chip :=
  let near := decide (-100 ≤ offs) && decide (offs ≤ 100)
  let at_ := if near then some (c.lockAt.getD c.now) else none
  let lock := match at_ with
    | some t => decide (t + 1000000000 ≤ c.now)
    | none => false
  let (c, v) := c.draw
  let rate := servoRate src offs v
  let c := { c with lockAt := at_ }
  let c := c.setFld 0x004 0x100 1 0 src
  let c := c.setFld 0x004 0x100 4 3 (b2n lock)
  let c := c.setFld 0x004 0x100 31 16 (wrap 16 (clamp (-32767) 32767 offs).1)
  c.setFld 0x004 0x102 23 0 (wrap 24 rate)

/-- The delay of a peer-delay exchange: half of the round trip less the time the peer held it (R371). (PRESUMED, log entry
101) -/
def peerDelay (t1 t2 t3 t4 : Nat) : Nat := (((t4 : Int) - t1 - ((t3 : Int) - t2)) / 2).toNat

/-- GPTP_MESSAGE: a message on a taking-part port is processed: an announcement runs the best master clock algorithm, a
synchronisation of a slave port gives the servo its offset, a peer-delay exchange the delay of the link (R371, R391). What the
chip itself sends and relays is seen by the other end only. (PRESUMED, log entry 101) -/
def Chip.gptp (c : Chip) (m : GptpMsg) : Chip :=
  let k := m.port.val
  if !c.takesPart k then c
  else match m.body with
    | .announce p r n => (c.setPport k { c.pport k with announced := some (clockRank p.toNat r.toNat n.toNat) }).runGptp
    | .sync t1 t2 =>
      if c.timeSource == 1 && c.fld (pltPage k) 0x100 4 3 == 2 then
        c.servo 1 ((t2.toNat : Int) - t1.toNat - (c.pport k).delay)
      else c
    | .peerDelay t1 t2 t3 t4 => c.setPport k { c.pport k with delay := peerDelay t1.toNat t2.toNat t3.toNat t4.toNat }

/-- TIME_SOURCE_LOST: the servo keeps the last RATE (R371). (DEDUCED, log entry 59) -/
def Chip.timeLost (c : Chip) : Chip :=
  if c.fld 0x004 0x100 1 0 = 0 then c
  else ({ c with lockAt := none }).setFld 0x004 0x100 4 0 (16 + c.fld 0x004 0x100 2 2 * 4)

/-! ### Training and ATTENTION (R394 to R396, R444) -/

/-- Lanes of a mask. -/
def laneList (m : Nat) : List Nat := (List.range 5).filter (bitN m)

/-- The state of the link as PAIRSTAT shows it: SILENT becomes ALIGN once EN is 1 and 1 ms has passed in it (R394). -/
def Chip.pairState (c : Chip) : PairSt :=
  if c.pair.st == .silent && c.fld 0x0F3 0x020 0 0 == 1 && decide (c.pair.since + 1000000 ≤ c.now) then .align else c.pair.st

/-- ALIGN: after 1 ms in SILENT with EN 1 the link is in ALIGN; it trains and deskews its lanes, and leaves for ATTENTION, or
for SILENT with fewer than four good lanes or after 10 ms (R394). On entering ATTENTION it draws a fresh nonce (R395). -/
def Chip.pairAlign (c : Chip) (e : AlignEnd) : Chip :=
  if c.pair.st != .silent || c.fld 0x0F3 0x020 0 0 == 0 then c
  else
    let c := c.reach (c.pair.since + 1000000)
    let good := laneList e.good.toNat
    if good.length < 4 then c.pairDrop 7
    else if !e.both then (c.reach (c.pair.since + 11000000)).pairDrop 2
    else
      let d := c.draw
      { d.1 with pair := { c.pair with
        st := .attention, since := c.now, lanes := e.good.toNat, spare := good[4]?, retrain := [], rxSeq := 0, bad := 0
        nonce := d.2 % 2 ^ 64 } }

/-- A plan is the partner's (R395). -/
def Plan.isPlan (p : Plan) (x : Partner) : Bool :=
  p.planId == x.planId.toNat && p.seq == x.planSeq.toNat && ofWords p.digest == x.digest.toNat

/-- The state of the inactive bank (R48). -/
def Chip.altSt (c : Chip) : BankSt := c.altBank.st

/-- Whether R395 item 3 holds: one live plan on both, or one live and the other ADMITTED; at start-up, one plan ADMITTED on
both (R444). The second part says whether this chip's plan is still to become live. -/
def Chip.samePlan (c : Chip) (x : Partner) : Bool × Bool :=
  match c.livePlan with
  | some p => (p.isPlan x && (x.live || x.admitted), false)
  | none =>
    match c.altBank.plan with
    | some p => (p.isPlan x && (x.live || x.admitted) && (c.altSt == .admitted || c.altSt == .armed), true)
    | none => (false, true)

/-- Whether this chip drives outputs: active with a live plan (R396). -/
def Chip.drives (c : Chip) : Bool := c.pair.active && c.isLive

/-- How long this chip has been active, in ns. -/
def Chip.activeFor (c : Chip) : Nat := if c.drives then c.now - c.pair.actAt else 0

/-- The UID of this chip. -/
def Chip.uid (c : Chip) : Nat := c.live 0 0x100 + c.live 0 0x102 * 2 ^ 32

/-- Whether this chip is the active one by R396, and whether it must first give way at the first catch in GO. -/
def Chip.pairRole (c : Chip) (x : Partner) : Bool × Bool :=
  let pref := c.fld 0x0F3 0x020 1 1 == 1
  if c.drives && x.drove then
    let longer := decide (x.activeFor.toNat < c.activeFor) ||
      (x.activeFor.toNat == c.activeFor && decide (c.uid < x.uid.toNat))
    (true, !longer)
  else if c.drives then (true, false)
  else if x.drove then (false, false)
  else if pref != x.pref then (pref, false)
  else (decide (c.uid < x.uid.toNat), false)

/-- The digest of a mirror table, by its MIR registers in order (R395). (DESIGN CHOICE, log entry 34) -/
def mirrorDigest (ms : List Nat) : Nat := sha384 (((List.range 64).map (fun k => ms.getD k 0)).flatMap (toWords 2))

/-- Whether the partner's mirror table has the digest of this chip's (R395). -/
def Chip.mirrorSame (c : Chip) (x : Partner) : Bool :=
  mirrorDigest ((List.range 64).map (fun k => c.live 0x0F3 (0x200 + 2 * k))) == mirrorDigest (x.mirror.map BitVec.toNat)

/-- What this chip sends in ATTENTION: the report of R353 over the partner's nonce, signed with the device key (R395). The
number a signature takes is a value no rule gives. (DESIGN CHOICE, log entry 5) -/
def Chip.sendReport (c : Chip) (nonce : Nat) : Chip :=
  let d := c.draw
  let ws := c.report nonce
  let sig := ecdsaSign c.power.devKey (sha384 ws) (1 + d.2 % (n384 - 1))
  { d.1 with pair := { c.pair with report := ws ++ toWords 24 sig.1 ++ toWords 24 sig.2 } }

/-- The earliest catch of a plan at or after an instant (R22). -/
def Plan.catchFrom (p : Plan) (t : Nat) : Nat :=
  let ns := p.stroke * 1000
  p.epoch + (t - p.epoch + ns - 1) / ns * ns

/-- The first catch at which the plan of one side becomes live: the one the partner names, or, where this chip is the one that
names it, the earliest of the plan at least 1 ms ahead (R443, R444). -/
def Chip.namedCatch (c : Chip) (x : Partner) (active : Bool) : Nat :=
  match c.livePlan, c.altBank.plan with
  | some p, _ => p.catchFrom (c.now + 1000000)
  | none, some p => if x.live || !active then x.start.toNat else p.catchFrom (c.now + 1000000)
  | none, none => x.start.toNat

/-- ATTENTION: the exchange with the partner, into GO or back to SILENT. A link loss that has not taken effect at a catch yet
is dropped where ATTENTION passes: its roles stand instead. A chip without a live plan steps its TB to the partner's as the
exchange begins (R372). (DESIGN CHOICE, log entry 85) -/
def Chip.attention (c : Chip) (x : Partner) : Chip :=
  if c.pair.st != .attention then c
  else if !x.inTime then (c.reach (c.pair.since + 100000000)).pairDrop 2
  else
  let c := (if c.planHolds then c else c.reach x.tb.toNat).sendReport x.nonce.toNat
  if !x.reportOk then
    let (c, v) := c.draw
    c.pairDrop (v % 8)
  else if c.roles.partner = 0 || x.uid.toNat != c.roles.partner then c.pairDrop 3
  else
    let (same, toLive) := c.samePlan x
    if !same then c.pairDrop 4
    else if !c.mirrorSame x then c.pairDrop 5
    else
      let (active, giveWay) := c.pairRole x
      let p := { c.pair with rtt := x.rtt.toNat, rxSeq := 0, bad := 0, loss := none, mirPos := 0, mirDone := false,
                              txSeq := 0, replay := [], waiting := [], nakked := 0, peer := none, peerMir := none }
      let p := { p with
        active := active, standbyAt := giveWay, actAt := if c.drives then p.actAt else c.now }
      if toLive || !x.live then
        -- GO begins at the catch at which the plan becomes live on the chip that has it ADMITTED
        let t := c.namedCatch x active
        let c := { c with pair := { p with goAt := some t } }
        if toLive then
          ({ c with armedAt := some t, committed := true }).setAlt { c.altBank with st := .armed }
        else c
      else { c with pair := { p with st := .go, since := c.now, sentAt := c.now } }

/-! ### Traffic and loss (R397 to R399) -/

/-- GO is lost (R397). -/
def Chip.pairLoss (c : Chip) : Chip :=
  if c.inGo then
    let c := c.pairDrop 6
    { c with pair := { c.pair with loss := some c.now } }
  else c

/-- The shadow area's first word. -/
def Chip.shadowBase (c : Chip) : Nat := c.fld 0x0F3 0x020 24 10 * 4096

/-- The mirrored regions in table order: base and words (R400). -/
def Chip.mirrorRegions (c : Chip) : List (Nat × Nat) :=
  (List.range 64).filterMap (fun k =>
    let x := c.live 0x0F3 (0x200 + 2 * k)
    if bitN x 31 then some (bits x 14 0 * 4096, (bits x 29 15 + 1) * 4096) else none)

/-- Words of the mirror table's regions. -/
def Chip.mirrorWords (c : Chip) : Nat := (c.mirrorRegions.map Prod.snd).foldl (· + ·) 0

/-- YIELD: a yield message of the partner. -/
def Chip.yieldMsg (c : Chip) : Chip := if c.inGo then { c with pair := { c.pair with yieldGot := true } } else c

/-- A negative acknowledgement: the flits in the replay buffer are sent again, the eldest for the 8th time at most (R397). -/
def Chip.nakked (c : Chip) : Chip :=
  let c := c.bumpFld 0x0F3 0x102 15 0
  if 8 ≤ c.pair.nakked then c.pairLoss else { c with pair := { c.pair with nakked := c.pair.nakked + 1 } }

/-- The body of a flit that arrived in order acts (R51, R372, R400). It acts as it arrives, so the receive buffer of R402 holds
nothing between commands. (DEDUCED, log entry 60) -/
def Chip.pairBody (c : Chip) (b : PairBody) : Chip :=
  match b with
  | .idle tb =>
    if c.timeSource == 2 then c.servo 2 ((c.now : Int) - (tb.toNat + c.pair.rtt / 2 : Nat)) else c
  | .nak => c.nakked
  | .decision m => { c with pair := { c.pair with peer := some m } }
  | .mirrorDecision same => { c with pair := { c.pair with peerMir := some same } }
  | .yield_ => c.yieldMsg
  | .mirror x =>
    if c.pair.active then c
    else
      let a := c.shadowBase + c.pair.mirPos
      let c := if c.pair.mirPos + 16 ≤ c.mirrorWords ∧ c.ownsRange none a 16 = true ∧ c.inQdr a = true
        then c.memWrite 0 a (toWords 16 x.toNat) else c
      ({ c with pair := { c.pair with mirPos := c.pair.mirPos + 16 } }).blkCount 19 0 0 32
  | .mirrorEnd n =>
    let ok := decide (n.toNat = c.stroke) && c.pair.mirPos == c.mirrorWords && !c.pair.active
    ({ c with pair := { c.pair with mirDone := c.pair.mirDone || ok } }).blkCount 19 0 0 32

/-- PAIR_FLIT: a flit is checked; a bad one is negatively acknowledged and replayed, up to 8 times. A good one releases what it
acknowledges. (DEDUCED, log entry 60) -/
def Chip.pairFlit (c : Chip) (f : PairFlit) : Chip :=
  if !c.inGo then c
  else if !f.crcOk then
    if 8 ≤ c.pair.bad then c.pairLoss
    else (({ c with pair := { c.pair with bad := c.pair.bad + 1 } }).pairSend [.nak]).bumpFld 0x0F3 0x102 15 0
  else if f.seq.toNat != c.pair.rxSeq then { c with pair := c.pair.acked f.ack.toNat }
  else ({ c with pair := { c.pair.acked f.ack.toNat with rxSeq := (c.pair.rxSeq + 1) % 4096, bad := 0 } }).pairBody f.body

/-- LINK_LOSS: no valid flit for 4 µs. -/
def Chip.linkLoss (c : Chip) : Chip := c.pairLoss

/-- Whether a lane fails: it has lost block lock, or its errors in a millisecond exceed PAIRCFG.LERR (R398). -/
def Chip.laneFails (c : Chip) (x : LaneFault) : Bool := x.lost || decide (c.fld 0x0F3 0x020 9 2 < x.errors.toNat)

/-- LANE_FAILURE: a lane that fails moves its traffic to the spare, or GO is lost (R397, R398). -/
def Chip.laneFail (c : Chip) (x : LaneFault) : Chip :=
  let p := c.pair
  let k := x.lane.val
  if !c.inGo || !bitN p.lanes k || !c.laneFails x then c
  else
    let c := c.bumpFld 0x0F3 0x102 23 16
    let q := { p with lanes := p.lanes - 2 ^ k, retrain := p.retrain ++ [k] }
    if p.spare = some k then { c with pair := { q with spare := none } }
    else match p.spare with
      | some _ => ({ c with pair := { q with spare := none } }).raise 0x309
      | none => c.pairLoss

/-- PAIR_LANE_RETRAINED: a failed lane becomes the spare. -/
def Chip.laneRetrained (c : Chip) (k : Nat) : Chip :=
  let p := c.pair
  if c.inGo && p.retrain.contains k then
    { c with pair := { p with
      lanes := p.lanes + 2 ^ k, retrain := p.retrain.filter (· != k), spare := some (p.spare.getD k) } }
  else c

/-! ### Mirroring (R400, R401) -/

/-- MIRROR_START: at MSTART the active chip sends its regions and an end flit. -/
def Chip.mirrorStart (c : Chip) : Chip :=
  if c.inGo && c.pair.active && c.isLive then
    let c := c.reach (c.granuleAt (c.fld 0x0F3 0x022 25 0))
    let ws := c.mirrorRegions.flatMap (fun r => toWords r.2 (c.rdN 0 r.1 r.2))
    let flits := (List.range (ws.length / 16)).map (fun i =>
      PairBody.mirror (BitVec.ofNat 256 (ofWords ((ws.drop (16 * i)).take 16))))
    (({ c with pair := { c.pair with mirOut := ws } }).pairSend
      (flits ++ [PairBody.mirrorEnd (BitVec.ofNat 64 c.stroke)])).blkCount 19 0 1
      (32 * (ws.length / 16 + 1))
  else c

/-- Copy the shadow area into the regions. -/
def Chip.mirrorCopy (c : Chip) : Chip :=
  (c.mirrorRegions.foldl (fun (r : Chip × Nat) g =>
    (r.1.memWrite 0 g.1 (toWords g.2 (r.1.rdN 0 (c.shadowBase + r.2) g.2)), r.2 + g.2)) (c, 0)).1

/-- What the standby does with the mirror at a catch; `prev` is the catch before. A stroke that a loss of GO cut has an
incomplete mirror too (R401). -/
def Chip.mirrorCatch (c : Chip) (prev : Nat) : Chip :=
  let p := c.pair
  let c' := { c with pair := { p with mirPos := 0, mirDone := false, mirOut := [], mcomp := p.mirDone } }
  if p.active then { c' with pair := { c'.pair with mcomp := p.mcomp } }
  else if p.mirDone then c'.mirrorCopy
  else if (p.st == .go && decide (p.since ≤ prev)) || p.loss.any (fun t => decide (prev ≤ t)) then
    (c'.bumpFld 0x0F3 0x102 31 24).raise 0x30B
  else c'

/-! ### Commands and views -/

/-- PAIR_BIND: records the partner (R403). -/
def Chip.pairBind (c : Chip) (q : Req) (uid : Nat) : Chip :=
  c.roleCmd q 0x0081 (toWords 4 uid) installer (fun c =>
    ({ c with roles := { c.roles with partner := uid } }, .now stDone []))

/-- PAIRSTAT. -/
def Chip.pairstat (c : Chip) : Nat :=
  let p := c.pair
  (match c.pairState with | .silent => 0 | .align => 1 | .attention => 2 | .go => 3) + b2n p.active * 4 + p.spare.getD 7 * 8
  + p.lanes * 2 ^ 6 + b2n (c.roles.partner != 0) * 2 ^ 11 + b2n p.mcomp * 2 ^ 12 + p.cause * 2 ^ 13 + (p.rtt % 2 ^ 16) * 2 ^ 16

end Sys2Proof.Machine
end

