-- ==== Sys2Proof/Machine/Diag.lean ====
section
/-! DEFINITION. Commands of trace and the counters (chapter "Trace and Performance Counters", R412 to R424). -/

namespace Sys2Proof.Machine

/-! ### Trace -/

/-- TRIGGER: a source of R414 triggers; source 2 at its TB instant. -/
def Chip.traceTrigger (c : Chip) (src : Nat) : Chip :=
  let at_ := c.live 0x0F4 0x028 + c.live 0x0F4 0x02A * 2 ^ 32
  (if src = 2 ∧ c.fld 0x0F4 0x026 2 0 = 2 ∧ c.trace.st = .run then c.reach at_ else c).trigger src

/-- The TB instant at which the wake ends: TRWAKE µs after the trigger. (DESIGN CHOICE, log entry 94) -/
def Chip.wakeUntil (c : Chip) : Nat := c.trace.trigAt + c.fld 0x0F4 0x024 23 0 * 1000

/-- WAKE_END: TRWAKE after the trigger, the END frame and STOPPED (R414). -/
def Chip.wakeEnd (c : Chip) : Chip :=
  if c.trace.st == .wake then
    let c := c.reach c.wakeUntil
    ((c.funnelOffer (endFrame c.now)).setTrSt .stopped).raise 0x325
  else c

/-- TRACE_OVERFLOW: an encoder that dropped packets has 2 frames free; the outcomes it has collected, OVF, then a SYNC (R407,
R409, R413). -/
def Chip.traceOverflow (c : Chip) (core : Nat) : Chip :=
  let e := c.enc core
  if e.lost = 0 || 30 < e.frames.length then c
  else
    let e' := c.syncOf core (({ e with lost := 0 }.atom core).put core [BitVec.ofNat 16 (6 + e.lost * 16)]) 2
    let n := Nat.min 0xFFFF_FFFF (c.live 0x0F4 0x106 + e.lost)
    ((c.setEnc core e').setLive 0x0F4 0x106 n).raise 0x326

/-- FRAME_SEND: the oldest frame of an encoder goes to the funnel, if it accepts one (R412): its flit leaves its stop and
arrives at stop 20. (DESIGN CHOICE, log entry 94) -/
def Chip.frameSend (c : Chip) (core : Nat) : Chip :=
  let c := c.trDrain
  let e := c.enc core
  match e.frames with
  | [] => c
  | f :: fs =>
    if c.funnelOpen then
      (((c.setEnc core { e with frames := fs }).funnelPut f).blkCount (core / 8) 0 1 32).blkCount 20 0 0 32
    else c

/-- Every core goes into holdover: its encoder records it, and its frames go to the funnel (R411). -/
def Chip.holdPackets (c : Chip) : Chip :=
  (List.range 64).foldl (fun c core => (List.range 32).foldl (fun c _ => c.frameSend core) (c.emitGated core 3)) c

/-! ### Counters -/

/-- The counting mode of R419: 0 START-UP, 1 SERVICE, 2 TEST, 3 RECOVERY. -/
def Chip.countMode (c : Chip) : Nat :=
  if !c.isLive then 0
  else if c.lifecycle ≠ 2 then 2
  else
    let world := c.web.st == .restarting || c.deckle.st == .restarting
    let part := c.parts.any (fun e => e.2.st == .restarting)
    let mem := [0, 1].any (fun k => let s := (tget {} c.ext.lpd k).st; s == .frozen || s == .sync)
    let pair := (c.livePlan.map Plan.paired).getD false && !c.inGo
    if world || part || mem || pair then 3 else 1

/-- PMMODE takes the mode that holds: at a catch, or at once while no plan is live (R419). -/
def Chip.setMode (c : Chip) : Chip := c.setFld 0x0F5 0x100 1 0 c.countMode

/-- Whether counter `k` counts the wraps of counter `k - 1` (R420). -/
def Chip.chains (c : Chip) (k : Nat) : Bool := !c.pmService && k % 2 == 1

/-- PMCNTkH as read: bits 47:32, OVF and CHAIN. -/
def Chip.pmHigh (c : Chip) (pi k : Nat) : Nat := c.fld (0x020 + pi) (0x152 + 4 * k) 16 0 + b2n (c.chains k) * 2 ^ 17

/-- COUNTER_OVERFLOW: events take a counter that counts past its limit (R420). -/
def Chip.counterOverflow (c : Chip) (pi k : Nat) : Chip :=
  if bitN (c.live (0x020 + pi) (0x140 + 2 * k)) 20 && !c.pmFrozen then c.pmAdd pi k (2 ^ 48 - c.pmGet pi k) else c

/-- A read of PMCNTkL latches the high part for the requester (R421). -/
def Chip.pmLow (c : Chip) (r : Requester) (pi k : Nat) : Chip × Nat :=
  (c.setBank (0x020 + pi) (0x152 + 4 * k) r.unit 0 (c.pmHigh pi k), c.live (0x020 + pi) (0x150 + 4 * k))

/-- A write of PMCNTkL is held (R421). -/
def Chip.pmHold (c : Chip) (r : Requester) (pi k x : Nat) : Chip := c.setBank (0x020 + pi) (0x150 + 4 * k) r.unit 0 x

/-- A write of PMCNTkH loads the counter with both halves; a 1 in OVF clears it (R421). -/
def Chip.pmLoad (c : Chip) (r : Requester) (pi k x : Nat) : Chip :=
  let lo := c.bank (0x020 + pi) (0x150 + 4 * k) r.unit 0
  let c := c.pmSet pi k (lo + bits x 15 0 * 2 ^ 32)
  if bitN x 16 then c.setFld (0x020 + pi) (0x152 + 4 * k) 16 16 0 else c

/-- A window of the block counters ends at a TB instant: every counter is copied, compared and restarted (R422); a frozen one
keeps its value (R423, R424). -/
def Chip.blockEnd (c : Chip) (t : Nat) : Chip :=
  if c.pmFrozen then { c with blkAt := t }
  else
  let c := (List.range 32).foldl (fun c k =>
    let n := tget 0 c.blk k
    let c := c.setLive 0x0F5 (0x140 + 2 * k) n
    c.setLive 0x0F5 (0x180 + 2 * k) (Nat.max n (c.live 0x0F5 (0x180 + 2 * k)))) c
  { c with blk := [], blkAt := t }

/-- The instant at which the running window of the block counters ends: after PMWIN.LEN granules, cut at the next catch.
(DESIGN CHOICE, log entry 94) -/
def Chip.blockUntil (c : Chip) : Nat :=
  let t := c.blkAt + 20 * c.fld 0x0F5 0x026 19 0
  if c.isLive && c.strokeOn then Nat.min t c.nextCatch else t

/-- BLOCK_COUNTER_WINDOW_END. -/
def Chip.blockWindow (c : Chip) : Chip := (c.reach c.blockUntil).blockEnd c.blockUntil

/-- The last window of a stroke is cut at the catch that ends it, unless it has ended there (R422). -/
def Chip.blockCut (c : Chip) : Chip := if c.blkAt < c.catchAt then c.blockEnd c.catchAt else c

/-- A write of PMSNAPCTL: FREEZE, ARM and THAW (R423, R424). -/
def Chip.snapCtl (c : Chip) (x : Nat) : Chip :=
  let c := c.setFld 0x0F5 0x024 1 1 (bits x 1 1)
  let c := if bitN x 0 then c.setFld 0x0F5 0x102 0 0 1 else c
  if bitN x 2 then c.setFld 0x0F5 0x102 1 1 0 else c

/-- FINISH_SNAPSHOT: every counter is copied at the snapshot instant and may freeze (R423). -/
def Chip.finishSnapshot (c : Chip) : Chip :=
  if c.fld 0x0F5 0x102 0 0 = 0 then c
  else
    let c := c.reach (c.live 0x0F5 0x020 + c.live 0x0F5 0x022 * 2 ^ 32)
    let c := (List.range 72).foldl (fun c pi =>
      (List.range 8).foldl (fun c k =>
        (c.setLive (0x020 + pi) (0x170 + 4 * k) (c.live (0x020 + pi) (0x150 + 4 * k))).setLive (0x020 + pi)
          (0x172 + 4 * k) (c.pmHigh pi k)) c) c
    let c := (List.range 32).foldl (fun c k => c.setLive 0x0F5 (0x1C0 + 2 * k) (tget 0 c.blk k)) c
    let c := c.setFld 0x0F5 0x102 0 0 0
    let c := if c.fld 0x0F5 0x024 1 1 = 1 then c.setFld 0x0F5 0x102 1 1 1 else c
    (c.setFld 0x0F5 0x102 31 16 ((c.fld 0x0F5 0x102 31 16 + 1) % 2 ^ 16)).raise 0x328

/-- A snapshot armed for an instant that a catch has reached is taken before what the catch changes (R424). -/
def Chip.snapCatch (c : Chip) : Chip :=
  if c.live 0x0F5 0x020 + c.live 0x0F5 0x022 * 2 ^ 32 ≤ c.catchAt then c.finishSnapshot else c

end Sys2Proof.Machine
end

