-- ==== Sys2Proof/Machine/External.lean ====
section
/-! DEFINITION. The QDR channels, the LPDDR controllers and the scrub of the on-chip arrays (chapter "QDR Main Memory and LPDDR
Bulk Memory", R249). -/

namespace Sys2Proof.Machine

/-! ### QDR (R320 to R328) -/

/-- The page of a channel. -/
def qdrPage (ch : Nat) : Nat := 0x0E0 + ch

/-- A channel. -/
def Chip.qd (c : Chip) (ch : Nat) : Qdr := tget {} c.ext.qdr ch

/-- The chip with a channel replaced. -/
def Chip.setQd (c : Chip) (ch : Nat) (q : Qdr) : Chip := { c with ext := { c.ext with qdr := tset {} c.ext.qdr ch q } }

/-- The port a request takes (R323): `some false` A, `some true` B; none while no port may serve it. A port reserved for its
party serves a best-effort request only while idle. -/
def Qdr.port (q : Qdr) (party : Nat) (guar busyA busyB : Bool) : Option Bool :=
  let pick (a b : Bool) : Option Bool := if a && !(busyA && b) then some false else if b then some true else none
  let mine (w : Option QdrWin) : Bool := w.any (fun w => w.party == party)
  let ra := mine q.winA
  let rb := mine q.winB
  if guar && (ra || rb) then pick ra rb
  else match pick q.winA.isNone q.winB.isNone with
    | some p => some p
    | none => pick (ra && !busyA) (rb && !busyB)

/-- Count corrected quads; source +0 when the count reaches its largest value. -/
def Chip.qdrCorrected (c : Chip) (ch : Nat) : Chip :=
  let c' := c.bumpFld (qdrPage ch) 0x102 15 0
  if c'.fld (qdrPage ch) 0x102 15 0 = 0xFFFF ∧ c.fld (qdrPage ch) 0x102 15 0 ≠ 0xFFFF then c'.raise (0x30C + 2 * ch) else c'

/-- Log an uncorrectable (`poison` false) or poisoned read of a quad, count it and raise source +1 (R322). -/
def Chip.qdrLog (c : Chip) (ch a : Nat) (poison portB scrub : Bool) : Chip :=
  let pg := qdrPage ch
  let c := if poison then c.bumpFld pg 0x102 31 24 else c.bumpFld pg 0x102 23 16
  let c := if c.fld pg 0x106 3 3 = 1 then c
    else (c.setLive pg 0x104 (a - a % 4)).setLive pg 0x106 (b2n poison + b2n portB * 2 + b2n scrub * 4 + 8)
  c.raise (0x30C + 2 * ch + 1)

/-- A read of a quad at a word address: corrected, poisoned or uncorrectable; an uncorrectable quad is rewritten poisoned
(R322). The flag says whether data is returned. -/
def Chip.qdrCheck (c : Chip) (ch a : Nat) (portB scrub : Bool) (find : EccFind) : Chip × Bool :=
  let q := a / 4
  if tget false c.ext.qpoison q then (c.qdrLog ch a true portB scrub, false)
  else if tget false c.ext.qbad q || find == .bad then
    let c := c.qdrLog ch a false portB scrub
    ({ c with ext := { c.ext with qpoison := tset false c.ext.qpoison q true, qbad := tset false c.ext.qbad q false } }, false)
  else if find == .corrected then (c.qdrCorrected ch, true)
  else (c, true)

/-- Both quads of an oct, or one quad. -/
def Chip.qdrCheckAll (c : Chip) (r : QdrReq) (a : Nat) (portB : Bool) : Chip × Bool :=
  let (c1, ok1) := c.qdrCheck r.ch.val a portB false r.find
  if r.oct then
    let (c2, ok2) := c1.qdrCheck r.ch.val (a + 4) portB false r.find2
    (c2, ok1 && ok2)
  else (c1, ok1)

/-- Set marks. -/
def setMarks (t : Tbl Bool) (qs : List Nat) (b : Bool) : Tbl Bool := qs.foldl (fun t q => tset false t q b) t

/-! ### Injected errors (R360) -/

/-- What an armed injection of KIND 0 or 1 makes of the next array read of a block. -/
def Chip.injectRead (c : Chip) (page : Nat) (find : EccFind) : Chip × EccFind :=
  match c.armed page with
  | some 0 => (c.injected page, if find == .bad then .bad else .corrected)
  | some 1 => (c.injected page, .bad)
  | _ => (c, find)

/-- Whether an armed injection of KIND 2 poisons the next write of a block. -/
def Chip.injectWrite (c : Chip) (page : Nat) : Chip × Bool :=
  if c.armed page = some 2 then (c.injected page, true) else (c, false)

/-- QDR_ACCESS: the channel assigns an accepted request to a port and performs it (R321 to R323, R327). (DESIGN CHOICE, log
entry 29) -/
def Chip.qdrAccess (c : Chip) (r : QdrReq) : Chip :=
  let ch := r.ch.val
  let q := c.qd ch
  let n := if r.oct then 8 else 4
  let w := match r.op with
    | .casp _ _ => r.off.toNat - r.off.toNat % 2
    | _ => r.off.toNat - r.off.toNat % n
  let a := ch * 2 ^ 25 + w
  if q.st != .live || !c.inQdr a then c
  else
    match q.port r.party.val r.guar r.busyA r.busyB with
    | none => c
    | some portB =>
      let count (c : Chip) (dir k : Nat) : Chip := c.blkCount (8 + ch) (b2n portB) dir (8 * k)
      let (c, find) := match r.op with
        | .write _ => (c, r.find)
        | _ => c.injectRead (qdrPage ch) r.find
      let r := { r with find := find }
      match r.op with
      | .read =>
        let (c, ok) := c.qdrCheckAll r a portB
        let c := count c 0 (n / 4)
        if ok then { c with reply := readN c.mem a n } else c
      | .write x =>
        let (c, poison) := c.injectWrite (qdrPage ch)
        let c := (count c 1 (n / 4)).memWrite 0 a (toWords n x.toNat)
        if poison then { c with ext := { c.ext with qpoison := setMarks c.ext.qpoison ((List.range (n / 4)).map (a / 4 + ·)) true } }
        else c
      | .casp cmp new =>
        let (c, ok) := c.qdrCheck ch a portB false r.find
        let c := count c 0 1
        if !ok then c
        else
          let old := readN c.mem a 2
          let c := { c with reply := old }
          if old = cmp.toNat then (count c 1 1).memWrite 0 a (toWords 2 new.toNat) else c

/-- QDR_WINDOW_START: at its start instant an entry of QDRWIN reserves its ports for its party (R33). -/
def Chip.qdrOpen (c : Chip) (ch i : Nat) : Chip :=
  match (c.livePlan.map (fun p => tget [] p.qwins ch)).bind (fun l => l[i]?) with
  | none => c
  | some w =>
    let c := c.reach (c.granuleAt w.start)
    let q := c.qd ch
    let x : Option QdrWin := some ⟨i, w.party⟩
    c.setQd ch { q with
      winA := if bitN w.ports 0 then x else q.winA
      winB := if bitN w.ports 1 then x else q.winB }

/-- QDR_WINDOW_END: at its end instant an entry releases the ports it reserves (R33). -/
def Chip.qdrClose (c : Chip) (ch i : Nat) : Chip :=
  let q := c.qd ch
  let held (w : Option QdrWin) : Bool := w.any (fun w => w.idx == i)
  if !held q.winA && !held q.winB then c
  else
    let c := match (c.livePlan.map (fun p => tget [] p.qwins ch)).bind (fun l => l[i]?) with
      | some w => c.reach (c.granuleAt (w.start + w.length))
      | none => c
    c.setQd ch { q with
      winA := if held q.winA then none else q.winA
      winB := if held q.winB then none else q.winB }

/-- Whether no window is open on a channel. -/
def Qdr.idle (q : Qdr) : Bool := q.winA.isNone && q.winB.isNone

/-- Milliseconds since a channel's last recalibration (QSTAT.CALAGE). -/
def Chip.calAge (c : Chip) (ch : Nat) : Nat := Nat.min 0xFF ((c.now - (c.qd ch).calAt) / 1000000)

/-- ns of 64 QCLK, in whole granules. -/
def recalTime : Nat := 60

/-- Whether no window of the live plan on a channel meets the 64 QCLK from now, in this stroke or the next (R325). -/
def Chip.qdrFree (c : Chip) (ch : Nat) : Bool :=
  match c.livePlan with
  | none => true
  | some p => (tget [] p.qwins ch).all (fun w =>
      [0, p.stroke * 1000].all (fun d =>
        decide (c.now + recalTime ≤ c.granuleAt w.start + d) || decide (c.granuleAt (w.start + w.length) + d ≤ c.now)))

/-- QDR_RECALIBRATION after 100 ms, in a stretch of 64 QCLK free of windows (R325). -/
def Chip.qdrRecal (c : Chip) (ch : Nat) : Chip :=
  let q := c.qd ch
  if q.idle && c.qdrFree ch && decide (100 ≤ c.calAge ch) then c.setQd ch { q with calAt := c.now } else c

/-- QDR_PATROL_SCRUB of the next quad in a port cycle no window needs (R328). -/
def Chip.qdrScrub (c : Chip) (ch : Nat) (find : EccFind) : Chip :=
  let q := c.qd ch
  match q.port 64 false false false with
  | none => c
  | some portB =>
    if q.st != .live || c.fld (qdrPage ch) 0x022 0 0 = 0 then c
    else
      let a := ch * 2 ^ 25 + q.patrol * 4
      let c := c.setQd ch { q with patrol := (q.patrol + 1) % (c.qdrWords ch / 4) }
      let (c, find) := c.injectRead (qdrPage ch) find
      (c.qdrCheck ch a portB true find).1

/-- QSTAT; of two open windows it names the party of the one on port A. (DESIGN CHOICE, log entry 91) -/
def Chip.qstat (c : Chip) (ch : Nat) : Nat :=
  let q := c.qd ch
  (match q.st with | .down => 0 | .training => 1 | .live => 2 | .failed => 3) + b2n (c.isLive && c.liveB) * 4
  + b2n (!q.idle) * 8 + b2n q.winA.isSome * 16 + b2n q.winB.isSome * 32
  + ((q.winA <|> q.winB).map (fun w => w.party % 64)).getD 0 * 64
  + c.calAge ch * 2 ^ 12

/-! ### LPDDR (R329 to R340) -/

/-- The page of a controller. -/
def lpdPage (k : Nat) : Nat := 0x0E8 + k

/-- A controller. -/
def Chip.lp (c : Chip) (k : Nat) : Lpd := tget {} c.ext.lpd k

/-- The chip with a controller replaced. -/
def Chip.setLp (c : Chip) (k : Nat) (l : Lpd) : Chip := { c with ext := { c.ext with lpd := tset {} c.ext.lpd k l } }

/-- The line number of an address (R330). -/
def lpdLine (a : Nat) : Nat := (a - lpdBase) / 32

/-- The device line number D of a data line (R330). -/
def deviceLine (ln : Nat) : Nat := ln / 7 * 8 + ln % 7

/-- The channel of a device line (R330). -/
def lpdChannel (d : Nat) : Nat := bits d 6 5

/-- Where a device line stands in the devices: channel, rank, bank, row, and column in units of 32 columns (R330). -/
structure DevAddr where
  chan : Nat
  rank : Nat
  bank : Nat
  row  : Nat
  col  : Nat
  deriving DecidableEq, Repr

/-- The exclusive-or of the bits of a device line that a mask selects. -/
def parityOf (d m : Nat) : Bool := (List.range 28).foldl (fun b i => b != (bitN d i && bitN m i)) false

/-- The bank of a device line, hashed by the masks of the controller (R331). -/
def Chip.lpdBank (c : Chip) (k d : Nat) : Nat :=
  (List.range 3).foldl (fun x i => x + b2n (parityOf d (c.fld (lpdPage k) (0x022 + 2 * i) 27 0)) * 2 ^ i) 0

/-- The place of a device line in a controller (R330). -/
def Chip.devAddr (c : Chip) (k d : Nat) : DevAddr :=
  let two := c.fld (lpdPage k) 0x020 1 1 == 1
  { chan := lpdChannel d, rank := if two then bits d 10 10 else 0, bank := c.lpdBank k d
    row := if two then d / 2 ^ 11 else d / 2 ^ 10, col := d % 32 }

/-- The key of a bank in the tables of a controller. -/
def devBank (chan rank bank : Nat) : Nat := (chan * 2 + rank) * 8 + bank

/-- The bank of a device line, by its key. -/
def DevAddr.key (x : DevAddr) : Nat := devBank x.chan x.rank x.bank

/-- The quads of a line with a mark in a controller's tables. -/
def markedQuads (t : Tbl Bool) (a : Nat) : List Nat :=
  ((List.range 8).map (fun i => a / 32 * 8 + i)).filter (fun q => tget false t q)


/-- Count corrected quads; source +1 when the count reaches its largest value. -/
def Chip.lpdCorrected (c : Chip) (k : Nat) : Chip :=
  let c' := c.bumpFld (lpdPage k) 0x102 15 0
  if c'.fld (lpdPage k) 0x102 15 0 = 0xFFFF ∧ c.fld (lpdPage k) 0x102 15 0 ≠ 0xFFFF then c'.raise (0x315 + 4 * k) else c'

/-- Where an error arose, for LDFRZB. -/
structure LpdAt where
  stop  : Nat
  party : Nat
  rq    : Nat
  wq    : Nat
  scrub : Bool
  deriving DecidableEq, Repr

/-- An uncorrectable error: counted, captured while LDFRZA is free, and the controller freezes when its partner is LIVE and the
error is one of data or command (R338). -/
def Chip.lpdError (c : Chip) (k d kind : Nat) (e : LpdAt) : Chip :=
  let pg := lpdPage k
  let freeze := (c.lp (1 - k)).st == .live && (c.lp k).st == .live && kind != 2
  let c := c.bumpFld pg 0x102 23 16
  let c := if c.fld pg 0x104 30 30 = 1 then c
    else (c.setLive pg 0x104 (d % 2 ^ 28 + kind * 2 ^ 28 + 2 ^ 30 + b2n freeze * 2 ^ 31)).setLive pg 0x106
      (e.rq + e.wq * 2 ^ 6 + e.stop * 2 ^ 12 + e.party * 2 ^ 17 + b2n e.scrub * 2 ^ 23)
  if freeze then ((c.setLp k { c.lp k with st := .frozen, frozeAt := c.now }).raise (0x314 + 4 * k)).deviceRecord .freeze else c

/-- The quads of a line that a read finds uncorrectable are so from then on. -/
def Chip.lpdFind (c : Chip) (k a : Nat) (find : LpdFind) : Chip :=
  match find with
  | .bad m =>
    let l := c.lp k
    c.setLp k { l with
      bad := setMarks l.bad (((List.range 8).filter (fun i => m.getLsbD i)).map (fun i => a / 32 * 8 + i)) true }
  | _ => c

/-- A read of a line by a controller (R332): a set poison bit comes before an uncorrectable code. The flag says whether it can
return the line. -/
def Chip.lpdCheck (c : Chip) (k a : Nat) (find : LpdFind) (e : LpdAt) : Chip × Bool :=
  let c := c.lpdFind k a find
  let l := c.lp k
  let n := ((markedQuads l.bad a).filter (fun q => !l.isPoison q)).length
  if n ≠ 0 then (c.lpdError k (deviceLine (lpdLine a)) (if n = 8 then 1 else 0) e, false)
  else if (List.range 8).any (fun i => l.isPoison (a / 32 * 8 + i)) then (c.bumpFld (lpdPage k) 0x102 31 24, false)
  else if find == .corrected then (c.lpdCorrected k, true)
  else (c, true)

/-- Whether the ring interfaces still take a controller for LIVE: the launch controller tells them of a freeze within 1 µs
(R338). (DEDUCED, log entry 92) -/
def Chip.seenLive (c : Chip) (k : Nat) : Bool :=
  let l := c.lp k
  l.st == .live || (l.st == .frozen && decide (c.now < l.frozeAt + 1000))

/-- The controller the next read of an agent goes to (R337). -/
def Chip.lpdPick (c : Chip) (agent : Nat) : Option Nat :=
  let l0 := c.seenLive 0
  let l1 := c.seenLive 1
  if l0 && l1 then some (tget 0 c.ext.turn agent) else if l0 then some 0 else if l1 then some 1 else none

/-- A comparator disagreement puts a controller in fallback mode (R335). -/
def Chip.lpdDiffer (c : Chip) (k : Nat) : Chip :=
  ((c.setLp k { c.lp k with fallback := true }).setFld (lpdPage k) 0x100 4 4 1).raise (0x317 + 4 * k)

/-- What an armed injection makes of a controller's next array read: of a line, its first quad (R360). -/
def Chip.injectLine (c : Chip) (k : Nat) (find : LpdFind) : Chip × LpdFind :=
  match c.armed (lpdPage k) with
  | some 0 => (c.injected (lpdPage k), if find == .ok then .corrected else find)
  | some 1 => (c.injected (lpdPage k), .bad (match find with | .bad m => m ||| 1 | _ => 1))
  | _ => (c, find)

/-! ### Queues of a channel (R334) -/

/-- The channel of an address. -/
def addrChan (a : Nat) : Nat := lpdChannel (deviceLine (lpdLine a))

/-- The reads that wait in a channel. -/
def Lpd.readsOf (l : Lpd) (chan : Nat) : List QRead := l.reads.filter (fun q => addrChan q.rd.addr.toNat == chan)

/-- The writes that wait in a channel. -/
def Lpd.writesOf (l : Lpd) (chan : Nat) : List QWrite := l.writes.filter (fun q => lpdChannel (deviceLine q.ln) == chan)

/-- Entries of a read queue, and of a write queue. -/
def queueLen : Nat := 32

/-- Whether a channel takes a read of a stop: of its 32 entries one is kept free for each stop, so a stop's second read and
those after it share what is left (R334). -/
def Lpd.takesRead (l : Lpd) (chan stop : Nat) : Bool :=
  let qs := l.readsOf chan
  let shared := (List.range stops).foldl (fun n s => n + ((qs.filter (fun q => q.rd.agent.stop == s)).length - 1)) 0
  !qs.any (fun q => q.rd.agent.stop == stop) || decide (shared < queueLen - stops)

/-- Whether a channel takes a write. -/
def Lpd.takesWrite (l : Lpd) (chan : Nat) : Bool := decide ((l.writesOf chan).length < queueLen)

/-- Whether a line lies in the open row of its bank. -/
def Chip.rowHit (c : Chip) (k ln : Nat) : Bool :=
  let x := c.devAddr k (deviceLine ln)
  tget 0 (c.lp k).rows x.key == x.row + 1

/-- A line's row is open in its bank. -/
def Chip.openRow (c : Chip) (k ln : Nat) : Chip :=
  let x := c.devAddr k (deviceLine ln)
  let l := c.lp k
  c.setLp k { l with rows := tset 0 l.rows x.key (x.row + 1) }

/-- ns of 256 DCLK, after which a request outranks row hits. -/
def oldWait : Nat := 480

/-- Of entries in the order accepted, those that no earlier entry of their agent stands before. -/
def firstOfAgent {α : Type} [BEq α] (src : α → Agent) (qs : List α) : List α :=
  qs.filter (fun x => (qs.find? (fun y => src y == src x)) == some x)

/-- The request a channel serves next, of entries in the order accepted: a row hit, unless the oldest has waited 256 DCLK
(R334). (DEDUCED, log entry 92) -/
def Chip.nextOf {α : Type} (c : Chip) (k : Nat) (at_ ln : α → Nat) (qs : List α) : Option α :=
  match qs with
  | [] => none
  | q :: _ => if at_ q + oldWait ≤ c.now then some q else (qs.find? (fun x => c.rowHit k (ln x))) <|> some q

/-- Write the writes of a channel to the devices until `keep` are left. -/
def Chip.drainWrites (c : Chip) (k chan keep : Nat) : Nat → Chip
  | 0 => c
  | n + 1 =>
    let qs := (c.lp k).writesOf chan
    if qs.length ≤ keep then c
    else match c.nextOf k QWrite.at_ QWrite.ln qs with
      | none => c
      | some q =>
        let c := c.openRow k q.ln
        (c.setLp k { c.lp k with writes := dropFirst (fun x => decide (x = q)) (c.lp k).writes }).drainWrites k chan keep n

/-- A pending write that a read hits is promoted: it reaches the devices before the read (R335). -/
def Chip.promote (c : Chip) (k ln : Nat) : Chip :=
  if (c.lp k).writes.any (fun q => q.ln == ln) then
    let c := c.openRow k ln
    c.setLp k { c.lp k with writes := (c.lp k).writes.filter (fun q => q.ln != ln) }
  else c

/-- What LDFRZB captures of a read. -/
def Chip.readAt (c : Chip) (k : Nat) (r : LpdRead) : LpdAt :=
  let ch := addrChan r.addr.toNat
  ⟨r.agent.stop, (r.party.map Fin.val).getD 0, ((c.lp k).readsOf ch).length, ((c.lp k).writesOf ch).length, false⟩

/-- A controller answers a read: the line as the party's key pair reads it. -/
def Chip.lpdReply (c : Chip) (k : Nat) (r : LpdRead) (ok : Bool) : Chip :=
  let a := r.addr.toNat
  let c := c.blkCount (12 + k) (addrChan a) 0 64
  if ok then { c with reply := c.rdN (c.partyKey (r.party.map Fin.val)) (a / 32 * 32) 32 } else c

/-- A read that a frozen controller forwards: its partner answers it (R338). -/
def Chip.lpdForward (c : Chip) (k : Nat) (r : LpdRead) : Chip :=
  let (c, ok) := c.lpdCheck (1 - k) r.addr.toNat r.mirror (c.readAt (1 - k) r)
  c.lpdReply (1 - k) r ok

/-- A controller that has frozen forwards every read in its queues, which it keeps for diagnosis (R338). -/
def Chip.forwardAll (c : Chip) (k : Nat) : Chip := (c.lp k).reads.foldl (fun c q => c.lpdForward k q.rd) c

/-- A controller serves a read of its queues, checking ECC (R332, R335, R338). -/
def Chip.lpdServe (c : Chip) (k : Nat) (q : QRead) : Chip :=
  let a := q.rd.addr.toNat
  let c := (c.promote k (lpdLine a)).openRow k (lpdLine a)
  let (c, find) := c.injectLine k q.rd.find
  let (c, ok) := c.lpdCheck k a find (c.readAt k q.rd)
  if (c.lp k).st == .frozen then c.forwardAll k
  else (c.setLp k { c.lp k with reads := dropFirst (fun x => decide (x = q)) (c.lp k).reads }).lpdReply k q.rd ok

/-- The reads of a channel that may be served: in fallback mode only those before which no read of their agent waits at the
controller (R294, R335). -/
def Chip.mayServe (c : Chip) (k chan : Nat) : List QRead :=
  let l := c.lp k
  if l.fallback then (firstOfAgent (fun q => q.rd.agent) l.reads).filter (fun q => addrChan q.rd.addr.toNat == chan)
  else l.readsOf chan

/-- The reads of an agent that wait at a controller are served, but one (R335). -/
def Chip.serveAgent (c : Chip) (k : Nat) (a : Agent) (but : Option QRead) : Chip :=
  ((c.lp k).reads.filter (fun q => q.rd.agent == a && some q != but)).foldl (fun c q =>
    if (c.lp k).st == .frozen then c else c.lpdServe k q) c

/-- A channel serves its reads in the order of R334, up to one of them. -/
def Chip.serveUpTo (c : Chip) (k chan : Nat) (q : QRead) : Nat → Chip
  | 0 => c
  | n + 1 =>
    match c.nextOf k QRead.at_ (fun x => lpdLine x.rd.addr.toNat) (c.mayServe k chan) with
    | none => c
    | some x =>
      let c := c.lpdServe k x
      if x = q ∨ (c.lp k).st = .frozen then c else c.serveUpTo k chan q n

/-- Writes drain while no read waits in a channel (R334). -/
def Chip.drainIdle (c : Chip) (k chan : Nat) : Chip :=
  if ((c.lp k).readsOf chan).isEmpty then c.drainWrites k chan 0 queueLen else c

/-- LPDDR_READ of a line (R332 to R338): a controller accepts the read, and serves its queue up to it unless it still waits. -/
def Chip.lpdRead (c : Chip) (r : LpdRead) : Chip :=
  let a := r.addr.toNat
  let chan := addrChan a
  let agent := r.agent.code
  if !c.inLpd a then c
  else match c.lpdPick agent with
    | none => c
    | some k =>
      if !(c.lp k).takesRead chan r.agent.stop then c
      else
        let c := { c with ext := { c.ext with turn := tset 0 c.ext.turn agent (1 - k) } }
        if (c.lp k).st == .frozen then c.lpdForward k r
        else
          let c := if r.differ then c.lpdDiffer k else c
          let q : QRead := ⟨c.now, r⟩
          let c := c.setLp k { c.lp k with reads := (c.lp k).reads ++ [q] }
          if r.waits then c
          else
            let c := if (c.lp k).fallback then c.serveAgent k r.agent (some q) else c
            (c.serveUpTo k chan q queueLen).drainIdle k chan

/-- A write enters the queue of its channel, which drains at 24 entries down to 8, while no read waits, and at once in fallback
mode, there after the reads of its agent (R294, R334, R335). -/
def Chip.queueWrite (c : Chip) (k a : Nat) (src : Agent) : Chip :=
  let chan := addrChan a
  let c := if (c.lp k).fallback then c.serveAgent k src none else c
  let c := c.setLp k { c.lp k with writes := (c.lp k).writes ++ [⟨c.now, lpdLine a, src⟩] }
  if (c.lp k).fallback then c.drainWrites k chan 0 queueLen
  else
    let c := if 24 ≤ ((c.lp k).writesOf chan).length then c.drainWrites k chan 8 queueLen else c
    c.drainIdle k chan

/-- The read of the line that a write of part of a quad is merged with: a single-bit error is corrected, the merged quad stays
poisoned where it was poisoned or uncorrectable, and other quads that are uncorrectable are an error of data (R332). (DESIGN
CHOICE, log entry 97) -/
def Chip.lpdMerge (c : Chip) (k a : Nat) (find : LpdFind) (e : LpdAt) : Chip :=
  let (c, find) := c.injectLine k find
  let c := c.lpdFind k a find
  let l := c.lp k
  let d := deviceLine (lpdLine a)
  let new := (markedQuads l.bad a).filter (fun q => !l.isPoison q)
  if new.contains (a / 4) then
    let c := c.setLp k ({ l with bad := tset false l.bad (a / 4) false }.putPoison (a / 4) true)
    c.lpdError k d (if new.length = 8 then 1 else 2) e
  else if !new.isEmpty then c.lpdError k d 0 e
  else if find == .corrected then c.lpdCorrected k
  else c

/-- One controller takes a write: a write of part of a quad is merged (R332); a frozen one counts what it discards while the
ring interfaces still send to it (R337). -/
def Chip.lpdTake (c : Chip) (k a n : Nat) (src : Agent) (find : LpdFind) (e : LpdAt) : Chip :=
  match (c.lp k).st with
  | .frozen => if c.seenLive k then c.bumpFld (lpdPage k) 0x10C 31 0 else c
  | .live | .sync =>
    let c := (c.blkCount (12 + k) (addrChan a) 1 64).queueWrite k a src
    let c := if n < 4 then c.lpdMerge k a find e else c
    let (c, poison) := c.injectWrite (lpdPage k)
    let c := if poison then c.setLp k ((c.lp k).putPoison (a / 4) true) else c
    if (c.lp k).st == .frozen then c.forwardAll k else c
  | _ => c

/-- What LDFRZB captures of a write. -/
def Chip.writeAt (c : Chip) (k : Nat) (r : LpdWrite) : LpdAt :=
  let ch := addrChan r.addr.toNat
  ⟨r.agent.stop, (r.party.map Fin.val).getD 0, ((c.lp k).readsOf ch).length, ((c.lp k).writesOf ch).length, false⟩

/-- LPDDR_WRITE: accepted when every mirror that takes writes has room for it in its queue (R332, R334, R337). -/
def Chip.lpdWrite (c : Chip) (r : LpdWrite) : Chip :=
  let n := r.size.words
  let a := r.addr.toNat - r.addr.toNat % n
  let takes (k : Nat) : Bool := (c.lp k).st == .live || (c.lp k).st == .sync
  if !c.inLpd a || [0, 1].any (fun k => takes k && !(c.lp k).takesWrite (addrChan a)) then c
  else
    let d := if takes 0 || takes 1 then c.memWrite (c.partyKey (r.party.map Fin.val)) a (toWords n r.data.toNat) else c
    (d.lpdTake 0 a n r.agent r.find0 (c.writeAt 0 r)).lpdTake 1 a n r.agent r.find1 (c.writeAt 1 r)

/-- MR4_READING: the worst MR4 code of a controller sets its refresh divisor (R336). -/
def Chip.mr4 (c : Chip) (k code : Nat) : Chip :=
  let pg := lpdPage k
  let m := if code ≤ 3 then 0 else if code = 4 then 1 else 2
  let ch := c.fld pg 0x100 6 5 ≠ m
  let c := (c.setFld pg 0x100 9 7 code).setFld pg 0x100 6 5 m
  if ch ∨ code = 7 then c.raise (0x316 + 4 * k) else c

/-- LPDDR_REFRESH of a bank of a controller that refreshes its devices (R336 to R338). -/
def Chip.lpdRefresh (c : Chip) (k chan rank bank : Nat) : Chip :=
  let l := c.lp k
  if l.st == .live || l.st == .frozen || l.st == .sync then
    c.setLp k { l with refAt := tset 0 l.refAt (devBank chan rank bank) c.now }
  else c

/-- Device lines of a controller that hold data. -/
def Chip.lpdLines (c : Chip) : Nat := c.lpdWords / 32

/-- LPDDR_PATROL_SCRUB of the next line (R328, R332, R338). -/
def Chip.lpdScrub (c : Chip) (k : Nat) (find : LpdFind) : Chip :=
  let l := c.lp k
  if l.st != .live || c.fld (lpdPage k) 0x028 3 3 = 0 then c
  else
    let a := lpdBase + l.patrol * 32
    let c := c.setLp k { l with patrol := (l.patrol + 1) % c.lpdLines }
    let (c, find) := c.injectLine k find
    let ch := addrChan a
    let c := (c.lpdCheck k a find ⟨0, 0, ((c.lp k).readsOf ch).length, ((c.lp k).writesOf ch).length, true⟩).1
    if (c.lp k).st == .frozen then c.forwardAll k else c

/-- LDSTAT. -/
def Chip.ldstat (c : Chip) (k : Nat) : Nat :=
  let l := c.lp k
  setBits (setBits (c.live (lpdPage k) 0x100) 2 0
    (match l.st with | .down => 0 | .training => 1 | .live => 2 | .frozen => 3 | .sync => 4 | .hold => 5)) 3 3 (b2n l.fallback)

/-- A training loads the registers whose safe point it is and ends fallback mode, unless ORDCMP is clear (R335, R452). -/
def Chip.lpdTrain (c : Chip) (k : Nat) : Chip :=
  let c := c.loadTraining (lpdPage k)
  c.setLp k { c.lp k with fallback := c.fld (lpdPage k) 0x028 0 0 = 0, reads := [], writes := [], rows := [] }

/-- Whether the masks of LPD1 as its training would load them differ from those of LPD0: the launch controller refuses that
training (R331). -/
def Chip.masksDiffer (c : Chip) (k : Nat) : Bool :=
  k == 1 && [0x022, 0x024, 0x026].any (fun off =>
    (c.loadTraining (lpdPage 1)).live (lpdPage 1) off != c.live (lpdPage 0) off)

/-- MEM_DIAG (R341). -/
def Chip.memDiag (c : Chip) (q : Req) (k result count : Nat) : Chip :=
  c.roleCmd q 0x0030 [BitVec.ofNat 16 k] installer (fun c =>
    if (c.opOf 0x0031 k).isSome then (c, .now stBusy [])
    else if (c.lp k).st != .frozen || c.masksDiffer k then (c, .now stMemState [])
    else (c.lpdTrain k, .now stDone [BitVec.ofNat 16 result, BitVec.ofNat 16 count, BitVec.ofNat 16 (count / 2 ^ 16)]))

/-- Start a remirror: the controller trains, and then copies from its partner (R339). -/
def Chip.remirror (c : Chip) (k : Nat) : Chip :=
  let c := c.lpdTrain k
  (c.setLp k { c.lp k with st := .training }).deviceRecord .remirror

/-- MEM_REMIRROR (R339, R341). -/
def Chip.memRemirror (c : Chip) (q : Req) (k : Nat) : Chip :=
  c.roleCmd q 0x0031 [BitVec.ofNat 16 k] installer (fun c =>
    let st := (c.lp k).st
    if (c.opOf 0x0031 k).isSome then (c, .now stBusy [])
    else if !(st == .frozen || st == .down) || (c.lp (1 - k)).st != .live || (c.lp (1 - k)).fallback || c.masksDiffer k then
      (c, .now stMemState [])
    else (c.remirror k, .later k))

/-- The device line a quad belongs to. -/
def quadLine (q : Nat) : Nat := deviceLine ((q - lpdBase / 4) / 8)

/-- Device lines of a controller, data and check lines alike (R330). -/
def Chip.deviceLines (c : Chip) : Nat := (c.lpdLines + 6) / 7 * 8

/-- Copy the device lines from `lo` up to `hi` of a partner: poison bits go with them, and a line uncorrectable there gets
every poison bit of its quads set (R339). -/
def Lpd.copyFrom (l m : Lpd) (lo hi : Nat) : Lpd :=
  let mine (q : Nat) : Bool := decide (lo ≤ quadLine q) && decide (quadLine q < hi)
  let poison := (m.poison.filter (fun e => mine e.1)).foldl (fun t e => tset false t e.1 e.2)
    (l.poison.filter (fun e => !mine e.1))
  let l := { l with poison := poison, bad := l.bad.filter (fun e => !mine e.1), copied := hi }
  ((m.bad.filter (fun e => mine e.1)).flatMap (fun e => (List.range 8).map (fun i => e.1 / 8 * 8 + i))).foldl
    (fun l q => l.putPoison q true) l

/-- The copy's read of a data line of the partner finds quads uncorrectable (R332, R339); the partner cannot freeze. -/
def Chip.copyFinds (c : Chip) (k lo hi d : Nat) (quads : BitVec 8) : Chip :=
  if lo ≤ d ∧ d < hi ∧ d % 8 ≠ 7 then
    let a := lpdBase + 32 * (d / 8 * 7 + d % 8)
    let ch := lpdChannel d
    (c.lpdCheck k a (.bad quads) ⟨0, 0, ((c.lp k).readsOf ch).length, ((c.lp k).writesOf ch).length, false⟩).1
  else c

/-- REMIRROR_COMPLETE: the training of a remirror ends, with SYNC or DOWN; the copy, in ascending device lines, has come to
`lines` of them, and once none is left the controller is LIVE (R337, R339). (DESIGN CHOICE, log entry 93) -/
def Chip.remirrorDone (c : Chip) (k : Nat) (trained : Bool) (lines : Nat) (found : List (BitVec 28 × BitVec 8)) : Chip :=
  let l := c.lp k
  let m := c.lp (1 - k)
  match l.st with
  | .training =>
    if trained then c.setLp k { l with st := .sync, lost := m.lost, segQ := m.segQ, poison := [], bad := [], copied := 0 }
    else
      let (c, v) := c.draw
      (c.setLp k { l with st := .down }).finishAll 0x0031 k (v % 2 ^ 16) []
  | .sync =>
    let hi := Nat.max l.copied (Nat.min lines c.deviceLines)
    let c := found.foldl (fun c q => c.copyFinds (1 - k) l.copied hi q.1.toNat q.2) c
    let l := l.copyFrom (c.lp (1 - k)) l.copied hi
    if hi < c.deviceLines then c.setLp k l
    else (c.setLp k { l with st := .live, copied := 0 }).finishAll 0x0031 k stDone []
  | _ => c

/-! ### The scrub of the on-chip arrays (R247, R249) -/

/-- Log an uncorrectable error of an array set: 0 tight memory, 1 L1D, 2 L1I, 3 tags (R247, R251). -/
def Chip.setError (c : Chip) (set_ array addr : Nat) : Chip :=
  let pg := 0x020 + set_
  let c := if c.fld pg 0x306 7 7 = 1 then c
    else ((((c.setLive pg 0x304 (addr % 2 ^ 32)).setFld pg 0x306 3 0 (addr / 2 ^ 32)).setFld pg 0x306 6 4 array).setFld
      pg 0x306 7 7 1)
  (c.bumpFld pg 0x306 15 8).raise (eightSrc (set_ / 9) 2)

/-- The quads of an oct of a line. -/
def octQuads (oct : Nat) : BitVec 8 := BitVec.ofNat 8 (3 * 4 ^ oct)

/-- A line with an uncorrectable error that the scrub finds in an oct: dropped when it is clean, else the error stays in that
oct (R249). -/
def scrubLine (l : Line) (oct : Nat) : Line :=
  if l.dirty then { l with bad := if l.bad &&& octQuads oct = 0 then l.bad ||| (octQuads oct &&& 0x55) else l.bad } else {}

/-- The same for the tag and state of a line. -/
def scrubTag (l : Line) : Line := if l.dirty then { l with tagBad := true } else {}

/-- The scrub reads an oct of a line of an L1, or its tag. -/
def Chip.scrubL1 (c : Chip) (s : Nat) (i : Bool) (way set_ : Nat) (oct : Option Nat) (find : EccFind) : Chip :=
  let a := c.arr s
  let k := if i then a.l1i else a.l1d
  let l := k.slot way set_
  let array := if oct.isNone then 3 else if i then 2 else 1
  let held := match oct with
    | some o => l.bad &&& octQuads o != 0
    | none => l.tagBad
  if find == .corrected then c.bumpFld (0x020 + s) 0x302 (8 * array + 7) (8 * array)
  else if l.valid && (held || find == .bad) then
    let k := k.setSlot way set_ (match oct with
      | some o => scrubLine l o
      | none => scrubTag l)
    (c.setArr s (if i then { a with l1i := k } else { a with l1d := k })).setError s array (l.line * 32 + oct.getD 0 * 8)
  else c

/-- The scrub reads an oct of a line of an L2, or its tag. -/
def Chip.scrubL2 (c : Chip) (e way set_ : Nat) (oct : Option Nat) (find : EccFind) : Chip :=
  let x := c.eight e
  let l := x.l2.slot way set_
  let held := match oct with
    | some o => l.bad &&& octQuads o != 0
    | none => l.tagBad
  if find == .corrected then c.bumpFld (0x010 + e) 0x300 15 0
  else if l.valid && (held || find == .bad) then
    let l' := match oct with
      | some o => scrubLine l o
      | none => scrubTag l
    (c.setEight e { x with l2 := x.l2.setSlot way set_ l' }).l2Error e way (l.line * 32 + oct.getD 0 * 8) l.dirty
  else c

/-- The CORE page of the pipeline an array set is connected to. -/
def Chip.setPage (c : Chip) (s : Nat) : Nat :=
  match (List.range 64).find? (fun a => c.arrOf a == s) with
  | some a => 0x020 + (c.pipeOf a).getD s
  | none => 0x020 + s

/-- The page whose ERRINJ covers an array. -/
def Chip.scrubPage (c : Chip) (at_ : ScrubAt) : Nat :=
  match at_ with
  | .tight s _ | .l1d s _ _ _ | .l1i s _ _ _ | .tags s _ _ _ => c.setPage s.val
  | .l2 e _ _ _ | .l2tags e _ _ => 0x010 + e.val

/-- ARRAY_SCRUB: one oct of an array in an idle cycle (R249). -/
def Chip.arrayScrub (c : Chip) (at_ : ScrubAt) (find : EccFind) : Chip :=
  let (c, find) := c.injectRead (c.scrubPage at_) find
  match at_ with
  | .tight s off =>
    let a := tightBase + s.val * 0x1_0000 + off.toNat
    if find == .corrected then c.bumpFld (0x020 + s.val) 0x302 7 0
    else if find == .bad || tget false c.tmBad a then
      ({ c with tmBad := tset false c.tmBad a true }).setError s.val 0 off.toNat
    else c
  | .l1d s w l o => c.scrubL1 s.val false w.val l.val (some o.val) find
  | .l1i s w l o => c.scrubL1 s.val true w.val l.val (some o.val) find
  | .tags s i w l => c.scrubL1 s.val i w.val l.val none find
  | .l2 e w l o => c.scrubL2 e.val w.val l.val (some o.val) find
  | .l2tags e w l => c.scrubL2 e.val w.val l.val none find

end Sys2Proof.Machine
end

