-- ==== Sys2Proof/Machine/RegSpace.lean ====
section
/-! DEFINITION. Reads and writes of register space (R4 to R6, R105, R447 to R456, R475 and the register tables of each
chapter). -/

namespace Sys2Proof.Machine

/-! ### Status views of the core complex (R251 to R260) -/

/-- The index within its eight of the lowest pipeline in a state, or 0xF. -/
def Eight.lowest (x : Eight) (s : PipeSt) : Nat := ((List.range 9).find? (fun i => tget .service x.pst i == s)).getD 0xF

/-- ESTAT. -/
def Chip.estat (c : Chip) (e : Nat) : Nat :=
  let x := c.eight e
  let quar := (List.range 8).foldl (fun v k =>
    match x.map.getD k none with
    | some i => if x.stuck.contains (8 * e + k) then v + 2 ^ i else v
    | none => v) 0
  let test := (List.range 9).foldl (fun v i => if tget .service x.pst i == .test then v + 2 ^ i else v) 0
  (match x.pwr with | .gated => 0 | .up => 1 | .on => 2 | .down => 3) + b2n (c.inSwing e) * 4
  + b2n (c.inSwing e && e % 2 == 1) * 8 + quar * 2 ^ 4 + x.lowest .spare * 2 ^ 13 + test * 2 ^ 17
  + (if x.move.isSome then 0xF else x.spareArr.getD 0xF) * 2 ^ 26

/-- MAP of an eight: 0xF for a core with no pipeline (R259). -/
def Eight.mapReg (x : Eight) : Nat := (List.range 8).foldl (fun v k => v + ((x.map.getD k none).getD 0xF) * 2 ^ (4 * k)) 0

/-- AMAP of an eight. -/
def Eight.amapReg (x : Eight) : Nat := (List.range 8).foldl (fun v k => v + x.amap.getD k 0 * 2 ^ (4 * k)) 0

/-- The array set a pipeline is connected to (R250, R251): its architectural core's; a pipeline with no core keeps the
connection as built while its own array set is the eight's spare one, as the reset value of CSTAT.ARRAY has it. (DEDUCED, log
entry 24) -/
def Chip.pipeArr (c : Chip) (pi : Nat) : Option Nat :=
  match c.coreOf pi with
  | some a => some (c.arrOf a)
  | none => if (c.eight (pi / 9)).spareArr = some (pi % 9) then some pi else none

/-- Whether a pipeline is in the entry band of its window (R252). -/
def Chip.inEntry (c : Chip) (p : Pipe) : Bool :=
  match p.ctx with
  | some x => decide (c.now < c.granuleAt x.codeAt)
  | none => false

/-- CSTAT of a pipeline (R252): one that has abandoned its context issues no more but stays in RUN to the closing instant
(R192), and a pipeline whose window has stopped is in GUARD until its exit work ends. (DEDUCED, log entry 24) (DESIGN CHOICE,
log entry 28) -/
def Chip.cstat (c : Chip) (pi : Nat) : Nat :=
  let x := c.eight (pi / 9)
  let st := tget .service x.pst (pi % 9)
  let core := c.coreOf pi
  let s :=
    if st == .spare then 5 else if st == .test then 6 else if st == .retired then 7
    else match (c.pipe pi).run with
      | .run | .ended | .abandoned => if (c.pipe pi).closing then 3 else if c.inEntry (c.pipe pi) then 1 else 2
      | .halted => 4
      | .feathered | .faulted _ _ | .mismatched => if c.now < (c.pipe pi).guardTill then 3 else 0
  s + (if s ≤ 4 then core.getD 0 else 0) * 2 ^ 3
  + (match c.pipeArr pi with | some i => i % 9 | none => 0xF) * 2 ^ 9 + c.fld (0x020 + pi) 0x100 14 13 * 2 ^ 13

/-- The page a cache register of a CORE page is held under: that of the array set connected to the pipeline (R251). (DEDUCED,
log entry 20) -/
def Chip.arrayPage (c : Chip) (pi : Nat) : Option Nat := (c.pipeArr pi).map (fun i => 0x020 + i)

/-- How many lines of a cache are locked. -/
def Cache.locked (k : Cache) : Nat := (k.lines.filter (fun e => e.2.lock)).length

/-- DLOCKED and ILOCKED of LKSTAT (R235). (DEDUCED, log entry 20) -/
def Chip.lockCounts (c : Chip) (i : Nat) : Nat := (c.arr i).l1d.locked * 2 ^ 4 + (c.arr i).l1i.locked * 2 ^ 14

/-! ### Status views of the launch controller and the system pages -/

/-- The code of a bank's state. -/
def BankSt.code : BankSt → Nat
  | .empty => 0 | .loading => 1 | .admitted => 2 | .armed => 3 | .live => 4

/-- PLANSTAT. -/
def Chip.planstat (c : Chip) : Nat :=
  b2n (c.isLive && c.liveB) + c.bankA.st.code * 2 + c.bankB.st.code * 2 ^ 4 + b2n c.committed * 2 ^ 7
  + c.fld 0x005 0x100 15 8 * 2 ^ 8

/-- The registers of the LCH page that mirror the plan state. -/
def Chip.lchView (c : Chip) (off : Nat) : Nat :=
  match off with
  | 0x100 => c.planstat
  | 0x102 => (c.livePlan.map Plan.planId).getD 0
  | 0x104 => if c.altBank.st == .empty then 0 else (c.altBank.plan.map Plan.planId).getD 0
  | 0x106 => (c.armedAt.getD 0) % 2 ^ 32
  | 0x108 => (c.armedAt.getD 0) / 2 ^ 32 % 2 ^ 32
  | 0x10A => c.stroke % 2 ^ 32
  | 0x10C => c.stroke / 2 ^ 32 % 2 ^ 32
  | _ => c.live 0x005 off

/-- Pair `k` of a digest as WM and JHEAD registers show it. -/
def digestPair (d k : Nat) : Nat := ofWords (((digestWords d).drop (2 * k)).take 2)

/-- The registers of the WLD page. -/
def Chip.wldView (c : Chip) (r : Requester) (off : Nat) : Nat :=
  if off = 0x100 then c.wstat
  else if 0x120 ≤ off ∧ off < 0x138 then digestPair c.power.wmLaunch ((off - 0x120) / 2)
  else if 0x140 ≤ off ∧ off < 0x158 then digestPair c.web.wm ((off - 0x140) / 2)
  else if 0x160 ≤ off ∧ off < 0x178 then digestPair c.deckle.wm ((off - 0x160) / 2)
  else if 0x1A0 ≤ off ∧ off < 0x1C0 then c.partst r ((off - 0x1A0) / 2)
  else c.live 0x006 off

/-- The registers of the ROLE page. -/
def Chip.roleView (c : Chip) (off : Nat) : Nat :=
  if off = 0x100 then c.credstat
  else if off = 0x108 then (if c.roles.loaded then Nat.min 0xFFFF c.roles.alarms.length else 0)
  else if off = 0x180 then c.anchorReg
  else if 0x184 ≤ off ∧ off < 0x19C then digestPair c.journalHead ((off - 0x184) / 2)
  else c.live 0x007 off

/-- PWRSTAT. -/
def Chip.pwrstat (c : Chip) : Nat :=
  let p := c.power
  (match p.st with | .off => 0 | .rom => 1 | .startup => 2 | .run => 3 | .holdover => 4 | .safe => 5)
  + b2n p.pfail * 8 + b2n p.pgCore * 16 + b2n p.pgSer * 32 + b2n p.pgIo * 64 + c.fld 0x002 0x100 31 16 * 2 ^ 16

/-- The registers of the hub's party window (R283). -/
def Chip.hubView (c : Chip) (r : Requester) (off : Nat) : Nat :=
  let s := c.hub.slice r.unit
  if off = 0x104 then s.tctl
  else if off = 0x106 then c.tstat r.unit
  else if off = 0x108 then s.modctl
  else if off = 0x10A then s.wmask
  else if off = 0x110 then s.cfgsel
  else if off = 0x112 then c.cfgrd r
  else if off = 0x114 then c.hub.pst r.unit
  else if 0x140 ≤ off ∧ off < 0x240 then c.groupRead r false ((off - 0x140) / 0x40) ((off - 0x140) % 0x40 / 2)
  else 0

/-- STATUS of a page: READY once its domain has left reset and is clocked; HOVER of a CORE page is that of its eight (R343,
R449). -/
def Chip.statusReg (c : Chip) (page : Nat) : Nat :=
  let clocked := !c.gated.any (fun g => g.1 == page && !g.2) && c.pageUp page
  let step := if page ≤ 0x007 then 0 else 4
  let block := if 0x020 ≤ page ∧ page < 0x068 then 0x010 + (page - 0x020) / 9 else page
  b2n (clocked && c.power.ended.contains step) + b2n (c.hand.any (·.covers 0 block)) * 2
  + b2n (c.gated.any (fun g => g.1 == page && !g.2)) * 4

/-- OWNER of a page. -/
def Chip.ownerReg (c : Chip) (page : Nat) : Nat :=
  (match c.pageOwner page with
   | some q => q + b2n (c.worldOf q) * 2 ^ 6
   | none => 2 ^ 7) + c.fld page 0x006 8 8 * 2 ^ 8

/-- CAPS of a page. -/
def capsReg (page : Nat) : Nat := b2n (!(stagedOffs page).isEmpty) + b2n (errBanked page) * 2 + b2n (errBanked page) * 4 + 8

/-- COMMIT of a page: PENDING and DIRTY. -/
def Chip.commitReg (c : Chip) (page : Nat) : Nat :=
  if (stagedOffs page).isEmpty then 0
  else b2n (c.pendingCommit page) * 2 + b2n (tget ({} : Capture) c.caps page).dirty * 4

/-- The header registers (R449). -/
def Chip.hdrView (c : Chip) (r : Requester) (page off : Nat) : Nat :=
  match off with
  | 0x000 => blkType page + ((pageBlk page).map Prod.snd).getD 0 * 2 ^ 16 + (if blkType page = 0x0170 then 4 else 1) * 2 ^ 24
  | 0x004 => capsReg page
  | 0x006 => c.ownerReg page
  | 0x008 => c.statusReg page
  | 0x00C => c.commitReg page
  | 0x00E => c.errReg page 0x00E r
  | 0x010 => c.errReg page 0x010 r
  | 0x012 => if c.debugOpen then c.live page off % 2 ^ 8 else 0
  | _ => c.live page off

/-- The context registers of a lane (R304 to R306). -/
def Chip.laneView (c : Chip) (page off : Nat) : Nat :=
  let x := c.ln (laneAt page off)
  match off % 8 with
  | 0 => x.cfg
  | 2 => x.link
  | 4 => x.pidx + x.cidx * 2 ^ 16
  | _ => x.lstat

/-- LDREM: the device lines a running remirror has copied (R339). (DEDUCED, log entry 72) -/
def Chip.ldrem (c : Chip) (k : Nat) : Nat := if (c.lp k).st == .sync then (c.lp k).copied else 0

/-- What a register reads as, before the effects of the read. -/
def Chip.regView (c : Chip) (r : Requester) (page off : Nat) : Nat :=
  match pageBlk page with
  | none => 0
  | some (.lanectx, _) => c.laneView page off
  | some (b, i) =>
    if off < 0x16 then c.hdrView r page off
    else match b with
      | .pwr => if off = 0x100 then c.pwrstat else c.live page off
      | .tb => if off = 0x180 then c.now % 2 ^ 32 else if off = 0x182 then c.bank page off r.unit 0 else c.live page off
      | .lch => c.lchView off
      | .wld => c.wldView r off
      | .role => c.roleView off
      | .eight =>
        (match off with
         | 0x100 => c.estat i
         | 0x102 => (c.eight i).mapReg
         | 0x104 => (c.eight i).amapReg
         | 0x306 => (c.eight i).clrL2.toNat + b2n ((c.eight i).clrL2 != 0 || !(c.eight i).clrL1.isEmpty) * 2 ^ 16
         | _ => c.live page off)
      | .core =>
        if off = 0x100 then c.cstat i
        else if 0x300 ≤ off ∧ off < 0x320 then
          (match c.arrayPage i with
           | some p => c.live p off + (if off = 0x300 then c.lockCounts (p - 0x020) else 0)
           | none => 0)
        else if 0x150 ≤ off ∧ off < 0x170 ∧ off % 4 = 2 then c.bank page off r.unit 0
        else c.live page off
      | .evh0 => c.hubView r off
      | .evh1 => c.groupRead r true ((off - 0x100) / 0x40) ((off - 0x100) % 0x40 / 2)
      | .evh2 => c.tgtstat ((off - 0x100) / 2)
      | .evh3 => if off = 0x102 then c.ownrd else c.live page off
      | .ring | .ring0 => if off = 0x100 then c.rstat else if off = 0x182 then c.rtrd else c.live page off
      | .lane =>
        (match off with
         | 0x100 => c.lestat
         | 0x106 => c.pinnedCount
         | 0x180 => c.lnsel r
         | 0x184 => c.hstat r.partyBank
         | _ => c.live page off)
      | .qdr => if off = 0x100 then c.qstat i else c.live page off
      | .lpd =>
        if off = 0x100 then c.ldstat i else if off = 0x108 then c.ldrem i
        else if off = 0x10A then c.ext.keys else c.live page off
      | .fpx => if off = 0x100 then c.fpxTrip else if off = 0x102 then c.fpxLink else c.live page off
      | .fp => if off = 0x100 then c.fpstat i else c.live page off
      | .pair => if off = 0x100 then c.pairstat else c.live page off
      | _ => c.live page off

/-! ### Reads (R4, R454, R455, R475) -/

/-- A register of a read window that a party reads without owning its page (R475): its read clears nothing. -/
def Chip.windowOnly (c : Chip) (r : Requester) (page : Nat) : Bool := r.party.isSome && c.pageOwner page != r.party

/-- Clear the RC fields of a register that has been read (R4): those of a CORE page with no array set are not there (R251). -/
def Chip.clearRc (c : Chip) (r : Requester) (page off rc : Nat) : Chip :=
  if rc = 0 then c
  else if page = 0x070 then
    { c with hub := { c.hub with pstat := tset 0 c.hub.pstat r.unit (setBits (c.hub.pst r.unit) 15 8 0) } }
  else if page = 0x090 ∧ off = 0x184 then c.setBank page off r.partyBank 0 (c.bank page off r.partyBank 0 % 2 ^ 16)
  else if c.windowOnly r page && !errBanked page then c
  else if 0x020 ≤ page ∧ page < 0x068 ∧ 0x300 ≤ off then
    match c.arrayPage (page - 0x020) with
    | some p => c.setLive p off (c.live p off - (c.live p off &&& rc))
    | none => c
  else c.setLive page off (c.live page off - (c.live page off &&& rc))

/-- A pair read of a register: the chip after it and the value. -/
def Chip.regRead (c : Chip) (r : Requester) (page off : Nat) (d : RegD) : Chip × Nat :=
  if page = 0x070 ∧ off = 0x100 then c.iack r
  else if page = 0x090 ∧ off = 0x182 then c.lnrd r
  else if page = 0x004 ∧ off = 0x180 then c.tbnowl r
  else if 0x020 ≤ page ∧ page < 0x068 ∧ 0x150 ≤ off ∧ off < 0x170 ∧ off % 4 = 0 then
    c.pmLow r (page - 0x020) ((off - 0x150) / 4)
  else
    let v := c.regView r page off
    (c.clearRc r page off d.rc, if d.isStaged then v &&& d.rd else v)

/-- What a read of a staged register returns: the staged copy at its offset, the live copy at its mirror (R450). -/
def Chip.stagedRead (c : Chip) (page off : Nat) (mirror : Bool) : Nat :=
  if mirror then tget (heldReset page off) c.regs (regKey (c.heldPage page off) off) else c.stagedVal page off

/-- The registers of an odd EIGHT page that read 0 and ignore writes. -/
def oddSwctl (page off : Nat) : Bool := decide (0x010 ≤ page) && decide (page ≤ 0x017) && page % 2 == 1 && off == 0x020

/-- A pair read at an offset of a page (R454). -/
def Chip.pairRead (c : Chip) (r : Requester) (page off : Nat) : Chip × Nat :=
  let a : Access := ⟨r, page, off, false⟩
  let lanes := decide (0x100 ≤ page) && decide (page < 0x120)
  if 64 < r.unit && inWindow page off && errBanked page then (c, 0)
  else if 0x400 ≤ off ∧ !lanes then
    match regD page (off - 0x400) with
    | some d => if d.isStaged then
        (c, if oddSwctl page (off - 0x400) then 0 else c.stagedRead page (off - 0x400) true) else (c.badOff a, 0)
    | none => (c.badOff a, 0)
  else match regD page off with
    | none => (c.badOff a, 0)
    | some d => if d.isStaged then (c, if oddSwctl page off then 0 else c.stagedRead page off false) else c.regRead r page off d

/-! ### Writes -/

/-- ERRINJ (R360): the launch controller and the debug block arm an injection in the lifecycle states that are open. KIND 3
takes effect at once; the reserved bits 7:5 of ERRSTAT stay 0 (R6). -/
def Chip.errInj (c : Chip) (a : Access) (x : Nat) : Chip :=
  if !c.debugOpen || !(a.rq.unit == 64 || a.rq.unit == 66) then c
  else
    let v := bits x 6 1 * 2
    if bitN x 0 then
      if bits x 2 1 = 3 then
        let c := c.setLive a.page 0x012 v
        (if 5 ≤ bits x 6 3 ∧ bits x 6 3 ≤ 7 then c else c.accErr a (bits x 6 3)).accErr a 4
      else c.setLive a.page 0x012 (v + 2 ^ 7 + a.rq.unit * 2 ^ 8)
    else c.setLive a.page 0x012 (v + c.fld a.page 0x012 14 7 * 2 ^ 7)

/-- Whether a requester is the monitor of the world that owns a page (OWNER.MLOCK). -/
def Chip.isMonitor (c : Chip) (r : Requester) (page : Nat) : Bool :=
  r.level == 2 && r.party.isSome && (c.pageOwner page).map c.worldOf == r.party.map c.worldOf

/-- A write of a header register. -/
def Chip.hdrWrite (c : Chip) (a : Access) (x : Nat) : Chip :=
  let r := a.rq
  let wldParty := a.page == 0x006 && r.party.isSome
  match a.off with
  | 0x006 => if c.isMonitor r a.page && !wldParty then c.setFld a.page 0x006 8 8 (bits x 8 8) else c
  | 0x00A => if wldParty then c else c.setLive a.page 0x00A (bits x 0 0)
  | 0x00C => if wldParty then c.badOff a else if bitN x 0 then c.commitGo a.page r else c
  | 0x00E => c.setErrReg a.page 0x00E r (c.errReg a.page 0x00E r - (c.errReg a.page 0x00E r &&& x))
  | 0x012 => c.errInj a x
  | 0x014 => if wldParty then c else c.setLive a.page 0x014 (bits x 9 0)
  | _ => c

/-- A write by its access code (R4): RW bits take the value, W1C bits written 1 clear. -/
def Chip.plainWrite (c : Chip) (page off x : Nat) (d : RegD) : Chip :=
  let v := c.live page off
  let v := v - (v &&& d.rw) + (x &&& d.rw)
  c.setLive page off (v - (v &&& (x &&& d.w1c)))

/-- Writes to the hub's party window. -/
def Chip.hubWrite (c : Chip) (r : Requester) (off x : Nat) : Chip :=
  let h := c.hub
  let s := h.slice r.unit
  if 64 < r.unit then c
  else if off = 0x102 then c.ieoi r x
  else if off = 0x104 then { c with hub := h.setSlice r.unit { s with tctl := bits x 8 0 } }
  else if off = 0x108 then { c with hub := h.setSlice r.unit { s with modctl := x } }
  else if off = 0x10A then { c with hub := h.setSlice r.unit { s with wmask := x } }
  else if off = 0x10C then c.swset r x
  else if off = 0x10E then c.cfgw r x
  else if off = 0x110 then { c with hub := h.setSlice r.unit { s with cfgsel := bits x 9 0 } }
  else if off = 0x114 then
    { c with hub := { h with pstat := tset 0 h.pstat r.unit (h.pst r.unit - (h.pst r.unit &&& (x &&& 0xF))) } }
  else if 0x140 ≤ off ∧ off < 0x200 then c.groupWrite r false ((off - 0x140) / 0x40) ((off - 0x140) % 0x40 / 2) x
  else c

/-- Writes to a CORE page (R251, R417, R421). -/
def Chip.coreWrite (c : Chip) (r : Requester) (pi off x : Nat) (d : RegD) : Chip :=
  let page := 0x020 + pi
  if 0x300 ≤ off then
    match c.arrayPage pi with
    | some p => c.plainWrite p off x d
    | none => c
  else if 0x140 ≤ off ∧ off < 0x150 then
    let x := match r.party with
      | some q => setBits (setBits x 13 8 q) 14 14 0
      | none => x
    c.plainWrite page off x d
  else if 0x150 ≤ off ∧ off < 0x170 then
    if off % 4 = 0 then c.pmHold r pi ((off - 0x150) / 4) x else c.pmLoad r pi ((off - 0x150) / 4) x
  else c.plainWrite page off x d

/-- A write to a live register beside the header. (DEDUCED, log entry 35) -/
def Chip.liveWrite (c : Chip) (a : Access) (x : Nat) (d : RegD) : Chip :=
  let r := a.rq
  match pageBlk a.page with
  | some (.evh0, _) => c.hubWrite r a.off x
  | some (.evh1, _) => c.groupWrite r true ((a.off - 0x100) / 0x40) ((a.off - 0x100) % 0x40 / 2) x
  | some (.lane, _) => if a.off = 0x180 then c.setBank 0x090 0x180 r.unit 0 (bits x 9 0) else c.plainWrite a.page a.off x d
  | some (.lanectx, _) =>
    (match a.off % 8 with
     | 0 => c.laneCfgWrite (laneAt a.page a.off) false x
     | 2 => c.laneCfgWrite (laneAt a.page a.off) true x
     | 4 => c.doorbell (laneAt a.page a.off) x
     | _ => c.lstatWrite (laneAt a.page a.off) x)
  | some (.wld, _) =>
    if a.off = 0x102 then c.dwkick r
    else if a.off = 0x180 then c.gateWrite r x
    else c.plainWrite a.page a.off x d
  | some (.core, i) => c.coreWrite r i a.off x d
  | some (.fp, n) => if a.off = 0x102 then (if bitN x 0 then c.rearm n r else c) else c.plainWrite a.page a.off x d
  | some (.pmc, _) => if a.off = 0x024 then c.snapCtl x else c.plainWrite a.page a.off x d
  | _ => c.plainWrite a.page a.off x d

/-- The registers only the launch controller writes, on an installer's request; each write is journaled (R268, R342). (DEDUCED,
log entry 35) -/
def launchOnly (page off : Nat) : Bool :=
  off == 0x020 && (page == 0x002 || page == 0x006 || (decide (0x010 ≤ page) && decide (page < 0x068)))

/-- A write to a staged register: the staged copy (R450); FIRE of TRCTL is trigger source 0 at once (R414). -/
def Chip.stagedWrite (c : Chip) (a : Access) (x : Nat) (d : RegD) : Chip :=
  if launchOnly a.page a.off then
    if a.rq.unit = 64 then
      if oddSwctl a.page a.off then c else (c.setStaged a.page a.off (x &&& d.rw)).deviceRecord .config
    else if a.page = 0x006 then c.badOff a else c
  else if 0x120 ≤ a.page ∧ a.page < 0x140 ∧ 0x030 ≤ a.off ∧ a.off ≤ 0x034 then c
  else
    let c := c.setStaged a.page a.off (x &&& d.rw)
    if a.page = 0x0F4 ∧ a.off = 0x020 ∧ bitN x 2 then c.trigger 0 else c

/-- A pair write at an offset of a page (R454). -/
def Chip.pairWrite (c : Chip) (r : Requester) (page off x : Nat) : Chip :=
  let a : Access := ⟨r, page, off, true⟩
  let lanes := decide (0x100 ≤ page) && decide (page < 0x120)
  let window := inWindow page off && errBanked page
  if 64 < r.unit && window then c
  else if !lanes && !window && c.fld page 0x006 8 8 = 1 && r.party.isSome && r.level < 2 && (0x020 ≤ off || off == 0x00C) then
    c.badOff a
  else if 0x400 ≤ off ∧ !lanes then
    match regD page (off - 0x400) with
    | some d => if d.isStaged then c else c.badOff a
    | none => c.badOff a
  else match regD page off with
    | none => c.badOff a
    | some d =>
      if !window && c.windowOnly r page && !lanes then c
      else if off < 0x16 && !lanes then c.hdrWrite a x
      else if d.isStaged then c.stagedWrite a x d
      else c.liveWrite a x d

/-! ### Accesses by address and width (R105, R447, R454) -/

/-- A single-word access sets BADWIDTH in the addressed block; lane contexts have the LANE page's. -/
def Chip.badWidth (c : Chip) (r : Requester) (page off : Nat) (wr : Bool) : Chip :=
  let lanes := decide (0x100 ≤ page) && decide (page < 0x120)
  c.setErr (if lanes then 0x090 else page) 0 off wr r

/-- A read of `n` words of register space: the value, or `none` for a bus error. -/
def Chip.regLoad (c : Chip) (rq : Requester) (addr n : Nat) : Option (Chip × Nat) :=
  match regPage addr with
  | none => none
  | some page =>
    let off := (addr - devBase) % 0x800
    if !c.pageUp page then none
    else if n = 1 then some (c.badWidth rq page off false, 0)
    else if n = 2 then some (c.pairRead rq page off)
    else none

/-- A write of `n` words of register space; `none` for a bus error. (DEDUCED, log entry 18) -/
def Chip.regStore (c : Chip) (rq : Requester) (addr n x : Nat) : Option Chip :=
  match regPage addr with
  | none => none
  | some page =>
    let off := (addr - devBase) % 0x800
    if !c.pageUp page then none
    else if n = 1 then some (c.badWidth rq page off true)
    else if n = 2 then some (c.pairWrite rq page off x)
    else none

/-! ### Accesses commanded from outside (R209, R455) -/

/-- The requester of a code: a core acts for its running context's party, at its level. (DEDUCED, log entry 15) -/
def Chip.requester (c : Chip) (unit : Nat) : Option Requester :=
  if unit < 64 then
    match c.pipeOf unit with
    | none => none
    | some pi =>
      match (c.pipe pi).ctx with
      | some x => if x.open_ then some ⟨unit, some x.party, (c.pipe pi).arch.level⟩ else none
      | none => none
  else if unit ≤ 66 then some ⟨unit, none, 0⟩
  else none

/-- Whether a requester passes the owner check of a register: the debug block in the open lifecycle states, for TRC, PMC, its
own page, ERRINJ and the boot log (R209, R360, R416, R442). (DEDUCED, log entry 15) -/
def Chip.passes (c : Chip) (r : Requester) (page off : Nat) : Bool :=
  match r.party with
  | some q => c.ownsReg q page off
  | none =>
    r.unit == 64 || inWindow page off
    || (r.unit == 66 && c.debugOpen &&
        (page == 0x0F4 || page == 0x0F5 || page == 0x0F6 || off == 0x012
         || (page == 0x005 && decide (0x140 ≤ off) && decide (off < 0x1A8))))

/-- A pair read of a register by a requester; the value stands in `reply`. A check that fails or a bus error changes nothing.
(DESIGN CHOICE, log entry 16) -/
def Chip.readBy (c : Chip) (unit page off : Nat) : Chip :=
  match c.requester unit with
  | none => c
  | some r =>
    if c.passes r page off then
      match c.regLoad r (devBase + page * 0x800 + off) 2 with
      | some (c', v) => { c' with reply := v }
      | none => c
    else c

/-- A pair write of a register by a requester. -/
def Chip.writeBy (c : Chip) (unit page off x : Nat) : Chip :=
  match c.requester unit with
  | none => c
  | some r =>
    if c.passes r page off then (c.regStore r (devBase + page * 0x800 + off) 2 x).getD c else c

/-! ### DIAG commands (R416) -/

/-- The page a DIAG command names. -/
def diagPage (src : Nat) : Nat := if src = 0 then 0x0F4 else 0x0F5

/-- DIAG_WRITE: writes a register of TRC or PMC, then commits the page. -/
def Chip.diagWrite (c : Chip) (q : Req) (page off x : Nat) : Chip :=
  c.roleCmd q 0x0090 ([BitVec.ofNat 16 page, BitVec.ofNat 16 off] ++ toWords 2 x) installer (fun c =>
    match regD (diagPage page) off with
    | none => (c, .now stDiagAddr [])
    | some d =>
      if d.rw = 0 ∧ d.w1c = 0 ∧ d.wo = 0 then (c, .now stDiagAddr [])
      else ((c.pairWrite launchRq (diagPage page) off x).commitGo (diagPage page) launchRq, .now stDone []))

/-- The registers of a page from an offset, live mirrors among them, as words; `none` where an offset has no register (R416,
R449). -/
def Chip.diagRegs (c : Chip) (page off : Nat) : Nat → Option (Chip × List Word)
  | 0 => some (c, [])
  | n + 1 =>
    let mirror := decide (0x400 ≤ off)
    match (regD page (off % 0x400)).filter (fun d => decide (off < 0x800) && (!mirror || d.isStaged)) with
    | none => none
    | some d =>
      let (c, v) := if d.isStaged then (c, c.stagedRead page (off % 0x400) mirror) else c.regRead launchRq page off d
      (c.diagRegs page (off + 2) n).map (fun r => (r.1, toWords 2 v ++ r.2))

/-- DIAG_READ: copies registers, trace buffer or sink into the requester's buffer. -/
def Chip.diagRead (c : Chip) (q : Req) (src first count addr : Nat) : Chip :=
  c.roleCmd q 0x0091 (BitVec.ofNat 16 src :: (toWords 2 first ++ toWords 2 count ++ toWords 4 addr)) installer (fun c =>
    let key := c.partyKey (some q.party.val)
    let put (c : Chip) (ws : List Word) : Chip × Answer := (c.physWrite key addr (ws.take count), .now stDone [])
    if count = 0 ∨ 65536 < count then (c, .now stDiagAddr [])
    else if !c.ownsRange (some q.party.val) addr count then (c, .now stOwnership [])
    else if src ≤ 1 then
      match c.diagRegs (diagPage src) first ((count + 1) / 2) with
      | some (c, ws) => put c ws
      | none => (c, .now stDiagAddr [])
    else
      let frames := if src = 2 then traceFrames else c.sinkFrames
      if src ≤ 3 ∧ first < frames then
        put c ((List.range ((count + 7) / 8)).flatMap (fun i =>
          let k := (first + i) % frames
          if src = 2 then toWords 8 (tget 0 c.trace.buf k).toNat
          else toWords 8 (c.rdN 0 (c.fld 0x0F4 0x02C 23 0 * 4096 + k * 8) 8)))
      else (c, .now stDiagAddr []))

end Sys2Proof.Machine
end

