-- ==== Sys2Proof/Machine/Issue.lean ====
section
/-! DEFINITION. What stands between an operation and its effect: legality in the window, privilege, occupancy, the causes of
its accesses, the lines it waits for (R62 to R66, R73, R79 to R83, R95, R119 to R128, R179, R205); and the end of an issue
cycle, where results land (R64, R65, R68). -/

namespace Sys2Proof.Machine

/-- What a bundle issues with: the core, its pipeline, the running context, the pipeline at the start of the cycle, the offset
of the bundle, the lines that have come for it and those lost to an error of the ring, the reply of an uncached load once it
has come, and whether a fetch gave the bundle. -/
structure Env where
  core  : Nat
  pi    : Nat
  x     : RunCtx
  p     : Pipe
  pc    : Nat
  done  : List Nat := []
  lost  : List Nat := []
  reply : Option Nat := none
  fetched : Bool := false
  deriving DecidableEq, Repr

/-- Register state at the start of the cycle. -/
def Env.a (e : Env) : Arch := e.p.arch

/-- The offset of the bundle that issues next: the repeated bundle stands after its prefix (R81, R85). -/
def Arch.bundlePc (a : Arch) : Nat := if a.rep.isSome then (a.pc.toNat + 8) % 2 ^ 32 else a.pc.toNat

/-- The environment of an architectural core whose pipeline runs a context. -/
def Chip.env? (c : Chip) (a : Nat) : Option Env :=
  match c.pipeOf a with
  | none => none
  | some pi => (c.pipe pi).ctx.map (fun x => ⟨a, pi, x, c.pipe pi, (c.pipe pi).arch.bundlePc, [], [], none, false⟩)

/-- Issue begins at START + ENTRY: TB has reached it when a core in a window acts (R25, R252). -/
def Chip.atCode (c : Chip) (a : Nat) : Chip :=
  match c.env? a with
  | some e => c.reach (c.granuleAt e.x.codeAt)
  | none => c

/-! ### Kinds of operations -/

/-- Branches, calls, returns, prefixes, SYSE, SYSR, ERET and WEND: not in a delay slot (R73, R120). -/
def CoreOp.transfers : CoreOp → Bool
  | .br _ | .bc _ _ | .bz _ _ | .bnz _ _ | .call _ | .bri _ | .calli _ | .ret | .rep _ | .repi | .syse _ _ | .sysr
  | .eret | .wend => true
  | _ => false

/-- Not in a repeated bundle (R82, R127). -/
def CoreOp.noRepeat : CoreOp → Bool
  | .mtc n _ => n.val == 0
  | .emul _ => true
  | o => o.transfers

/-- REP or REPI. -/
def CoreOp.isPrefix : CoreOp → Bool
  | .rep _ | .repi => true
  | _ => false

/-- NOP. -/
def CoreOp.isNop : CoreOp → Bool
  | .nop => true
  | _ => false

/-- EMUOP to EMUCTL. -/
def emuCreg (n : Nat) : Bool := 0x10 ≤ n && n ≤ 0x14

/-- Illegal in a timed window (R125). -/
def CoreOp.timedIllegal : CoreOp → Bool
  | .casp _ | .syse _ _ | .sysr | .eret | .tlbw _ | .tlbi _ | .twalk _ | .emul _ => true
  | .cache fn _ => !(fn == .prefd || fn == .prefi || fn == .pref2)
  | .mfc n _ | .mtc n _ => emuCreg n
  | _ => false

/-- Illegal in an open window (R69). -/
def CoreOp.openIllegal : CoreOp → Bool
  | .fld _ | .fst _ => true
  | _ => false

/-- Least level of a control register (R119, R196, R227 and the prediction registers). -/
def cregLevel (n : Nat) : Nat :=
  if n ≤ 3 || n == 0x63 then 0
  else if n == 0x40 || n == 0x41 || n == 0x60 || n == 0x61 then 2
  else if 0x20 ≤ n && n ≤ 0x2F then (if n % 2 == 0 && n ≤ 0x2A then 1 else 2)
  else 1

/-- Least level of an operation (R123, R125). -/
def CoreOp.level : CoreOp → Nat
  | .sysr | .eret | .tlbw _ | .tlbi _ | .twalk _ => 1
  | .cache fn _ => if fn == .dcinv || fn == .dlock || fn == .dunlk || fn == .ilock || fn == .iunlk then 1 else 0
  | .mfc n _ | .mtc n _ => cregLevel n
  | .pflush s => if s.val = 1 then 2 else 0
  | _ => 0

/-! ### Operand values that checks need -/

/-- The selector an MTC writes into a selector register, with the segment register its DSEG names (R189). -/
def mtcSelector (a : Arch) (n xr : Nat) : Option (Nat × Nat) :=
  let v := a.rx xr
  match n with
  | 0x20 | 0x21 | 0x2A | 0x2B => some (bits v 15 0, 0)
  | 0x24 | 0x25 => some (bits v 31 16, 2)
  | _ => none

/-- The selector an operation captures, the segment register that INFO names, WR of INFO, and the slot (R108, R189). -/
def opSelector (a : Arch) : CoreOp → Option (Nat × Nat × Bool × Slot)
  | .lseg sg ws => some ((a.rw ws).toNat, sg, false, .l)
  | .mtc n xr => (mtcSelector a n xr).map (fun s => (s.1, s.2, true, .b))
  | _ => none

/-- Cache operations that pass only in the party's own memory: those that R201 does not list among the accesses that pass in
the world segment table (R201, R209). -/
def CacheFn.ownOnly : CacheFn → Bool
  | .dcinv | .prefi | .icinv | .ilock | .iunlk => true
  | .prefd | .pref2 | .dcwb | .dcwbi | .dlock | .dunlk => false

/-- PREFD, PREFI and PREF2. -/
def CacheFn.isPrefetch (fn : CacheFn) : Bool := fn == .prefd || fn == .prefi || fn == .pref2

/-- Cache operations on L1I. -/
def CacheFn.onL1i (fn : CacheFn) : Bool := fn == .prefi || fn == .icinv || fn == .ilock || fn == .iunlk

/-- The access of a cache operation: it translates and checks like a load of one word (R234). -/
def cacheWant (a : Arch) (fn : CacheFn) (o : CacheArg) : Want :=
  { seg := o.seg, off := a.rx o.xb, n := 1, rd := true, wr := false, line := true, own := fn.ownOnly, noEcc := fn.onL1i, slot := .b }

/-- The data accesses of an operation whose causes it raises. -/
def opWants (a : Arch) : CoreOp → List Want
  | .load o => [{ seg := o.seg, off := lmOffset a o, n := o.sz.words, rd := true, wr := false }]
  | .store o => [{ seg := o.seg, off := lmOffset a o, n := o.sz.words, rd := false, wr := true }]
  | .movo o => [{ seg := o.segs, off := a.rx o.xs, n := 8, rd := true, wr := false },
                { seg := o.segd, off := a.rx o.xd, n := 8, rd := false, wr := true }]
  | .casp o => [{ seg := o.seg, off := a.rx o.xb, n := 2, rd := true, wr := true, casp := true }]
  | .cache fn o => if fn.isPrefetch then [] else [cacheWant a fn o]
  | _ => []

/-- The offset an indirect branch or return goes to. -/
def indirectTarget (a : Arch) : CoreOp → Option Pair
  | .bri xt | .calli xt => some (BitVec.ofNat 32 (a.rx xt))
  | .ret => some a.lk
  | _ => none

/-- The count operand of a prefix (R81, R121). -/
def repCount (a : Arch) : CoreOp → Nat
  | .rep (.repImm k) => k.val
  | .rep .repCt | .repi => a.ct.toNat
  | _ => 0

/-! ### Fetch (R61, R174, R175, R190) -/

/-- What fetching a bundle finds; `bad` is an uncorrectable quad of L1I, fatal in a locked line or a timed window and refetched
otherwise (R247). -/
inductive Fetched where
  | words (d : Oct)
  | miss (line : Nat)
  | bad (line : Nat) (fatal : Bool)
  | cause (r : Raised)
  deriving DecidableEq, Repr

/-- The cause of a fetch at an offset. A fetch has no slot: the frame's slot field is 0, as R184 gives it for INTR. (DESIGN
CHOICE, log entry 96) -/
def fetchRaise (k : Cause) (off : Nat) : Raised := ⟨k, .a, off, infoWord 0 false true 8, none⟩

/-- The bundle of a line that a physical address falls in. -/
def lineBundle (d : LineData) (addr : Nat) : Oct := BitVec.ofNat 128 (lineRead d (addr % 32) 8)

/-- Fetch the bundle at an offset: from the fetch-ahead buffer, from L1I, or past the caches where the page is uncached or L1I
has no way to fill (R175, R223, R230, R232). -/
def Chip.fetch (c : Chip) (e : Env) (off : Nat) : Fetched :=
  if e.a.crab then
    if e.x.inRegion (e.x.tmBase * 64 + off) 8 then
      (if c.tightErr e.core (e.x.tmBase * 64 + off) 8 then .cause (fetchRaise .ifbus off)
       else .words (BitVec.ofNat 128 (c.tightRead e.core (e.x.tmBase * 64 + off) 8)))
    else .cause (fetchRaise .ifbus off)
  else match c.fetchCheck e.p e.x off with
    | .error r => .cause r
    | .ok (addr, uc) =>
      let m := c.mctx e.core e.x
      let line := addr / 32
      let past : Fetched := match e.p.got.find? (fun g => g.1 == off) with
        | some g => .words g.2
        | none => .miss line
      if uc then past
      else match (if e.x.open_ then e.p.fab.find? (fun l => l.line == line && l.code == e.p.codeLine off) else none) with
        | some l => .words (lineBundle l.data addr)
        | none => match c.l1Find m true line with
          | some w =>
            let l := (c.l1 e.core true).slot w (line % 128)
            if l.tagBad then .bad line true
            else if badIn l.bad (addr % 32) 8 then (.bad line (l.lock || !e.x.open_ || e.done.contains line))
            else .words (lineBundle l.data addr)
          | none =>
            if !e.x.open_ then .cause (fetchRaise .ifmiss off)
            else if c.l1CanFill m true line then .miss line
            else past

/-- A bundle that issues from the fetch-ahead buffer brings its line into L1I (R175). -/
def Chip.fabAllocate (c : Chip) (e : Env) (off : Nat) : Chip :=
  match c.fetchCheck e.p e.x off with
  | .error _ | .ok (_, true) => c
  | .ok (addr, false) =>
    let m := c.mctx e.core e.x
    let line := addr / 32
    match c.l1Find m true line with
    | some w => c.setL1 e.core true ((c.l1 e.core true).touch w (line % 128))
    | none =>
      match e.p.fab.find? (fun l => l.line == line && l.code == e.p.codeLine off),
        (c.l1 e.core true).victim (m.l1 true) (line % 128) with
      | some l, some w => c.l1Put m true w line l.data 0 false
      | _, _ => c

/-- A fetched bundle issues, once: its line is allocated, fetch-ahead goes on beyond it, and what was fetched past the caches
is used up. A repetition issues its bundle again without fetch-ahead moving (R174, R175, R230). -/
def Chip.fabTake (c : Chip) (e : Env) : Chip :=
  if !e.fetched then c
  else
    let c := if e.a.crab then c else c.fabAllocate e e.pc
    let p := { c.pipe e.pi with got := [] }
    c.setPipe e.pi (if e.a.rep.isSome && p.fapath.head? != some e.pc then p else p.faIssue e.pc)

/-- The operation words of a bundle by slot (R92), decoded; `none` is an illegal operation. -/
def bundleOps (d : Oct) : List (Slot × Option CoreOp) :=
  [Slot.a, .b, .m, .l].map (fun s => (s, decodeOp s (slotWord s d)))

/-- Whether a repeated bundle holds what R82 and R127 forbid. -/
def badRepeat (d : Oct) : Bool :=
  (bundleOps d).any (fun q => match q.2 with
    | some o => o.noRepeat
    | none => false)

/-! ### Causes (R179, R95) -/

/-- A cause that names no access. -/
def plainRaise (k : Cause) (s : Slot) : Raised := ⟨k, s, 0, 0, none⟩

/-- Whether the operand of an operation makes it illegal (R62, R81, R94, R120, R213). -/
def operandIllegal (e : Env) (o : CoreOp) : Bool :=
  match o with
  | .syse lv _ => !(lv.val == 1 || lv.val == 2) || decide (lv.val ≤ e.a.level)
  | .tlbw wr => decide (127 < (e.a.rw wr).toNat)
  | .rep _ => decide (256 < repCount e.a o)
  | _ => false

/-- Whether an indirect branch or return goes to an offset that is no bundle's (R103). -/
def targetIllegal (e : Env) (o : CoreOp) : Bool :=
  match indirectTarget e.a o with
  | some t => t.toNat % 8 != 0
  | none => false

/-- Whether a prefix shares its bundle with another operation, or the bundle to repeat holds what may not repeat (R81 to R83,
R127). -/
def Chip.prefixIllegal (c : Chip) (e : Env) (ops : List (Slot × CoreOp)) (o : CoreOp) : Bool :=
  o.isPrefix && (ops.any (fun q => q.1 != .b && !q.2.isNop)
    || (match c.fetch e ((e.pc + 8) % 2 ^ 32) with
        | .words d => badRepeat d
        | _ => false))

/-- Whether an operation is illegal where it stands (R62, R69, R73, R81 to R83, R94, R103, R120, R125, R213). -/
def Chip.opIllegal (c : Chip) (e : Env) (ops : List (Slot × CoreOp)) (s : Slot) (o : CoreOp) : Bool :=
  !opLegal s o
  || (!e.x.open_ && o.timedIllegal) || (e.x.open_ && o.openIllegal)
  || (e.a.br.isSome && o.transfers)
  || targetIllegal e o || operandIllegal e o || c.prefixIllegal e ops o

/-- Whether an operation is above its level (R125, R188). -/
def opPriv (e : Env) (o : CoreOp) : Bool :=
  decide (e.a.level < o.level)
  || (match o with
      | .sysr => decide (e.a.level ≤ bits (e.a.acting (0x28 + (e.a.level - 1))) 1 0)
      | _ => false)

/-- Whether an operation meets an occupied unit (R66, R118). -/
def opConflict (e : Env) (s : Slot) (o : CoreOp) : Bool :=
  (match o.unit s with
   | some u => decide (e.p.cycle < tget 0 e.p.occ u.key)
   | none => false)
  || (match o with
      | .vmac v => decide (e.p.cycle < tget 0 e.p.occ (ExecUnit.acc v.ad).key)
      | _ => false)

/-- The granule of a timed window's work that a cycle lies in: 16 CCLK each, counted from START + ENTRY (R69). -/
def Env.granule (e : Env) : Nat := e.p.cycle / 16

/-- The QDR address of a far operation, if it passes steps 2, 3 and 7 of R205 and R107. -/
def Chip.farAddr (c : Chip) (e : Env) (seg off ch : Nat) (wr : Bool) : Option Nat :=
  let s := e.a.segr seg
  if !s.valid || (if wr then !descW s.raw else !descR s.raw) || decide (descLimit s.raw < off + 7) || descPg s.raw then none
  else
    let addr := (descBase s.raw + off) % 2 ^ 36
    if off % 8 = 0 && addr % 8 = 0 && c.inQdr addr && qdrCh addr == ch && c.ownsMem e.p e.x addr 8 (!wr) then some addr
    else none

/-- The ACCESS entry a far operation issues in the first granule of (R69). -/
def Env.access (e : Env) (ch : Nat) (wr : Bool) : Option AccE :=
  e.x.acc.find? (fun q => q.window == e.x.win && q.ch == ch && q.wr == wr && q.first == e.granule)

/-- The tight-memory offset FLD writes (R107). -/
def fldTight (e : Env) (wt : Nat) : Nat := e.x.tmBase * 64 + (e.a.rw wt).toNat

/-- Whether a far operation violates R69 or R107. -/
def Chip.opFar (c : Chip) (e : Env) : CoreOp → Bool
  | .fld o =>
    (e.access o.ch false).isNone || decide (16 ≤ e.p.far.length)
    || (c.farAddr e o.segq (e.a.rx o.xq) o.ch false).isNone
    || fldTight e o.wt % 8 != 0 || !e.x.inRegion (fldTight e o.wt) 8 || c.tightHeld e.core (fldTight e o.wt) 8
  | .fst o =>
    (e.access o.ch true).isNone || decide (16 ≤ e.p.far.length)
    || (c.farAddr e o.segq (e.a.rx o.xq) o.ch true).isNone
  | _ => false

/-- The INFO and ADDR of a failed capture (R202). -/
def captureRaise (k : Cause) (sel seg : Nat) (wr : Bool) (s : Slot) : Raised := ⟨k, s, sel, infoWord seg wr false 8, none⟩

/-! ### Errors of a core's arrays (R247, R360) -/

/-- Invalidate a line of L1 where it stands. -/
def Chip.l1Drop (c : Chip) (m : MCtx) (i : Bool) (line : Nat) : Chip :=
  match c.l1Find m i line with
  | none => c
  | some w => c.setL1 m.core i ((c.l1 m.core i).setSlot w (line % 128) {})

/-- A line of L1D, or where it holds none of L2 by its tag, meets an uncorrectable error: it is logged and invalidated. The
error of a line that was just filled was logged, if at all, by the array it came from (R247). -/
def Chip.eccLine (c : Chip) (e : Env) (ad : Nat) : Chip :=
  let m := c.mctx e.core e.x
  match c.l1Find m false (ad / 32) with
  | none =>
    (match (c.l2 e.core).find m.l2 1024 (ad / 32) with
     | some w =>
       let l := (c.l2 e.core).slot w (ad / 32 % 1024)
       if l.tagBad then (c.setL2 e.core ((c.l2 e.core).setSlot w (ad / 32 % 1024) {})).l2Error (e.core / 8) w (ad / 32 * 32) l.dirty
       else c
     | none => c)
  | some w =>
    let c := if ((c.l1 e.core false).slot w (ad / 32 % 128)).tagBad then c.logError e.core 3 ad
      else if e.done.contains (ad / 32) then c else c.logError e.core 1 ad
    c.l1Drop m false (ad / 32)

/-- Count a corrected error in a field of the CECC of a core's array set: 0 tight memory, 8 L1D, 16 L1I, 24 tags. -/
def Chip.corrected (c : Chip) (core k : Nat) : Chip := c.bumpFld (0x020 + c.arrOf core) 0x302 (k + 7) k

/-- An injection armed at the CORE page of a pipeline strikes its next read of a line of L1: a single-bit error is corrected
and counted, an uncorrectable one lies in the quad read or in the line's tag, as a free value says. (DESIGN CHOICE, log entry
79) -/
def Chip.injectL1 (c : Chip) (e : Env) (i : Bool) (addr : Nat) : Chip :=
  let line := addr / 32
  match c.armed (0x020 + e.pi), c.l1Find (c.mctx e.core e.x) i line with
  | some 0, some _ =>
    let (c, v) := (c.injected (0x020 + e.pi)).draw
    c.corrected e.core (if v % 2 = 1 then 24 else if i then 16 else 8)
  | some 1, some w =>
    let (c, v) := (c.injected (0x020 + e.pi)).draw
    let k := c.l1 e.core i
    let l := k.slot w (line % 128)
    c.setL1 e.core i (k.setSlot w (line % 128)
      (if v % 2 = 1 then { l with tagBad := true } else { l with bad := l.bad ||| BitVec.ofNat 8 (2 ^ (addr % 32 / 4)) }))
  | _, _ => c

/-- The same for its next read of tight memory. -/
def Chip.injectTight (c : Chip) (e : Env) (off : Nat) : Chip :=
  match c.armed (0x020 + e.pi) with
  | some 0 => (c.injected (0x020 + e.pi)).corrected e.core 0
  | some 1 =>
    let c := c.injected (0x020 + e.pi)
    { c with tmBad := tset false c.tmBad (c.tmAddr e.core off) true }
  | _ => c

/-- The same, of an EIGHT page, for the next read of a line of the eight's L2. -/
def Chip.injectL2 (c : Chip) (m : MCtx) (line : Nat) : Chip :=
  let pg := 0x010 + m.core / 8
  match c.armed pg, (c.l2 m.core).find m.l2 1024 line with
  | some 0, some _ => (c.injected pg).bumpFld pg 0x300 15 0
  | some 1, some w =>
    let (c, v) := (c.injected pg).draw
    let k := c.l2 m.core
    let l := k.slot w (line % 1024)
    c.setL2 m.core (k.setSlot w (line % 1024)
      (if v % 2 = 1 then { l with tagBad := true } else { l with bad := l.bad ||| BitVec.ofNat 8 (2 ^ (v / 2 % 8)) }))
  | _, _ => c

/-! ### Lines a read waits for (R80, R232, R247) -/


/-- Whether a read of a present line must refetch it. -/
def Chip.refetches (c : Chip) (e : Env) (line addr n : Nat) : Bool :=
  match c.l1Find (c.mctx e.core e.x) false line with
  | some w =>
    let l := (c.l1 e.core false).slot w (line % 128)
    e.x.open_ && badIn l.bad (addr % 32) n && !l.tagBad && !l.dirty && !l.lock && !e.done.contains line
  | none => false

/-- Whether a line must be filled before the bundle acts. -/
def Chip.lineMissing (c : Chip) (e : Env) (addr n : Nat) : Bool :=
  let m := c.mctx e.core e.x
  let line := addr / 32
  ((c.l1Find m false line).isNone && c.l1CanFill m false line && !e.done.contains line) || c.refetches e line addr n

/-- Whether a read that has no uncached form of its own, of a descriptor, a page table or a frame, waits for its line: it
stalls for a missing line also where no way can take it (R80, R201, R220, R232). -/
def Chip.lineAwaited (c : Chip) (e : Env) (addr n : Nat) : Bool :=
  ((c.l1Find (c.mctx e.core e.x) false (addr / 32)).isNone && !e.done.contains (addr / 32)) || c.refetches e (addr / 32) addr n

/-- Fill the line of a read that waits for it: a present line with an uncorrectable quad is logged and refetched (R247). -/
def Chip.refill (c : Chip) (e : Env) (line : Nat) : Chip :=
  let m := c.mctx e.core e.x
  let c := if (c.l1Find m false line).isSome then (c.logError e.core 1 (line * 32)).l1Drop m false line else c
  ((c.injectL2 m line).l1Fill m false line).count e.pi 0x06 1

/-- The same where a read that cannot stall first meets it. -/
def Chip.ensureLine (c : Chip) (e : Env) (addr n : Nat) : Chip :=
  if c.lineMissing e addr n then c.refill e (addr / 32) else c

/-! ### Walks of the page table (R210, R211, R220 to R222) -/

/-- What a table read of a walk finds: the line of L1D it waits for, a quad with whether the read stalls for a hit in L1D, or
the status code. -/
inductive TableRead where
  | miss (line : Nat)
  | quad (q : Quad) (hit : Bool)
  | fail (code : Nat)
  deriving DecidableEq, Repr

/-- A table read of a walk (R220, R221). Its line was filled for it where the bundle has waited for it; one whose read ended as
an error of the ring, which raises no cause, counts as BUS. (DESIGN CHOICE, log entry 97) -/
def Chip.walkRead (c : Chip) (e : Env) (addr : Nat) : Chip × TableRead :=
  if inDevice addr then (c, .fail 6)
  else if !(c.inQdr addr || c.inLpd addr) || c.memOwner addr != some e.x.party then (c, .fail 7)
  else if e.lost.contains (addr / 32) then (c, .fail 7)
  else if c.lineAwaited e addr 4 then (c, .miss (addr / 32))
  else
    let m := c.mctx e.core e.x
    let hit := (c.l1Find m false (addr / 32)).isSome && !e.done.contains (addr / 32)
    if c.cachedBad m addr 4 then (c.eccLine e addr, .fail 8)
    else
      let r := c.cachedRead m addr 4
      (r.1, .quad (BitVec.ofNat 64 r.2) hit)

/-- Whether a table pointer has reserved bits set (R211). -/
def ptrBad (q : Quad) : Bool := bits q.toNat 15 1 != 0 || bits q.toNat 63 40 != 0

/-- Insert a pointer into the walk cache, most recently used first (R222). -/
def wcInsert (l : List WcEntry) (w : WcEntry) : List WcEntry :=
  (w :: l.filter (fun v => !(v.world == w.world && v.asid == w.asid && v.level == w.level && v.idx == w.idx))).take 32

/-- A walk so far: the walk cache, the entries read and those found in L1D; and as it ends, the status word and leaf, or the
line of L1D it waits for (R220, R221). -/
structure Walk where
  wc     : List WcEntry
  reads  : Nat := 0
  hits   : Nat := 0
  status : Nat := 0
  leaf   : Option Quad := none
  miss   : Option Nat := none
  deriving DecidableEq, Repr

/-- A walk counts an entry it has read. -/
def Walk.read (w : Walk) (hit : Bool) : Walk := { w with reads := w.reads + 1, hits := w.hits + b2n hit }

/-- A walk that ends at a level without a pointer: at codes 6 and 7 nothing was read (R221). -/
def Walk.fail (w : Walk) (code lev : Nat) : Walk :=
  { (if code = 8 then w.read false else w) with status := code + lev * 16 }

/-- A walk from a table page at a level down to the leaf (R210, R221). An entry with V = 0 that is also ill-formed meets two
rows of R221's table; V is looked at first. (DESIGN CHOICE, log entry 96) -/
def Chip.walkFrom (c : Chip) (e : Env) (asid : BitVec 12) (lin : Nat) : Nat → Nat → Walk → Chip × Walk
  | 0, table, w =>
    match c.walkRead e (table + bits lin 21 12 * 4) with
    | (c, .miss l) => (c, { w with miss := some l })
    | (c, .fail k) => (c, w.fail k 0)
    | (c, .quad q hit) =>
      let code := if !q.getLsbD 0 then 4 else if !leafOk q (bits lin 21 12) then 5 else 0
      (c, { w.read hit with status := code, leaf := some q })
  | l + 1, table, w =>
    let i := if l = 1 then bits lin 41 32 else bits lin 31 22
    let lev := l + 1
    match c.walkRead e (table + i * 4) with
    | (c, .miss l) => (c, { w with miss := some l })
    | (c, .fail k) => (c, w.fail k lev)
    | (c, .quad q hit) =>
      let w := w.read hit
      if !q.getLsbD 0 then (c, { w with status := 3 + lev * 16 })
      else if ptrBad q then (c, { w with status := 5 + lev * 16 })
      else
        let idx := if l = 1 then bits lin 41 32 else bits lin 41 22
        Chip.walkFrom c e asid lin l (ptePpn q * 4096) { w with wc := wcInsert w.wc ⟨e.x.world, asid, lev, idx, ptePpn q⟩ }

/-- The walk of TWALK, entered where the walk cache allows (R220). -/
def Chip.walk (c : Chip) (e : Env) (y : Nat) : Chip × Walk :=
  let root := e.a.acting 0x44 + bits (e.a.acting 0x45) 3 0 * 2 ^ 32
  let asid := e.p.asidEff
  let wc := e.p.wc
  if !bitN (e.a.acting 0x45) 31 then (c, { wc := wc, status := 1 + 2 * 16 })
  else if y / 2 ^ 42 ≠ 0 then (c, { wc := wc, status := 2 + 2 * 16 })
  else
    let find (l i : Nat) : Option WcEntry :=
      wc.find? (fun w => w.world == e.x.world && w.asid == asid && w.level == l && w.idx == i)
    match find 1 (bits y 41 22), find 2 (bits y 41 32) with
    | some w, _ => c.walkFrom e asid y 0 (w.ppn * 4096) { wc := wcInsert wc w }
    | none, some w => c.walkFrom e asid y 1 (w.ppn * 4096) { wc := wcInsert wc w }
    | none, none => c.walkFrom e asid y 2 root { wc := wc }

/-! ### Causes of captures and accesses -/

/-- Where the descriptor of a selector that is not null stands. -/
def Chip.selAddr (c : Chip) (e : Env) (sel : Nat) : Option Nat :=
  if bits sel 12 0 = 0 then none else c.descAddr e.p e.x sel

/-- The address of the descriptor an operation captures. -/
def Chip.captureAddr (c : Chip) (e : Env) (o : CoreOp) : Option Nat := (opSelector e.a o).bind (fun s => c.selAddr e s.1)

/-- The line of L1D that the capture an operation makes waits for: in a timed window nothing waits (R63, R79). -/
def Chip.captureLine (c : Chip) (e : Env) (o : CoreOp) : Option Nat :=
  if !e.x.open_ then none
  else match c.captureAddr e o with
    | some ad => if c.lineAwaited e ad 8 then some (ad / 32) else none
    | none => none

/-- The cause of the capture an operation makes, at the running level; none while its line is still to come. -/
def Chip.opCapture (c : Chip) (e : Env) (o : CoreOp) : List Raised :=
  match opSelector e.a o with
  | none => []
  | some (sel, seg, wr, s) =>
    let dmiss := !e.x.open_ && (match c.selAddr e sel with
      | some ad => (c.l1Find (c.mctx e.core e.x) false (ad / 32)).isNone
      | none => false)
    if dmiss then [captureRaise .dmiss sel seg wr s]
    else if (c.captureLine e o).isSome then []
    else match (c.capture e.core e.p e.x e.a.level sel).2.2 with
      | some k => [captureRaise k sel seg wr s]
      | none => []

/-- The causes of an operation's accesses. -/
def Chip.opAccess (c : Chip) (e : Env) (o : CoreOp) : List Raised :=
  (opWants e.a o).filterMap (fun q => match c.check e.core e.p e.x e.done q with
    | .error r => some r
    | .ok _ => none)

/-- The fetch causes of the bundle that a prefix repeats (R82). -/
def Chip.prefixFetch (c : Chip) (e : Env) (o : CoreOp) : List Raised :=
  if o.isPrefix then
    match c.fetch e ((e.pc + 8) % 2 ^ 32) with
    | .cause r => [r]
    | .bad _ true => [fetchRaise .ifbus ((e.pc + 8) % 2 ^ 32)]
    | _ => []
  else []

/-- The emulation trap of an operation (R126). -/
def emulCause (s : Slot) (o : CoreOp) : List Raised :=
  match o with
  | .emul _ => [plainRaise .emul s]
  | _ => []

/-- Every cause of one operation; a prefix also takes the fetch causes of its repeated bundle (R82). -/
def Chip.opCauses (c : Chip) (e : Env) (ops : List (Slot × CoreOp)) (s : Slot) (o : CoreOp) : List Raised :=
  c.prefixFetch e o
  ++ if c.opIllegal e ops s o then [plainRaise .illegal s]
  else if opPriv e o then [plainRaise .priv s]
  else
    (if opConflict e s o then [plainRaise .sched s] else [])
    ++ (if c.opFar e o then [plainRaise .farop s] else [])
    ++ c.opAccess e o ++ c.opCapture e o ++ emulCause s o

/-- The cause a bundle takes: an emulation trap only if no slot raises any other (R95). -/
def Chip.bundleCause (c : Chip) (e : Env) (ops : List (Slot × CoreOp)) : Option Raised :=
  firstCause (ops.flatMap (fun q => c.opCauses e ops q.1 q.2))

/-! ### Replies a bundle waits for (R80, R477) -/


/-- The lines of L1D that an operation waits for. -/
def Chip.opLines (c : Chip) (e : Env) (o : CoreOp) : List Nat :=
  ((opWants e.a o).filter (fun q => !q.line && !q.casp)).filterMap (fun q =>
      match c.check e.core e.p e.x e.done q with
      | .ok (.mem ad true) => if c.lineMissing e ad q.n then some (ad / 32) else none
      | _ => none)
  ++ (c.captureLine e o).toList
  ++ (match o with
      | .twalk q => (c.walk e (e.a.rd .quad q.yb)).2.miss.toList
      | _ => [])

/-- Whether an operation waits for the reply of an uncached access (R109, R477): CASP, and every load or MOVO source that goes
past the caches. -/
def Chip.opUncached (c : Chip) (e : Env) (o : CoreOp) : Bool :=
  (opWants e.a o).any (fun q => !q.line && q.rd && (q.casp || (match c.check e.core e.p e.x e.done { q with noEcc := true } with
    | .ok (.mem ad cached) =>
      !cached || ((c.l1Find (c.mctx e.core e.x) false (ad / 32)).isNone
        && !c.l1CanFill (c.mctx e.core e.x) false (ad / 32))
    | .ok (.reg _) => true
    | _ => false)))

/-! ### Causes raised (R180, R193, R126, R214 to R216, R247) -/

/-- The access among some that met an uncorrectable error: log it and invalidate its line. -/
def Chip.eccWants (c : Chip) (e : Env) (qs : List Want) : Chip :=
  match qs.find? (fun q => match c.check e.core e.p e.x e.done q with
    | .error r => r.cause == .decc
    | .ok _ => false) with
  | none => c
  | some q =>
    match c.check e.core e.p e.x e.done { q with noEcc := true } with
    | .ok (.tight off) => c.logError e.core 0 off
    | .ok (.mem ad cached) => if cached || q.casp then c.eccLine e ad else c
    | _ => c

/-- The same for the accesses of a bundle's operations and the descriptors they capture. -/
def Chip.eccEffects (c : Chip) (e : Env) (ops : List (Slot × CoreOp)) : Chip :=
  let qs := ops.flatMap (fun q => opWants e.a q.2)
  match (ops.filter (fun q => (c.opCapture e q.2).any (·.cause == .decc))).findSome? (fun q => c.captureAddr e q.2) with
  | some ad => c.eccLine e ad
  | none => c.eccWants e qs

/-- Take a cause in a timed window (R180), at once as a fault in the crab handler (R193), or hold it for the entry (R183). -/
def Chip.take (c : Chip) (e : Env) (ops : List (Slot × CoreOp)) (r : Raised) : Chip :=
  let c := if r.cause == .decc then c.eccEffects e ops else c
  let c := if r.cause == .iftlb || r.cause == .dtlb then c.count e.pi 0x0C 1 else c
  let p := c.pipe e.pi
  let p := { p with stall := none, arch := { p.arch with reissue := none } }
  if !e.x.open_ then
    let c := c.emitTarget e.core p e.x 9 r.cause.code e.pc
    c.setPipe e.pi { p with run := .faulted r.cause.code e.pc, issued := true }
  else if p.arch.crab then
    let c := c.setPipe e.pi { p with run := .halted, fly := [], stores := [] }
    c.emitPwr e.core p e.x 1
  else
    let cr := match r.lin with
      | none => p.arch.creg
      | some l => tset 0 (tset 0 p.arch.creg 0x4E (BitVec.ofNat 32 l)) 0x4F (BitVec.ofNat 32 (bits l 41 32))
    let cr := if r.cause == .emul then
        match ops.find? (fun q => q.1 == r.slot) with
        | some (_, .emul w) =>
          let maj := bits w.toNat 31 26
          tset 0 (tset 0 cr 0x10 w) 0x11
            (BitVec.ofNat 32 (r.slot.order + maj * 4 + b2n e.a.br.isSome * 256 + b2n (0x38 ≤ maj) * 512))
        | _ => cr
      else cr
    c.setPipe e.pi { p with pend := some r, arch := { p.arch with creg := cr } }

/-! ### Landing (R64, R65, R68) -/

/-- Priority of a slot among results of one bundle (R65). -/
def Slot.pri : Slot → Nat
  | .a => 4
  | .b => 3
  | .m => 2
  | .l => 1

/-- Results of an operation of latency `L` issued now in a slot. -/
def Pipe.land (p : Pipe) (s : Slot) (L : Nat) (ws : List LWrite) : Pipe :=
  { p with fly := p.fly ++ ws.map (fun w => ⟨p.cycle + L - 1, p.cycle, s.pri, w⟩) }

/-- The same, on the chip. -/
def Chip.land (c : Chip) (pi : Nat) (s : Slot) (L : Nat) (ws : List LWrite) : Chip :=
  c.setPipe pi ((c.pipe pi).land s L ws)

/-- The order in which results that land together are written: the one that stays is written last. -/
def Landing.before (a b : Landing) : Bool :=
  decide (a.issue < b.issue) || (a.issue == b.issue && decide (a.pri ≤ b.pri))

/-- Insert a landing into an ordered list. -/
def insertLanding (x : Landing) : List Landing → List Landing
  | [] => [x]
  | y :: ys => if x.before y && !y.before x then x :: y :: ys else y :: insertLanding x ys

/-- Landings in the order they are written. -/
def sortLandings (ls : List Landing) : List Landing := ls.foldl (fun s x => insertLanding x s) []

/-- The integer flags in FL. -/
def flSet (fl : Pair) (c v n z : Bool) : Pair :=
  BitVec.ofNat 32 (setBits fl.toNat 3 0 (b2n c + b2n v * 2 + b2n n * 4 + b2n z * 8))

/-- Add exact products to an accumulator, clamping each lane to 40 bits; the flag says whether a lane clamped (R139). -/
def Arch.macc (a : Arch) (n : Nat) (zero : Bool) (prods : List Int) : Arch × Bool :=
  (List.range 8).foldl (fun (r : Arch × Bool) j =>
    let x : Int := if zero then 0 else sgn 40 (a.racc n j).toNat
    let y := clamp (-(2 ^ 39)) (2 ^ 39 - 1) (x + prods.getD j 0)
    ({ r.1 with a := tset 0 r.1.a (8 * n + j) (BitVec.ofNat 40 (wrap 40 y.1)) }, r.2 || y.2)) (a, false)

/-- What a landing does to the registers of the context; sticky flags come after every other landing of the cycle. -/
def Arch.landOne (a : Arch) : LWrite → Arch
  | .w n x => { a with w := tset 0 a.w n x }
  | .v n x => { a with v := tset 0 a.v n x }
  | .acc n j x => { a with a := tset 0 a.a (8 * n + j) x }
  | .vmac n z ps => (a.macc n z ps).1
  | .flags c v n z => { a with fl := flSet a.fl c v n z }
  | .stRw m x => { a with st := (a.st &&& ~~~m) ||| (x &&& m) }
  | .fl x => { a with fl := x }
  | .ct x => { a with ct := x }
  | .lk x => { a with lk := x }
  | .creg n x => { a with creg := tset 0 a.creg n x }
  | .eff n x => { a with eff := tset 0 a.eff n x }
  | .edesc n s => { a with edesc := tset {} a.edesc n s }
  | .seg n s => { a with seg := tset {} a.seg n s }
  | _ => a

/-- The sticky flags a landing sets. -/
def Arch.landSticky (a : Arch) : LWrite → Pair
  | .sticky m => m
  | .vmac n z ps => if (a.macc n z ps).2 then 0x10 else 0
  | _ => 0

/-- Whether a TLB entry is one a TLBI selects (R217). -/
def TlbEntry.selected (t : TlbEntry) (scope : Nat) (world : Bool) (asid : BitVec 12) (lin : Nat) : Bool :=
  let k := pteCont t.pte
  let covers := (lin >>> (12 + k)) == (t.vpn.toNat >>> k)
  t.v && t.world == world && (match scope with
    | 0 => true
    | 1 => t.asid == asid && !t.pte.getLsbD 8
    | 2 => covers
    | _ => (t.asid == asid || t.pte.getLsbD 8) && covers)

/-- Whether a walk-cache entry is one a TLBI selects (R217). -/
def WcEntry.selected (t : WcEntry) (scope : Nat) (world : Bool) (asid : BitVec 12) (lin : Nat) : Bool :=
  let path := if t.level = 2 then t.idx == bits lin 41 32 else t.idx == bits lin 41 22
  t.world == world && (match scope with
    | 0 => true
    | 1 => t.asid == asid
    | 2 => path
    | _ => t.asid == asid && path)

/-- What a landing does to the pipeline beside the context's registers; TLBW and TLBI discard the fetch-ahead buffer (R223). An
entry that TLBI invalidates is erased whole, so a later TLBRD of it reads zeros; R217 and R219 leave its fields open. (DESIGN
CHOICE, log entry 96) -/
def Pipe.landOne (p : Pipe) (w : LWrite) : Pipe :=
  let p := { p with arch := p.arch.landOne w }
  match w with
  | .core n x => { p with core := tset 0 p.core n x }
  | .coreEff n x => { p with coreEff := tset 0 p.coreEff n x }
  | .key x => { p with pred := { p.pred with key := x } }
  | .tlbw n t => { p with tlb := tset {} p.tlb n t }.dropFab
  | .tlbi sc w a l =>
    { p with tlb := p.tlb.filter (fun t => !t.2.selected sc w a l), wc := p.wc.filter (fun t => !t.selected sc w a l) }.dropFab
  | _ => p

/-- Land a list of results at once. -/
def Pipe.landAll (p : Pipe) (ls : List Landing) : Pipe :=
  let r := (sortLandings ls).foldl (fun (r : Pipe × Pair) l => (r.1.landOne l.wr, r.2 ||| r.1.arch.landSticky l.wr)) (p, 0)
  { r.1 with arch := { r.1.arch with fl := r.1.arch.fl ||| r.2 } }

/-- The physical address a target stands at, as trace names it. -/
def Target.phys (core : Nat) : Target → Nat
  | .tight off => tightBase + core * 0x1_0000 + off
  | .mem a _ => a
  | .reg a => a

/-- Read an oct for MOVO. -/
def Chip.readTarget (c : Chip) (m : MCtx) (t : Target) (n : Nat) : Chip × Nat :=
  match t with
  | .tight off => (c, c.tightRead m.core off n)
  | .mem a true => c.cachedRead m a n
  | .mem a false => (c, c.rdN m.key a n)
  | .reg _ => (c, 0)

/-- Perform a store. A store the block turns away is lost: it was posted (R240). -/
def Chip.writeTarget (c : Chip) (m : MCtx) (t : Target) (n x : Nat) : Chip :=
  match t with
  | .tight off => c.tightWrite m.core off n x
  | .mem a true => c.cachedWrite m a n x
  | .mem a false => c.memWrite m.key a (toWords n x)
  | .reg a => (c.regStore ⟨c.lowCore m.core, some m.party, m.level⟩ a n x).getD c

/-- Whether an access goes past the caches: to register space, to an uncached page, or for want of a way to fill (R232). -/
def Chip.pastCaches (c : Chip) (e : Env) (t : Target) : Bool :=
  match t with
  | .reg _ | .mem _ false => true
  | .mem a true =>
    let m := c.mctx e.core e.x
    (c.l1Find m false (a / 32)).isNone && !c.l1CanFill m false (a / 32)
  | .tight _ => false

/-- Count an access past the caches (R418). -/
def Chip.countTarget (c : Chip) (e : Env) (t : Target) : Chip := if c.pastCaches e t then c.count e.pi 0x1A 1 else c

/-- The cycles of a stall (R80, R418). -/
def Chip.stallFor (c : Chip) (pi n : Nat) : Chip :=
  let c := (c.count pi 0x04 n).count pi 0x01 n
  c.setPipe pi { c.pipe pi with stalled := (c.pipe pi).stalled + n }

/-- The cycles that an entry or a return has taken a pipeline on by, from one of its cycles (R418). -/
def Chip.countSpan (c : Chip) (pi t : Nat) : Chip := c.count pi 0x01 ((c.pipe pi).cycle - t)

/-- Emit the trace packet of an access, and its trigger (R405, R406, R414). -/
def Chip.traceAccess (c : Chip) (e : Env) (t : Target) (n : Nat) (wr far noval : Bool) (x : Nat) : Chip :=
  let ad := t.phys e.core
  match c.trMatch e.core e.x.party ad wr with
  | none => c
  | some k => (c.emitData e.core e.p e.x k ad (sizeCode n) wr far noval (BitVec.ofNat 128 x)).trTrig e.core k

/-- The trace packet of an access that an enabled range matches, as a landing. -/
def Chip.accessTrace (c : Chip) (e : Env) (t : Target) (n : Nat) (wr : Bool) (x : Nat) : List LWrite :=
  match c.trMatch e.core e.x.party (t.phys e.core) wr with
  | none => []
  | some k => [.tdata k wr (t.phys e.core) (sizeCode n) (BitVec.ofNat 128 x)]

/-- Perform a store in flight: a MOVO first reads its source, for a write two cycles later (R68); its packets, read then write,
follow in the cycle it reads in, the one after its issue (R405, R406). (DEDUCED, log entry 18) (DESIGN CHOICE, log entry 19) -/
def Chip.doStore (c : Chip) (e : Env) (s : PStore) : Chip :=
  let m := { c.mctx e.core e.x with level := e.a.level }
  match s.src with
  | none => c.writeTarget m s.dst s.n s.data.toNat
  | some t =>
    let (c, v) := c.readTarget m t s.n
    let packet (t : Target) (wr : Bool) : List Landing :=
      (c.accessTrace e t s.n wr v).map (fun w => ⟨s.at_ + 1, s.at_, 0, w⟩)
    let p := c.pipe e.pi
    c.setPipe e.pi { p with
      fly := p.fly ++ (packet t false ++ packet s.dst true)
      stores := p.stores ++ [{ s with at_ := s.at_ + 2, src := none, data := BitVec.ofNat 128 v }] }

/-- Emit the packets of loads, and of MOVO reads, whose data is known by now (R406). -/
def Chip.emitLanded (c : Chip) (e : Env) : Chip :=
  let p := c.pipe e.pi
  let due := p.fly.filter (fun l => l.at_ ≤ p.cycle)
  let c := due.foldl (fun c l => match l.wr with
    | .tdata rng wr ad sz x => (c.emitData e.core p e.x rng ad sz wr false false x).trTrig e.core rng
    | _ => c) c
  let p := c.pipe e.pi
  c.setPipe e.pi { p with fly := p.fly.filter (fun l => !(decide (l.at_ ≤ p.cycle) && (match l.wr with
    | .tdata _ _ _ _ _ => true
    | _ => false))) }

/-- Results of the current cycle land, then its stores are performed, in order, and MOVO sources are read (R64, R65, R68). -/
def Chip.landCycle (c : Chip) (e : Env) : Chip :=
  let c := c.emitLanded e
  let p := c.pipe e.pi
  let due := p.fly.filter (fun l => l.at_ ≤ p.cycle)
  let p := { (p.landAll due) with fly := p.fly.filter (fun l => !decide (l.at_ ≤ p.cycle)) }
  let now := p.stores.filter (fun s => s.at_ ≤ p.cycle)
  let c := c.setPipe e.pi { p with stores := p.stores.filter (fun s => !decide (s.at_ ≤ p.cycle)) }
  (now.filter (·.src.isNone) ++ now.filter (·.src.isSome)).foldl (fun c s => c.doStore e s) c

/-! ### Far operations end (R69) -/

/-- A read of a far operation meets a poisoned or uncorrectable quad (R322): a far-operation violation of its bundle, which a
window still issuing takes as its fault at once. (DESIGN CHOICE, log entry 97) -/
def Chip.farFail (c : Chip) (core : Nat) (f : FarOp) : Chip :=
  match c.env? core with
  | none => c
  | some e =>
    if e.p.run != .run then c
    else
      let c := c.emitTarget core e.p e.x 9 Cause.farop.code f.off
      (c.emitPwr core e.p e.x 0).setPipe e.pi { e.p with run := .faulted Cause.farop.code f.off }

/-- A far operation completes: FLD writes the oct to tight memory, FST to QDR; an FLD that reads an uncorrectable quad writes
nothing (R69, R322). -/
def Chip.farEffect (c : Chip) (core : Nat) (f : FarOp) : Chip :=
  if f.wr then c.memWrite f.key f.qaddr (toWords 8 f.data.toNat)
  else if c.memErr f.qaddr 8 core then c.farFail core f
  else c.tightWrite core f.toff 8 (c.rdN f.key f.qaddr 8)

/-- Whether an MBAR of its window orders a far operation before another: it issued before the barrier, the other 4 cycles after
it or later (R242). -/
def Pipe.farBefore (p : Pipe) (f g : FarOp) : Bool := p.farBars.any (fun b => decide (f.issue < b) && decide (b + 4 ≤ g.issue))

/-- The far operations of a pipeline that a test selects complete, in issue order, with those a barrier orders before them. -/
def Chip.farEnd (c : Chip) (core pi : Nat) (f : FarOp → Bool) : Chip :=
  let fs := (c.pipe pi).far
  let p := c.pipe pi
  let sel (g : FarOp) : Bool := f g || fs.any (fun h => f h && p.farBefore g h)
  (fs.filter sel).foldl (fun c q => c.farEffect core q) (c.setPipe pi { p with far := fs.filter (fun q => !sel q) })

/-! ### The end of an issue cycle -/

/-- Whether a pipeline's cycles run: in a window and not stalled. -/
def Pipe.ticks (p : Pipe) : Bool :=
  p.stall.isNone && (match p.run with
    | .run | .ended | .faulted _ _ | .abandoned => true
    | _ => false)

/-- After WEND or a timed fault the core is feathered from the next cycle on: PWR is recorded (R28, R180, R411, R415). An open
window's is recorded at the end of its exit work. (DESIGN CHOICE, log entry 19) -/
def Chip.featherPacket (c : Chip) (e : Env) : Chip :=
  if !e.x.open_ && e.p.issued && e.p.run != .run then c.emitPwr e.core (c.pipe e.pi) e.x 0 else c

/-- The end of an issue cycle: results land, predictor updates that are due are made, far operations whose span ends complete
(R69), and the next cycle begins. (DESIGN CHOICE, log entry 68) -/
def Chip.endCycle (c : Chip) (a : Nat) : Chip :=
  match c.env? a with
  | none => c
  | some e =>
    if !e.p.ticks then c
    else
      let c := if e.p.run == .run then c.count e.pi 0x01 1 else c
      let c := if e.p.issued then c.count e.pi 0x02 1 else c
      let c := (c.landCycle e).farEnd a e.pi (fun f => decide (f.until_ ≤ e.p.cycle + 1))
      let p := c.pipe e.pi
      (c.setPipe e.pi { p with
        pred := p.pred.applyDue p.cycle
        cycle := p.cycle + 1
        issued := false
        gap := p.gap - 1 }).featherPacket e

/-- Whether a landing is a result: what an MTC, TLBW or TLBI makes act later is an effect and none (R76, R183). -/
def LWrite.isResult : LWrite → Bool
  | .eff _ _ | .coreEff _ _ | .tlbw _ _ | .tlbi _ _ _ _ | .key _ | .edesc _ _ | .tdata _ _ _ _ _ => false
  | .stRw m _ => m != 0x20
  | _ => true

/-- The last cycle in which a result in flight lands, stores included; the current one when nothing is in flight (R183). -/
def Pipe.flight (p : Pipe) : Nat :=
  ((p.fly.filter (·.wr.isResult)).map (·.at_)
    ++ p.stores.map (fun s => if s.src.isSome then s.at_ + 2 else s.at_)).foldl Nat.max p.cycle

/-- Land everything in flight, cycle by cycle (R76), with the predictor updates of the branches issued (R167); `k` bounds the
cycles. -/
def Chip.drainN (c : Chip) (e : Env) : Nat → Chip
  | 0 => c
  | k + 1 =>
    let p := c.pipe e.pi
    if p.fly.isEmpty && p.stores.isEmpty then c.setPipe e.pi { p with pred := p.pred.applyAll }
    else
      let c := c.landCycle e
      let p := c.pipe e.pi
      (c.setPipe e.pi { p with cycle := p.cycle + 1 }).drainN e k

/-- Land everything in flight. The longest latency is 34 cycles (R76). -/
def Chip.drain (c : Chip) (e : Env) : Chip := c.drainN e 40

end Sys2Proof.Machine
end

