-- ==== Sys2Proof/Machine/CacheOps.lean ====
section
/-! DEFINITION. The cache line operations and locking (R226, R234, R235), and the clearing of ways (R237, R238). -/

namespace Sys2Proof.Machine

/-- Write a dirty L1D line to L2, and the L2 copy then to memory (DCWB, R234). -/
def Chip.dcwb (c : Chip) (m : MCtx) (line : Nat) : Chip :=
  let c := match c.l1Find m false line with
    | none => c
    | some w =>
      let l := (c.l1 m.core false).slot w (line % 128)
      if !l.holds then c
      else
        let c := c.writeBack m line l.data l.bad
        c.setL1 m.core false ((c.l1 m.core false).setSlot w (line % 128) { l with dirty := false })
  match (c.l2 m.core).find m.l2 1024 line with
  | none => c
  | some w =>
    let l := (c.l2 m.core).slot w (line % 1024)
    if !l.holds then c
    else
      let c := c.lineToMem m.key line l.data l.bad
      c.setL2 m.core ((c.l2 m.core).setSlot w (line % 1024) { l with dirty := false })

/-- Invalidate a line in the party's L2 ways. -/
def Chip.l2Drop (c : Chip) (m : MCtx) (line : Nat) : Chip :=
  match (c.l2 m.core).find m.l2 1024 line with
  | none => c
  | some w => c.setL2 m.core ((c.l2 m.core).setSlot w (line % 1024) {})

/-- DCINV: discard in L1D and L2 (R234). -/
def Chip.dcinv (c : Chip) (m : MCtx) (line : Nat) : Chip := (c.l1Drop m false line).l2Drop m line

/-- Set or clear the lock of a line where it stands. -/
def Chip.setLock (c : Chip) (m : MCtx) (i : Bool) (line : Nat) (b : Bool) : Chip :=
  match c.l1Find m i line with
  | none => c
  | some w =>
    let l := (c.l1 m.core i).slot w (line % 128)
    c.setL1 m.core i ((c.l1 m.core i).setSlot w (line % 128) { l with lock := b })

/-- Whether a way of L1I or L1D of a core is lockable for a party (R235). -/
def Plan.lockable (p : Plan) (core : Nat) (i : Bool) (way party : Nat) : Bool :=
  (p.ctxsOf core).all (fun x => !(bitN (if i then x.l1i else x.l1d) way) || p.ctxParty x == some party)

/-- The ways a context names that are lockable for its party, lowest first. -/
def Chip.lockWays (c : Chip) (m : MCtx) (i : Bool) : List Nat :=
  match c.livePlan with
  | none => []
  | some p => (m.l1 i).filter (fun w => p.lockable m.core i w m.party)

/-- LKSTAT of the core's array set: RESULT, SIDE and NOCACHE (R235). -/
def Chip.lkResult (c : Chip) (core : Nat) (i : Bool) (res nocache : Nat) : Chip :=
  c.setFld (0x020 + c.arrOf core) 0x300 3 0 (res + b2n i * 4 + nocache * 8)

/-- DLOCK and ILOCK (R235). -/
def Chip.lockLine (c : Chip) (m : MCtx) (i : Bool) (line : Nat) : Chip :=
  let s := line % 128
  let k := c.l1 m.core i
  let ways := c.lockWays m i
  let fill (c : Chip) : Chip :=
    match ways.find? (fun w => !((c.l1 m.core i).slot w s).lock) with
    | none => c.lkResult m.core i (if ways.isEmpty then 2 else 3) 0
    | some w =>
      let c := match c.l1Find m i line with
        | none => c
        | some v =>
          let l := (c.l1 m.core i).slot v s
          let c := if l.holds then c.writeBack m line l.data l.bad else c
          c.setL1 m.core i ((c.l1 m.core i).setSlot v s {})
      let (c, d, bad) := c.lineFetch m line
      (c.l1Put m i w line d bad true).lkResult m.core i 0 0
  match k.find (m.l1 i) 128 line with
  | some w =>
    if (k.slot w s).lock then c.lkResult m.core i 1 0
    else if ways.contains w then (c.setLock m i line true).lkResult m.core i 0 0
    else fill c
  | none => fill c

/-- Whether a prefetch acts: in an open window on a cached line, unless a load of the word would raise a cause, an
uncorrectable error of its quad included (R226, R234). -/
def Chip.prefetches (c : Chip) (e : Env) (o : CacheArg) : Bool :=
  let m := c.mctx e.core e.x
  e.x.open_ && (match c.check e.core e.p e.x e.done { cacheWant e.a .prefd o with line := false } with
    | .ok (.mem ad true) =>
      (c.l1Find m false (ad / 32)).isSome || !badIn (c.lineFetch m (ad / 32)).2.2 (ad % 32) 1
    | _ => false)

/-- A cache line operation whose checks have passed (R226, R234). -/
def Chip.cacheAct (c : Chip) (e : Env) (fn : CacheFn) (o : CacheArg) : Chip :=
  let m := c.mctx e.core e.x
  match c.check e.core e.p e.x e.done (cacheWant e.a fn o) with
  | .error _ => c
  | .ok (.mem ad _) =>
    let line := ad / 32
    match fn with
    | .prefd =>
      if c.prefetches e o && (c.l1Find m false line).isNone && c.l1CanFill m false line then c.l1Fill m false line else c
    | .prefi =>
      if c.prefetches e o && (c.l1Find m true line).isNone && c.l1CanFill m true line then c.l1Fill m true line else c
    | .pref2 => if c.prefetches e o then (c.lineFetch m line).1 else c
    | .dcwb => c.dcwb m line
    | .dcinv => c.dcinv m line
    | .dcwbi => (c.dcwb m line).dcinv m line
    | .icinv => c.l1Drop m true line
    | .dlock => c.lockLine m false line
    | .ilock => c.lockLine m true line
    | .dunlk => c.setLock m false line false
    | .iunlk => c.setLock m true line false
  | .ok _ =>
    match fn with
    | .dlock => c.lkResult e.core false 2 1
    | .ilock => c.lkResult e.core true 2 1
    | _ => c

/-! ### Exit actions and clearing (R237, R238) -/

/-- Slots of L1 in the ways a context names, as (way, set) pairs. -/
def l1Slots (ws : List Nat) : List (Nat × Nat) := ws.flatMap (fun w => (List.range 128).map (fun s => (w, s)))

/-- XL1I or XL1D: invalidate the unlocked lines of the named ways, discarding dirty data (R237). -/
def Cache.exitInv (k : Cache) (ws : List Nat) (sets : Nat) : Cache :=
  { k with lines := k.lines.filter (fun e => !(ws.contains (e.1 / 4096) && decide (e.1 % 4096 < sets) && !e.2.lock)) }

/-- The slots of a cache that a test on way and line selects. -/
def Cache.slotsWhere (k : Cache) (f : Nat → Line → Bool) : List (Nat × Nat) :=
  (k.lines.filter (fun e => f (e.1 / 4096) e.2)).map (fun e => (e.1 / 4096, e.1 % 4096))

/-- XWB: write back and invalidate each dirty unlocked line of the named ways (R237). -/
def Chip.exitWb (c : Chip) (m : MCtx) : Chip :=
  ((c.l1 m.core false).slotsWhere (fun w l => m.l1d.contains w && l.holds && !l.lock)).foldl (fun c q =>
    let l := (c.l1 m.core false).slot q.1 q.2
    let c := c.writeBack m l.line l.data l.bad
    c.setL1 m.core false ((c.l1 m.core false).setSlot q.1 q.2 {})) c

/-- The key of the world that owns an address, for write-backs that no context makes. -/
def Chip.ownerKey (c : Chip) (a : Nat) : Nat :=
  match c.memOwner a with
  | some q => worldKey (c.worldOf q)
  | none => 0

/-- A line that a clearing writes to memory; the higher eight of a swing pair sends nothing itself (R238, R264). -/
def Chip.clearOut (c : Chip) (core : Nat) (l : Line) : Chip :=
  if c.swingHigh core then c else c.lineToMem (c.ownerKey (32 * l.line)) l.line l.data l.bad

/-- Clear one slot of L1D: a dirty line updates the copy in L2 that any way holds, or goes to memory (R238). -/
def Chip.clearL1D (c : Chip) (core way set_ : Nat) : Chip :=
  let l := (c.l1 core false).slot way set_
  let c := if !l.holds then c
    else match (c.l2 core).find (List.range 16) 1024 l.line with
      | some w =>
        let k := c.l2 core
        c.setL2 core (k.setSlot w (l.line % 1024)
          { k.slot w (l.line % 1024) with data := l.data, dirty := true, bad := l.bad })
      | none => c.clearOut core l
  c.setL1 core false ((c.l1 core false).setSlot way set_ {})

/-- Clear L1 ways of a core (R238). -/
def Chip.clearL1 (c : Chip) (core : Nat) (iw dw : List Nat) : Chip :=
  let c := ((c.l1 core false).slotsWhere (fun w _ => dw.contains w)).foldl (fun c q => c.clearL1D core q.1 q.2) c
  ((c.l1 core true).slotsWhere (fun w _ => iw.contains w)).foldl
    (fun c q => c.setL1 core true ((c.l1 core true).setSlot q.1 q.2 {})) c

/-- Clear L2 ways of an eight: dirty lines go to memory (R238). -/
def Chip.clearL2 (c : Chip) (e : Nat) (ws : List Nat) : Chip :=
  ((c.eight e).l2.slotsWhere (fun w _ => ws.contains w)).foldl (fun c q =>
    let l := (c.eight e).l2.slot q.1 q.2
    let c := if l.holds then c.clearOut (8 * e) l else c
    c.setEight e { c.eight e with l2 := (c.eight e).l2.setSlot q.1 q.2 {} }) c

end Sys2Proof.Machine
end

