-- ==== Sys2Proof/Machine/Exceptions.lean ====
section
/-! DEFINITION. Exception entry, the push and its checks, the crab handler and the crab return (R181 to R185, R190 to R194). -/

namespace Sys2Proof.Machine

/-! ### The frame (R184, R185) -/

/-- The handling level of a cause (R181). Here and below `b` holds the registers as the entry or return begins: what an MTC of
the cycle before has written does not act on it (R196). -/
def handlingLevel (a b : Arch) (k : Cause) : Nat :=
  Nat.max a.level (if bitN (b.acting 0x2C) k.routeBit then 2 else 1)

/-- The frame of a cause at a boundary. -/
def frameOf (a : Arch) (r : Raised) : List Word :=
  let rep := match a.rep with
    | some q => if q.repi then none else some q
    | none => none
  let br := match a.br with
    | some b => (b.left, b.target.toNat)
    | none => (0, 0)
  let dsn := if r.cause == .intr then 0 else br.1
  let slot := if r.cause == .intr then 0 else r.slot.order
  let cause := r.cause.code + slot * 64 + dsn * 256 + b2n rep.isSome * 1024
  toWords 2 a.pc.toNat
  ++ [BitVec.ofNat 16 (bits a.st.toNat 8 0), (a.segr 0).sel, BitVec.ofNat 16 cause,
      BitVec.ofNat 16 ((rep.map Repeat.k).getD 0)]
  ++ toWords 2 (if dsn = 0 then 0 else br.2)
  ++ toWords 2 r.addr ++ [BitVec.ofNat 16 r.info, 0]
  ++ toWords 2 a.fl.toNat ++ [0, 0]

/-- A word of a frame. -/
def frameW (f : List Word) (i : Nat) : Nat := (f.getD i 0).toNat

/-- A pair of a frame. -/
def frameP (f : List Word) (i : Nat) : Pair := BitVec.ofNat 32 (frameW f i + frameW f (i + 1) * 2 ^ 16)

/-! ### The push (R182) -/

/-- A stack pointer with the segment it works in. -/
structure Stack where
  seg : SegReg
  sp  : Nat
  deriving DecidableEq, Repr

/-- The stack held in STKS (1) or STKM (2). -/
def Arch.stk (a : Arch) (h : Nat) : Stack :=
  let v := a.acting (0x24 + (h - 1))
  ⟨{ tget {} a.edesc (0x24 + (h - 1)) with sel := BitVec.ofNat 16 (bits v 31 16) }, bits v 15 0⟩

/-- W62. -/
def Arch.w62 (a : Arch) : Nat := (a.rw 62).toNat

/-- The candidate stack of an entry at level `h`. -/
def Arch.candidate (a b : Arch) (h : Nat) : Stack := if h = a.level then ⟨a.segr 2, a.w62⟩ else b.stk h

/-- Where a stack word goes, or the crab reason of the first check it fails: TLBMISS, PROT, BUS. -/
def Chip.stackWord (c : Chip) (core : Nat) (p : Pipe) (x : RunCtx) (s : SegReg) (h off : Nat) : Except Nat Target :=
  let lin := (descBase s.raw + off) % 2 ^ 42
  let tr : Except Nat (Nat × Bool) :=
    if !descPg s.raw then .ok (lin % 2 ^ 36, false)
    else match p.tlbFind x.world p.asidEff lin with
      | none => .error 5
      | some e => if h < pteLvl e.pte || !e.pte.getLsbD 2 then .error 6 else .ok (e.phys lin, e.pte.getLsbD 13)
  match tr with
  | .error r => .error r
  | .ok (addr, uc) => match c.region core p x addr 1 false uc with
    | some (.reg _) | none => .error 7
    | some t => .ok t

/-- The outcome of the checks that need no stack write: the crab reason with the offset it names, or the targets of the 16
words, none where the word is outside the regions of the BUS check, which its write meets (R182, R183, R190). -/
def Chip.pushCheck (c : Chip) (core : Nat) (p : Pipe) (b : Arch) (x : RunCtx) (h : Nat) :
    Except (Nat × Nat) (List (Option Target)) :=
  let k := p.arch.candidate b h
  let base := k.sp - 16
  if k.sp % 4 ≠ 0 then .error (1, p.arch.w62)
  else if k.sp < 16 then .error (2, p.arch.w62)
  else if bits k.seg.sel.toNat 12 0 = 0 || !k.seg.valid || !descW k.seg.raw || descWorld k.seg.raw != x.world then
    .error (3, base)
  else if descLimit k.seg.raw < base + 15 then .error (4, Nat.max base (descLimit k.seg.raw + 1))
  else
    let rs := (List.range 16).map (fun i => (base + i, c.stackWord core p x k.seg h (base + i)))
    let fails (n : Nat) : Option Nat := (rs.find? (fun r => match r.2 with
      | .error m => m == n
      | .ok _ => false)).map Prod.fst
    match fails 5, fails 6 with
    | some o, _ => .error (5, o)
    | none, some o => .error (6, o)
    | none, none => .ok (rs.map (fun r => r.2.toOption))

/-- Fill the line of L1D that a cacheable target of four words misses or must refetch: the chip, and whether the fill has met
an uncorrectable quad anywhere in the line (R182). -/
def Chip.fillFor (c : Chip) (e : Env) (t : Target) : Chip × Bool :=
  match t with
  | .mem a true =>
    if c.lineMissing e a 4 then
      let c := c.refill e (a / 32)
      (c, match c.l1Find (c.mctx e.core e.x) false (a / 32) with
        | some w => ((c.l1 e.core false).slot w (a / 32 % 128)).bad != 0
        | none => false)
    else (c, false)
  | _ => (c, false)

/-- Whether a stack write of `n` words meets an uncorrectable error, in tight memory or in a line of L1D (R182). -/
def Chip.writeErr (c : Chip) (e : Env) (t : Target) (n : Nat) : Bool :=
  match t with
  | .tight off => c.tightErr e.core off n
  | .mem a true => (c.l1Find (c.mctx e.core e.x) false (a / 32)).isSome && c.cachedBad (c.mctx e.core e.x) a n
  | _ => false

/-- The check of one quad of an oct, from word `j` of the frame: the chip with its line filled, and the word that meets an
error. -/
def Chip.quadCheck (c : Chip) (e : Env) (t : Nat → Target) (j : Nat) : Chip × Option Nat :=
  match c.fillFor e (t j) with
  | (c, true) => (c, some j)
  | (c, false) => (c, ((List.range 4).map (· + j)).find? (fun i => c.writeErr e (t i) 1))

/-- One oct of the push, words `i` to `i + 7` of the frame, as an ordinary store for the caches: the chip, and the crab reason
7 or 8 with the word that met it, where nothing of the oct is written (R182, R183, R190). Its two quads are each whole in one
line and one page. The octs are checked and written in turn, so an ECC error of the first comes before a BUS failure of the
second, which stands earlier in the table of R182. (DESIGN CHOICE, log entry 96) -/
def Chip.pushOct (c : Chip) (e : Env) (ts : List (Option Target)) (f : List Word) (i : Nat) : Chip × Option (Nat × Nat) :=
  match ((List.range 8).map (· + i)).find? (fun j => (ts.getD j none).isNone) with
  | some j => (c, some (7, j))
  | none =>
    let at_ (j : Nat) : Target := (ts.getD j none).getD (.reg 0)
    let (c, b1) := c.quadCheck e at_ i
    let (c, b2) := c.quadCheck e at_ (i + 4)
    match b1.or b2 with
    | some j =>
      ((match at_ j with
        | .tight off => c.logError e.core 0 off
        | .mem a _ => c.eccLine { e with done := [] } a
        | _ => c), some (8, j))
    | none =>
      let m := c.mctx e.core e.x
      (((c.writeTarget m (at_ i) 4 (ofWords ((f.drop i).take 4))).writeTarget m (at_ (i + 4)) 4
        (ofWords ((f.drop (i + 4)).take 4))).countTarget e (at_ i), none)

/-! ### Entry (R183, R190, R193) -/

/-- A fault in the crab handler: the core halts at once and operations in flight are abandoned (R193). -/
def Chip.crabFault (c : Chip) (e : Env) : Chip :=
  let p := c.pipe e.pi
  (c.setPipe e.pi { p with run := .halted, fly := [], stores := [], pend := none, stall := none }).emitPwr e.core p e.x 1

/-- Write a word register. -/
def Arch.setW (a : Arch) (n x : Nat) : Arch := { a with w := tset 0 a.w n (BitVec.ofNat 16 x) }

/-- Write a segment register. -/
def Arch.setSeg (a : Arch) (n : Nat) (s : SegReg) : Arch := { a with seg := tset {} a.seg n s }

/-- Write a control register, as read and as acted on. -/
def Arch.setCreg (a : Arch) (n x : Nat) : Arch :=
  { a with creg := tset 0 a.creg n (BitVec.ofNat 32 x), eff := tset 0 a.eff n (BitVec.ofNat 32 x) }

/-- Write the descriptor held with a selector in a control register. -/
def Arch.setEdesc (a : Arch) (n : Nat) (s : SegReg) : Arch := { a with edesc := tset {} a.edesc n s }

/-- Write ST, with RM and FZ acting. -/
def Arch.setSt (a : Arch) (x : Nat) : Arch :=
  { a with st := BitVec.ofNat 32 x, eff := tset 0 a.eff 0 (BitVec.ofNat 32 x) }

/-- ST with LEVEL, IE, RM and FZ taken from an SST word. -/
def Arch.fromSst (a : Arch) (sst : Nat) : Arch :=
  let st := a.st.toNat
  let st := setBits (setBits st 1 0 sst) 4 4 (bits sst 4 4)
  a.setSt (setBits (setBits st 7 6 (bits sst 7 6)) 8 8 (bits sst 8 8))

/-- (SSG, W62) and STK of a level exchange contents, selectors and captured descriptors together. -/
def Arch.exchange (a b : Arch) (h : Nat) : Arch :=
  let k := b.stk h
  let a' := (a.setCreg (0x24 + (h - 1)) (a.w62 + (a.segr 2).sel.toNat * 2 ^ 16)).setEdesc (0x24 + (h - 1)) (a.segr 2)
  (a'.setSeg 2 k.seg).setW 62 k.sp

/-- Whether `n` words from a region offset lie in the context's tight-memory region. -/
def RunCtx.inCrab (x : RunCtx) (off n : Nat) : Bool := decide (off + n ≤ x.tmSize * 64)

/-- Crab entry with a reason, the offset it names and the cycle in which the check or write failed (R190, R191). The crab area
stands at a multiple of 8: low bits of CRABBASE do not act (R61, R196). (DESIGN CHOICE, log entry 78) A CRABSTK that is no
multiple of 4 is the crab stack pointer as it stands. (DESIGN CHOICE, log entry 96) -/
def Chip.crabEnter (c : Chip) (e : Env) (f : List Word) (h reason caddr cycle : Nat) : Chip :=
  let p := c.pipe e.pi
  let a := p.arch
  let base := e.a.acting 0x2D / 8 * 8
  let stk := e.a.acting 0x2E
  let at_ := e.x.tmBase * 64 + base
  if !e.x.inCrab base 8 || stk < 8 || e.x.tmSize * 64 ≤ stk then c.crabFault e
  else if c.tightErr e.core at_ 8 then (c.logError e.core 0 at_).crabFault e
  else
    let cstat := bits (frameW f 4) 5 0 + reason * 64 + h * 1024
    let mini := f.take 3 ++ [BitVec.ofNat 16 a.w62, BitVec.ofNat 16 cstat, (a.candidate e.a h).seg.sel] ++ toWords 2 caddr
    let c := c.tightWrite e.core at_ 8 (ofWords mini)
    let cs := (tget 0 a.creg 0x2F).toNat
    let cnt := Nat.min 0xFFFF (bits cs 31 16 + 1)
    let a := (a.setCreg 0x2F (1 + cnt * 2 ^ 16)).setSt (setBits (setBits a.st.toNat 4 4 0) 1 0 2)
    let a := { (a.setW 62 stk) with pc := BitVec.ofNat 32 (base + 8), hold := f, br := none, rep := none, reissue := none }
    let p := { p with arch := a, pend := none, cycle := cycle + 4, issued := false, gap := 0 }
    let c := (c.setPipe e.pi p).count e.pi 0x10 1
    c.emitTarget e.core p e.x 7 (bits (frameW f 4) 5 0) (base + 8)

/-- A held descriptor as an event at a level captures it: as invalid where the level is below its LLVL (R202, R203). The level
is the one the core runs at once the transfer is made. (DEDUCED, log entry 98) -/
def SegReg.atLevel (s : SegReg) (lv : Nat) : SegReg := { s with valid := s.valid && decide (descLlvl s.raw ≤ lv) }

/-- The handler of an entry at level `h` whose push has succeeded: steps 4 to 8 of R183. -/
def Chip.enterHandler (c : Chip) (e : Env) (code h t : Nat) : Chip :=
  let p := c.pipe e.pi
  let a := if p.arch.level < h then p.arch.exchange e.a h else p.arch
  let a := a.setW 62 (a.w62 + 2 ^ 16 - 16)
  let a := a.setSt (setBits (setBits a.st.toNat 4 4 0) 1 0 h)
  let vec := { tget {} e.a.edesc (0x20 + (h - 1)) with sel := BitVec.ofNat 16 (e.a.acting (0x20 + (h - 1))) }
  let a := { (a.setSeg 0 (vec.atLevel h)) with
    pc := BitVec.ofNat 32 (code * 0x20), br := none, rep := none, reissue := none, hold := [] }
  let p := { p with arch := a, pend := none, cycle := t + 6, issued := false, gap := 0 }
  let c := (c.setPipe e.pi p).count e.pi (if code = 0x20 then 0x0E else 0x0F) 1
  c.emitTarget e.core p e.x 6 code (code * 0x20)

/-- Entry from step 2 on: the checks of the push in cycle `t + 1`, the writes in `t + 2` and `t + 3`, then the handler, or the
crab handler; an oct written before a failure stays written (R183, R190). -/
def Chip.enterFrom (c : Chip) (e : Env) (f : List Word) (h t : Nat) : Chip :=
  let p := c.pipe e.pi
  let off (i : Nat) : Nat := (p.arch.candidate e.a h).sp - 16 + i
  match c.pushCheck e.core p e.a e.x h with
  | .error (reason, o) => c.crabEnter e f h reason o (t + 1)
  | .ok ts =>
    match c.pushOct e ts f 0 with
    | (c, some (reason, i)) => c.crabEnter e f h reason (off i) (t + 2)
    | (c, none) =>
      match c.pushOct e ts f 8 with
      | (c, some (reason, i)) => c.crabEnter e f h reason (off i) (t + 3)
      | (c, none) => c.enterHandler e (bits (frameW f 4) 5 0) h t

/-- Whether the hub's request line of an architectural core is high (R276, R277). -/
def Chip.hubLine (c : Chip) (core : Nat) : Bool := (tget {} c.hub.slices (c.lowCore core)).line

/-- Whether a boundary that R75 allows lies before the next bundle. -/
def Pipe.atBoundary (p : Pipe) : Bool :=
  p.arch.br.isNone && p.arch.reissue.isNone && p.stall.isNone && p.pend.isNone
  && (match p.arch.rep with
      | some r => r.repi
      | none => true)

/-- Whether an interrupt is taken now: the boundary after a bundle comes at the end of its cycle (R71, R75, R190). -/
def Chip.takesIntr (c : Chip) (e : Env) : Bool :=
  e.x.open_ && e.p.run == .run && !e.p.issued && e.p.atBoundary && e.a.ie && !e.a.crab && c.hubLine e.core

/-- Exception entry of the cause held, or of an interrupt at a boundary (R183). -/
def Chip.exceptionEntry (c : Chip) (core : Nat) : Chip :=
  let c := c.atCode core
  match c.env? core with
  | none => c
  | some e =>
    let go (r : Raised) : Chip :=
      let t := e.p.flight
      let c := c.drain e
      let a := (c.pipe e.pi).arch
      (c.enterFrom e (frameOf a r) (handlingLevel a e.a r.cause) t).countSpan e.pi e.p.cycle
    match e.p.pend with
    | some r => if e.p.run == .run then go r else c
    | none => if c.takesIntr e then go (plainRaise .intr .a) else c

/-! ### The crab return (R192) -/

/-- The repeat and delay-slot state a frame records, with the offset it resumes at (R77, R186). An RPC or BTARGET that a
handler has edited acts as the multiple of 8 below it, which a program counter is (R61). (DESIGN CHOICE, log entry 78) -/
def Arch.resume (a : Arch) (pc : Pair) (f : List Word) : Arch :=
  let cause := frameW f 4
  let k := frameW f 5
  let dsn := bits cause 9 8
  let pc8 := BitVec.ofNat 32 (pc.toNat / 8 * 8)
  let to_ := BitVec.ofNat 32 ((frameP f 6).toNat / 8 * 8)
  let a := { a with pc := pc8, br := if dsn = 0 then none else some ⟨to_, dsn, 0⟩, rep := none }
  if !bitN cause 10 then a
  else if k = 0 then { a with pc := pc8 + 16 }
  else { a with rep := some ⟨false, k⟩ }

/-- The place of the minimal frame in the core's tight memory, if the crab area lies in the region (R192). -/
def Env.crabArea (e : Env) : Option Nat :=
  let base := e.a.acting 0x2D / 8 * 8
  if e.x.inCrab base 8 then some (e.x.tmBase * 64 + base) else none

/-- The minimal frame as a crab return reads it; none where the return is a fault in the crab handler: its area outside the
region, an uncorrectable word, or ACTION 3 (R192, R193). -/
def Chip.miniFrame (c : Chip) (e : Env) : Option (List Word) :=
  match e.crabArea with
  | none => none
  | some at_ =>
    let f := toWords 8 (c.tightRead e.core at_ 8)
    if c.tightErr e.core at_ 8 || bits (frameW f 4) 13 12 == 3 then none else some f

/-- A crab return that is a fault in the crab handler; an uncorrectable word of the minimal frame is logged (R193, R247). -/
def Chip.crabNoReturn (c : Chip) (e : Env) : Chip :=
  match e.crabArea with
  | some at_ => (if c.tightErr e.core at_ 8 then c.logError e.core 0 at_ else c).crabFault e
  | none => c.crabFault e

/-- The crab return with its minimal frame: retry, resume or abandon (R192). `t` is the cycle of the ERET. The level an edited
SST names is taken as it stands, 3 included. (DESIGN CHOICE, log entry 96) -/
def Chip.crabReturn (c : Chip) (e : Env) (mini : List Word) (t : Nat) : Chip :=
  let p := c.pipe e.pi
  let a := p.arch
  let cstat := frameW mini 4
  let cs := (tget 0 a.creg 0x2F).toNat
  let clear (a : Arch) : Arch := a.setCreg 0x2F (setBits cs 0 0 0)
  match bits cstat 13 12 with
  | 0 =>
    let a := clear ((a.setW 62 (frameW mini 3)).setSt (setBits a.st.toNat 1 0 (frameW mini 2)))
    (c.setPipe e.pi { p with arch := a }).enterFrom e a.hold (bits cstat 11 10) t
  | 1 =>
    let a := clear ((a.setW 62 (frameW mini 3)).fromSst (frameW mini 2))
    let a := { a.resume (frameP mini 0) a.hold with hold := [] }
    let p := { p with arch := a, cycle := t + 8, issued := false, gap := 0 }
    (c.setPipe e.pi p).emitTarget e.core p e.x 3 0 a.bundlePc
  | _ => c.setPipe e.pi { p with run := .abandoned }

end Sys2Proof.Machine
end

