-- ==== Sys2Proof/Machine/Execute.lean ====
section
/-! DEFINITION. What each operation does when its bundle acts, and the issue of bundles and single operations (R61 to R128,
R186 to R189, R213 to R222). -/

namespace Sys2Proof.Machine

/-! ### Control registers (R119, R196, R227) -/

/-- The key of WSTL or WSTH of a world in the per-core registers. -/
def wstKey (n : Nat) (world : Bool) : Nat := n + 0x100 * b2n world

/-- What MFC reads (the PSTAT fields are those of the context tag). -/
def cregRead (e : Env) (n : Nat) : Nat :=
  if n = 0 then e.a.st.toNat
  else if n = 1 then e.a.fl.toNat
  else if n = 2 then e.a.ct.toNat
  else if n = 3 then e.a.lk.toNat
  else if n = 0x40 ∨ n = 0x41 then (tget 0 e.p.core (wstKey n e.x.world)).toNat
  else if 0x48 ≤ n ∧ n ≤ 0x4B then (tget 0 e.p.core n).toNat
  else if n = 0x4C ∨ n = 0x4D ∨ n = 0x60 ∨ n = 0x61 then 0
  else if n = 0x63 then bits e.a.st.toNat 5 5 + e.a.level * 2 + b2n e.x.world * 8 + e.x.ctx * 16
  else (tget 0 e.a.creg n).toNat

/-- The writable bits of a control register. -/
def cregMask (n : Nat) : Nat :=
  match n with
  | 0x01 => 0x1F1F
  | 0x14 => 0x7FFF
  | 0x20 | 0x21 | 0x2A | 0x2B | 0x2D | 0x2E => 0xFFFF
  | 0x22 | 0x23 | 0x26 | 0x27 | 0x40 | 0x42 => 0xFFFF_FFF8
  | 0x28 | 0x29 => 0x1FF
  | 0x2C => 0x1FFF
  | 0x41 | 0x43 => 0x3_FFFF
  | 0x44 => 0xFFFF_F000
  | 0x45 => 0x8000_000F
  | 0x46 => 0xFFF
  | 0x48 => 0x3FFF_FFFF
  | 0x49 => 0x8FFF
  | 0x62 => 7
  | 0x02 | 0x03 | 0x12 | 0x13 | 0x24 | 0x25 | 0x4A | 0x4B => 0xFFFF_FFFF
  | _ => 0

/-- ST as an MTC leaves it at the running level: IE, RM and FZ; at user level IE stays (R71). -/
def stMask (level : Nat) : Nat := (if level = 0 then 0 else 0x10) + 0x1C0

/-- The value a control register takes from an MTC: masked, with the read-only bits kept. -/
def cregNew (e : Env) (n x : Nat) : Nat :=
  let m := cregMask n
  (x &&& m) ||| (cregRead e n &&& (0xFFFF_FFFF ^^^ m))

/-- The writes of an MTC by latency. -/
def mtcWrites (e : Env) (n x : Nat) : List (Nat × List LWrite) :=
  let v := BitVec.ofNat 32 (cregNew e n x)
  if n = 0 then
    let m := BitVec.ofNat 32 (stMask e.a.level)
    [(1, [.stRw m (BitVec.ofNat 32 x)]),
     (2, [.eff 0 (BitVec.ofNat 32 (setBits (e.a.acting 0) 8 6 (bits x 8 6)))])]
  else if n = 1 then [(1, [.fl v])]
  else if n = 2 then [(1, [.ct v])]
  else if n = 3 then [(1, [.lk v])]
  else if n = 0x40 ∨ n = 0x41 then [(1, [.core (wstKey n e.x.world) v]), (2, [.coreEff (wstKey n e.x.world) v])]
  else if 0x48 ≤ n ∧ n ≤ 0x4B then [(1, [.core n v])]
  else if n = 0x46 then [(1, [.creg n v]), (3, [.eff n v])]
  else if n = 0x62 then
    let on := BitVec.ofNat 32 (b2n (e.x.predOn && x % 8 != 0) * 32)
    [(1, [.creg n v]), (2, [.eff n v, .stRw 0x20 on])]
  else if n = 0x60 then [(1, [.creg n (BitVec.ofNat 32 x)])]
  else if cregMask n = 0 then []
  else [(1, [.creg n v]), (2, [.eff n v])]

/-- Land a list of writes by latency. -/
def Chip.landMany (c : Chip) (pi : Nat) (s : Slot) (ws : List (Nat × List LWrite)) : Chip :=
  ws.foldl (fun c w => c.land pi s w.1 w.2) c

/-- MFC (R119). -/
def Chip.actMfc (c : Chip) (e : Env) (n xr : Nat) : Chip := c.land e.pi .b 1 (wrReg .pair xr (cregRead e n))

/-- MTC to a plain register (R119). -/
def Chip.actMtcPlain (c : Chip) (e : Env) (n xr : Nat) : Chip := c.landMany e.pi .b (mtcWrites e n (e.a.rx xr))

/-- MTC to a register that holds a selector captures the descriptor with it (R189). -/
def Chip.actMtcSelector (c : Chip) (e : Env) (n xr : Nat) : Chip :=
  match mtcSelector e.a n xr with
  | none => c
  | some (sel, _) =>
    let (c, s, _) := c.capture e.core e.p e.x e.a.level sel
    (c.landMany e.pi .b (mtcWrites e n (e.a.rx xr))).land e.pi .b 2 [.edesc n s]

/-- PKEYH commits the key with the staged PKEYL, and flushes as PFLUSH SCOPE 0 (R166). -/
def Chip.actPkeyh (c : Chip) (e : Env) (xr : Nat) : Chip :=
  let k := BitVec.ofNat 64 ((tget 0 e.a.creg 0x60).toNat + e.a.rx xr * 2 ^ 32)
  let p := c.pipe e.pi
  (c.setPipe e.pi { p with pred := p.pred.flush p.cycle e.x.world e.x.ctx false }).land e.pi .b 2 [.key k]

/-- TLBRD copies an entry into the four staging registers; one of the other world reads as zeros (R219), and so does every
entry in a timed window of a party other than the one that loaded them (R218). V of the entry comes back as VALID and as
PTE.V. -/
def Chip.actTlbrd (c : Chip) (e : Env) (xr : Nat) : Chip :=
  let t := tget {} e.p.tlb (bits (e.a.rx xr) 6 0)
  let mine := t.world == e.x.world && (e.x.open_ || e.p.lastOpen == some e.x.party)
  let tag := t.asid.toNat + b2n t.world * 2 ^ 12 + b2n t.v * 2 ^ 15
  let v (n : Nat) : Pair := if mine then BitVec.ofNat 32 n else 0
  let pte := t.pte.toNat + b2n t.v
  c.land e.pi .b 2 [.core 0x48 (v t.vpn.toNat), .core 0x49 (v tag), .core 0x4A (v pte), .core 0x4B (v (pte / 2 ^ 32))]

/-- WCCTL.INV drops the walk-cache entries of the current world (R222). -/
def Chip.actWcctl (c : Chip) (e : Env) (xr : Nat) : Chip :=
  let p := c.pipe e.pi
  if bitN (e.a.rx xr) 0 then c.setPipe e.pi { p with wc := p.wc.filter (fun w => w.world != e.x.world) } else c

/-- MTC by its register (R119). -/
def Chip.actMtc (c : Chip) (e : Env) (n xr : Nat) : Chip :=
  if (mtcSelector e.a n xr).isSome then c.actMtcSelector e n xr
  else if n = 0x61 then c.actPkeyh e xr
  else if n = 0x4C then c.actTlbrd e xr
  else if n = 0x4D then c.actWcctl e xr
  else c.actMtcPlain e n xr

/-! ### Loads, stores and moves (R104 to R109) -/

/-- The outcome of the checks of an access that raised nothing. -/
def Chip.goesTo (c : Chip) (e : Env) (q : Want) : Option Target := (c.check e.core e.p e.x e.done q).toOption

/-- LDW to LDO (R104). -/
def Chip.actLoad (c : Chip) (e : Env) (o : LmOp) : Chip :=
  let n := o.sz.words
  match (opWants e.a (.load o)).head?.bind (c.goesTo e) with
  | none => c
  | some t =>
    let r := match t with
      | .reg _ => (c, e.reply.getD 0)
      | _ => c.readTarget (c.mctx e.core e.x) t n
    let c := r.1.countTarget e t
    (c.land e.pi .l 1 (lmUpdate e.a o)).land e.pi .l (loadTime t n) (lmTarget o r.2 ++ c.accessTrace e t n false r.2)

/-- STW to STO (R104): the data is read at issue and written at the end of the next cycle (R68). -/
def Chip.actStore (c : Chip) (e : Env) (o : LmOp) : Chip :=
  let n := o.sz.words
  match (opWants e.a (.store o)).head?.bind (c.goesTo e) with
  | none => c
  | some t =>
    let x := lmSource e.a o
    let c := (c.countTarget e t).traceAccess e t n true false false x
    let p := c.pipe e.pi
    let c := c.setPipe e.pi { p with stores := p.stores ++ [⟨p.cycle + 1, t, n, BitVec.ofNat 128 x, none⟩] }
    c.land e.pi .l 1 (lmUpdate e.a o)

/-- MOVO (R68, R106). -/
def Chip.actMovo (c : Chip) (e : Env) (o : MovoOp) : Chip :=
  match opWants e.a (.movo o) with
  | [qs, qd] =>
    match c.goesTo e qs, c.goesTo e qd with
    | some ts, some td =>
      let p := c.pipe e.pi
      let c := c.setPipe e.pi { p with stores := p.stores ++ [⟨p.cycle, td, 8, 0, some ts⟩] }
      let c := (c.countTarget e ts).countTarget e td
      if o.inc then c.land e.pi .l 1 (wrReg .pair o.xs (e.a.rx o.xs + 8) ++ wrReg .pair o.xd (e.a.rx o.xd + 8)) else c
    | _, _ => c
  | _ => c

/-- The first cycle after the last granule of the ACCESS entry that a far operation issues in (R69). -/
def Env.farUntil (e : Env) (ch : Nat) (wr : Bool) : Nat :=
  match e.access ch wr with
  | some q => (q.first + q.span) * 16
  | none => e.p.cycle

/-- FLD (R69, R107). With U set and WT a word of XQ, two results of one operation land on a word in one cycle, which R65 does
not order; the later of the operation's list stays, here and in every operation: WT here, XD in a MOVO, WR in a TWALK's YA.
(DESIGN CHOICE, log entry 96) -/
def Chip.actFld (c : Chip) (e : Env) (o : FldOp) : Chip :=
  match c.farAddr e o.segq (e.a.rx o.xq) o.ch false with
  | none => c
  | some ad =>
    let c := (c.count e.pi 0x11 1).traceAccess e (.mem ad false) 8 false true true 0
    let p := c.pipe e.pi
    let c := c.setPipe e.pi { p with far := p.far ++ [⟨false, worldKey e.x.world, ad, fldTight e o.wt, 0, p.cycle,
      e.farUntil o.ch false, e.pc⟩] }
    if o.u then c.land e.pi .l 1 (wrReg .pair o.xq (e.a.rx o.xq + 8) ++ wrReg .word o.wt ((e.a.rw o.wt).toNat + 8)) else c

/-- FST (R69, R107). -/
def Chip.actFst (c : Chip) (e : Env) (o : FstOp) : Chip :=
  match c.farAddr e o.segq (e.a.rx o.xq) o.ch true with
  | none => c
  | some ad =>
    let c := (c.count e.pi 0x11 1).traceAccess e (.mem ad false) 8 true true false (e.a.rv o.vs).toNat
    let p := c.pipe e.pi
    let c := c.setPipe e.pi { p with far := p.far ++ [⟨true, worldKey e.x.world, ad, 0, e.a.rv o.vs, p.cycle,
      e.farUntil o.ch true, e.pc⟩] }
    if o.u then c.land e.pi .l 1 (wrReg .pair o.xq (e.a.rx o.xq + 8)) else c

/-- A far operation completes before its span ends (R69). The spec names no order among them: the oldest completes first,
whatever the channels. (DESIGN CHOICE, log entry 80) -/
def Chip.farComplete (c : Chip) (core : Nat) : Chip :=
  match c.pipeOf core with
  | none => c
  | some pi =>
    let p := c.pipe pi
    match p.far with
    | [] => c
    | f :: rest => (c.setPipe pi { p with far := rest }).farEffect core f

/-- LSEG (R108): accesses issued at c + 4 and later use the new segment. -/
def Chip.actLseg (c : Chip) (e : Env) (sg ws : Nat) : Chip :=
  let sel := (e.a.rw ws).toNat
  let (c, s, _) := c.capture e.core e.p e.x e.a.level sel
  c.land e.pi .l 4 [.seg sg s]

/-- MFS (R108). -/
def Chip.actMfs (c : Chip) (e : Env) (sg ws : Nat) : Chip := c.land e.pi .l 1 [.w ws (e.a.segr sg).sel]

/-- CASP (R109, R241): on QDR its line is first written back and dropped. XC takes the pair in the first issue cycle after the
stall. -/
def Chip.actCasp (c : Chip) (e : Env) (o : CaspOp) : Chip :=
  match (opWants e.a (.casp o)).head?.bind (c.goesTo e) with
  | none => c
  | some t =>
    let m := c.mctx e.core e.x
    let t := match t with
      | .mem ad _ => Target.mem ad false
      | t => t
    let c := match t with
      | .mem ad _ => (c.dcwb m (ad / 32)).dcinv m (ad / 32)
      | _ => c
    let v := (c.readTarget m t 2).2
    let hit := v == e.a.rx o.xc
    let c := if hit then c.writeTarget m t 2 (e.a.rx o.xn) else c
    let c := (c.countTarget e t).traceAccess e t 2 false false false v
    let c := if hit then c.traceAccess e t 2 true false false (e.a.rx o.xn) else c
    c.land e.pi .l 2 (wrReg .pair o.xc v)

/-! ### Translation operations (R213 to R222) -/

/-- The entry TLBW writes: of the leaf it keeps R, W, X, LVL, A, D, G, CONT, UC and PPN (R213). -/
def tlbwEntry (e : Env) : TlbEntry :=
  let vpn := (tget 0 e.p.core 0x48).toNat
  let tag := (tget 0 e.p.core 0x49).toNat
  let pte := BitVec.ofNat 64 ((tget 0 e.p.core 0x4A).toNat + (tget 0 e.p.core 0x4B).toNat * 2 ^ 32)
  let k := pteCont pte
  { v := bitN tag 15 && pte.getLsbD 0 && leafOk pte vpn
    world := e.x.world
    asid := BitVec.ofNat 12 tag
    vpn := BitVec.ofNat 30 ((vpn >>> k) <<< k)
    pte := pte &&& 0x00FF_FFFF_3FFE }

/-- TLBW (R213). -/
def Chip.actTlbw (c : Chip) (e : Env) (wr : Nat) : Chip :=
  c.land e.pi .b 3 [.tlbw (e.a.rw wr).toNat (tlbwEntry e)]

/-- TLBI (R217). Bits 63:42 of YA and 15:12 of WR, which R122 gives no meaning, do not act. (DESIGN CHOICE, log entry 96) -/
def Chip.actTlbi (c : Chip) (e : Env) (o : TlbiOp) : Chip :=
  c.land e.pi .b 3
    [.tlbi o.scope e.x.world (BitVec.ofNat 12 (e.a.rw o.wr).toNat) (bits (e.a.rd .quad o.ya) 41 0)]

/-- TWALK (R220, R221): it stalls 4 cycles for each entry found in L1D, beside the fills its bundle has waited for; after a
stall its results land in the first issue cycle that follows. WR overwrites a word of YA that it names, as `actFld` says. -/
def Chip.actTwalk (c : Chip) (e : Env) (o : TwalkOp) : Chip :=
  let (c, r) := c.walk e (e.a.rd .quad o.yb)
  let c := (c.count e.pi 0x0D 1).stallFor e.pi (4 * r.hits)
  let c := c.setPipe e.pi { c.pipe e.pi with wc := r.wc }
  let leaf := match r.leaf with
    | some q => wrReg .quad o.ya q.toNat
    | none => []
  c.land e.pi .b (if r.reads = 0 then 1 else 2) (wrReg .word o.wr r.status ++ leaf)

/-! ### System calls (R187, R188) -/

/-- The writes by which (SSG, W62) and STK of a level exchange contents, as landings of the slot; `cap` is the check of the
selector loaded. -/
def exchangeWrites (a : Arch) (h : Nat) (cap : SegReg → SegReg) : List LWrite :=
  let k := a.stk h
  let old := BitVec.ofNat 32 (a.w62 + (a.segr 2).sel.toNat * 2 ^ 16)
  [.creg (0x24 + (h - 1)) old, .eff (0x24 + (h - 1)) old, .edesc (0x24 + (h - 1)) (a.segr 2), .seg 2 (cap k.seg),
   .w 62 (BitVec.ofNat 16 k.sp)]

/-- A write of a control register, as read and as acted on. -/
def cregBoth (n x : Nat) : List LWrite := [.creg n (BitVec.ofNat 32 x), .eff n (BitVec.ofNat 32 x)]

/-- SYSE (R187): the descriptor for CSG is checked at the new level, the stack it brings in is not (R202, R203). (DEDUCED, log
entry 98) -/
def Chip.actSyse (c : Chip) (e : Env) (lv : Nat) (code : Word) : Chip :=
  let a := e.a
  let i := lv - 1
  let csg := a.segr 0
  let vec := SegReg.atLevel { tget {} a.edesc (0x20 + i) with sel := BitVec.ofNat 16 (a.acting (0x20 + i)) } lv
  c.land e.pi .b 1
    (cregBoth (0x26 + i) (e.pc + 8) ++ cregBoth (0x28 + i) (bits a.st.toNat 8 0)
     ++ cregBoth (0x2A + i) (csg.sel.toNat + code.toNat * 2 ^ 16) ++ [.edesc (0x2A + i) csg]
     ++ exchangeWrites a lv id ++ [.seg 0 vec, .stRw 0x13 (BitVec.ofNat 32 lv)])

/-- SYSR (R188): the descriptors for CSG and SSG are checked at the level returned to (R202, R203). (DEDUCED, log entry 98) -/
def Chip.actSysr (c : Chip) (e : Env) : Chip :=
  let a := e.a
  let i := a.level - 1
  let sst := a.acting (0x28 + i)
  let lv := bits sst 1 0
  let cs := SegReg.atLevel { tget {} a.edesc (0x2A + i) with sel := BitVec.ofNat 16 (a.acting (0x2A + i)) } lv
  c.land e.pi .b 1
    (exchangeWrites a a.level (·.atLevel lv) ++ [.seg 0 cs, .stRw 0x1D3 (BitVec.ofNat 32 sst),
      .eff 0 (BitVec.ofNat 32 (setBits (a.acting 0) 8 6 (bits sst 8 6)))])

/-! ### Branches (R72, R74, R101 to R103, R167, R169) -/

/-- A branch as it resolves at issue: whether it is taken, where it goes, its predictor kind, the value it writes to LK. -/
structure Resolved where
  taken  : Bool
  target : Pair
  kind   : Option BrKind
  indirect : Bool := false
  ret    : Bool := false
  lk     : Option Pair := none
  trace  : Option Nat := none
  deriving DecidableEq, Repr

/-- The target of a direct branch (R101). -/
def directTarget (pc w disp : Nat) : Pair := BitVec.ofNat 32 (pc + sextTo w 32 disp * 8)

/-- What a branch operation resolves to (R101 to R103, R74). -/
def resolve (e : Env) (o : CoreOp) : Option Resolved :=
  let pc := e.pc
  let a := e.a
  let link := BitVec.ofNat 32 (pc + 24)
  match o with
  | .br d => some ⟨true, directTarget pc 26 d.toNat, some .direct, false, false, none, none⟩
  | .bc k d => some ⟨k.holds a.flC a.flV a.flN a.flZ, directTarget pc 22 d.toNat, some .conditional, false, false, none, none⟩
  | .bz w d => some ⟨a.rw w == 0, directTarget pc 20 d.toNat, some .conditional, false, false, none, none⟩
  | .bnz w d => some ⟨a.rw w != 0, directTarget pc 20 d.toNat, some .conditional, false, false, none, none⟩
  | .call d => some ⟨true, directTarget pc 26 d.toNat, some .call, false, false, some link, none⟩
  | .bri x => some ⟨true, BitVec.ofNat 32 (a.rx x), some .indirect, true, false, none, some 0⟩
  | .calli x => some ⟨true, BitVec.ofNat 32 (a.rx x), some .call, true, false, some link, some 1⟩
  | .ret => some ⟨true, a.lk, none, true, true, none, some 2⟩
  | _ => none

/-- The bundle that follows a resolved branch and its delay slots. -/
def Resolved.next (r : Resolved) (pc : Nat) : Pair := if r.taken then r.target else BitVec.ofNat 32 (pc + 24)

/-- The empty cycles before the target (R72, R169). -/
def Resolved.gap (r : Resolved) (e : Env) : Nat :=
  if r.indirect && !e.p.predicted e.x e.pc r.ret r.target then 2 else 0

/-- What a branch does beside the program counter: LK, the predictor update to come, and counts. R168 has no update in a timed
window and does not say what an open window's branches do with PRED 0 or a part disabled: they update the predictor under PRED
1 only, and then whatever PCTL holds. (DESIGN CHOICE, log entry 76) -/
def Chip.actBranch (c : Chip) (e : Env) (o : CoreOp) : Chip :=
  match resolve e o with
  | none => c
  | some r =>
    let c := match r.lk with
      | some l => c.land e.pi .b 1 [.lk l]
      | none => c
    let c := c.fabBranch e.pi e.x e.pc (r.next e.pc).toNat
    let c := if r.kind == some .conditional then c.count e.pi 0x09 1 else c
    let c := if r.trace.isSome then c.count e.pi (if r.gap e = 0 then 0x0A else 0x0B) 1 else c
    if e.x.predOn then
      let p := c.pipe e.pi
      c.setPipe e.pi { p with pred := { p.pred with
        upd := p.pred.upd ++ [⟨p.cycle + 3, p.tag e.x, BitVec.ofNat 32 e.pc, r.kind, r.taken, r.target, r.lk, r.ret⟩] } }
    else c

/-! ### The action of one operation -/

/-- Results of one latency, from the slot of the operation. -/
def Chip.results (c : Chip) (e : Env) (s : Slot) (L : Nat) (ws : List LWrite) : Chip := c.land e.pi s L ws

/-- Energy events of the multiplier (R136, R418): what switches, of the full count. -/
def Chip.countSteps (c : Chip) (e : Env) (used full : Nat) : Chip :=
  (c.count e.pi 0x14 used).count e.pi 0x15 (full - used)

/-- A multiply (R110). -/
def Chip.actMul (c : Chip) (e : Env) (o : MulOp) : Chip :=
  let w := o.sz.width
  let signed := !(o.fn == .mulwu || o.fn == .mulhu)
  let used := mulSteps w (e.a.rd o.sz o.s1) (e.a.rd o.sz o.s2) signed
  (c.countSteps e used (w / 8)).results e .m (mulTime o.sz).1 (mulWrites e.a o)

/-- A divide (R110). -/
def Chip.actDiv (c : Chip) (e : Env) (o : DivOp) : Chip :=
  let w := o.sz.width
  let x := e.a.rd o.sz o.s1
  let y := e.a.rd o.sz o.s2
  let signed := o.fn == .div || o.fn == .rem
  let used := if signed then divSteps (sgn w x).natAbs (sgn w y).natAbs else divSteps x y
  (c.countSteps e used w).results e .m (divTime o.sz).1 (divWrites e.a o)

/-- A Q multiply (R111). -/
def Chip.actMulq (c : Chip) (e : Env) (o : MulqOp) : Chip :=
  let w := o.size.width
  let used := mulSteps w (e.a.rd o.size o.s1) (e.a.rd o.size o.s2) true
  (c.countSteps e used (w / 8)).results e .m (mulTime o.size).1 (mulqWrites e.a o)

/-- Count a binary32 operation of the FPU. -/
def Chip.countFpu (c : Chip) (e : Env) (f : Fmt) : Chip := if f == .s then c.count e.pi 0x13 1 else c

/-- A floating operation of major 0x08 (R112). -/
def Chip.actFp (c : Chip) (e : Env) (fn : FpFn) (o : FpOp) : Chip :=
  (c.countFpu e o.fmt).results e .m (fpTime fn o.fmt).1 (fpWrites e.a fn o)

/-- FMA and FMSB (R113). -/
def Chip.actFma (c : Chip) (e : Env) (neg : Bool) (o : Fp3Op) : Chip :=
  (c.countFpu e o.fmt).results e .m (fmaTime o.fmt).1 (fmaWrites e.a neg o)

/-- FCVT (R114). -/
def Chip.actFcvt (c : Chip) (e : Env) (o : FcvtOp) : Chip :=
  let s := o.dst == .f32 || (o.src == .f32 && !cvtFloat o.dst)
  (if s then c.count e.pi 0x13 1 else c).results e .m 3 (fcvtWrites e.a o)

/-- VAPUT: readers at c + 3 see it; a VMAC into the accumulator at c + 1 or c + 2 is a conflict (R118). -/
def Chip.actVaput (c : Chip) (e : Env) (o : VaputOp) : Chip :=
  let c := c.results e .m 3 (vaputWrites e.a o)
  let p := c.pipe e.pi
  c.setPipe e.pi { p with occ := tset 0 p.occ (ExecUnit.acc o.ad).key (p.cycle + 3) }

/-- PFLUSH (R172). -/
def Chip.actPflush (c : Chip) (e : Env) (scope : Nat) : Chip :=
  let p := c.pipe e.pi
  c.setPipe e.pi { p with pred := p.pred.flush p.cycle e.x.world e.x.ctx (scope == 1) }

/-- PBAR (R173). -/
def Chip.actPbar (c : Chip) (e : Env) : Chip :=
  let p := c.pipe e.pi
  c.setPipe e.pi { p with pred := p.pred.applyAll }.dropFab

/-- WEND (R91): no bundle issues after it. (DEDUCED, log entry 23) -/
def Chip.actWend (c : Chip) (e : Env) : Chip :=
  let p := c.pipe e.pi
  c.setPipe e.pi { p with run := .ended }

/-- MBAR takes its issue cycles; in a timed window its bit 2 orders the far operations issued 4 cycles later after those issued
before it (R242). -/
def Chip.actMbar (c : Chip) (e : Env) (kind : Nat) : Chip :=
  let p := c.pipe e.pi
  if !e.x.open_ && bitN kind 2 then c.setPipe e.pi { p with farBars := p.farBars ++ [p.cycle] } else c

/-- What an operation does when its bundle acts. ERET acts as a whole bundle; prefixes act on the program counter; a NOP and an
emulated operation do nothing here. -/
def Chip.actOp (c : Chip) (e : Env) (s : Slot) : CoreOp → Chip
  | .alu o => c.results e s (aluTime o.sz) (aluWrites e.a o)
  | .imm o => c.results e s (aluTime o.sz) (immWrites e.a o)
  | .movi o => c.results e s (if o.kv.val = 3 then 2 else 1) (moviWrites o)
  | .br d => c.actBranch e (.br d)
  | .bc k d => c.actBranch e (.bc k d)
  | .bz w d => c.actBranch e (.bz w d)
  | .bnz w d => c.actBranch e (.bnz w d)
  | .call d => c.actBranch e (.call d)
  | .bri x => c.actBranch e (.bri x)
  | .calli x => c.actBranch e (.calli x)
  | .ret => c.actBranch e .ret
  | .load o => c.actLoad e o
  | .store o => c.actStore e o
  | .movo o => c.actMovo e o
  | .fld o => c.actFld e o
  | .fst o => c.actFst e o
  | .lseg sg ws => c.actLseg e sg ws
  | .mfs sg ws => c.actMfs e sg ws
  | .casp o => c.actCasp e o
  | .mul o => c.actMul e o
  | .div o => c.actDiv e o
  | .mulq o => c.actMulq e o
  | .fp fn o => c.actFp e fn o
  | .fma neg o => c.actFma e neg o
  | .fcvt o => c.actFcvt e o
  | .vmac o => (c.count e.pi 0x12 8).results e .m 3 (vmacWrites e.a o)
  | .vfma o => (c.count e.pi 0x12 8).results e .m 4 (vfmaWrites e.a o)
  | .sweep o => c.results e .m 2 (sweepWrites e.a o)
  | .vext o => c.results e .m 3 (vextWrites e.a o)
  | .vaput o => c.actVaput e o
  | .mfc n x => c.actMfc e n x
  | .mtc n x => c.actMtc e n x
  | .syse lv code => c.actSyse e lv code
  | .sysr => c.actSysr e
  | .wend => c.actWend e
  | .tlbw wr => c.actTlbw e wr
  | .tlbi o => c.actTlbi e o
  | .twalk o => c.actTwalk e o
  | .cache fn o => c.cacheAct e fn o
  | .pflush sc => c.actPflush e sc
  | .pbar => c.actPbar e
  | .mbar k => c.actMbar e k.val
  | .nop | .rep _ | .repi | .eret | .emul _ => c

/-- Occupy the unit of an operation (R66). -/
def Pipe.occupy (p : Pipe) (s : Slot) (o : CoreOp) : Pipe :=
  match o.unit s with
  | none => p
  | some u => { p with occ := tset 0 p.occ u.key (p.cycle + o.occupancy) }

/-! ### The program counter (R61, R72, R81 to R89) -/

/-- The operation of a bundle that changes the order of bundles, if any. -/
def transferOf (ops : List (Slot × CoreOp)) : Option CoreOp := (ops.find? (fun q => q.2.transfers)).map Prod.snd

/-- The pipeline after a bundle issued: the next bundle, the delay slots or iterations left, empty cycles. -/
def Pipe.advance (p : Pipe) (e : Env) (ops : List (Slot × CoreOp)) : Pipe :=
  let a := p.arch
  let pc := e.a.pc
  let p := { p with issued := true }
  match e.a.rep with
  | some r =>
    let k := r.k - 1
    let a := if k = 0 then { a with pc := pc + 16, rep := none } else { a with rep := some ⟨r.repi, k⟩ }
    let p := { p with arch := a }
    if r.repi then { p with fly := p.fly ++ [⟨p.cycle, p.cycle, 0, .ct (BitVec.ofNat 32 k)⟩] } else p
  | none =>
    match e.a.br with
    | some b =>
      if b.left ≤ 1 then
        { p with arch := { a with pc := b.target, br := none }, gap := if b.gap = 0 then 0 else b.gap + 1 }
      else { p with arch := { a with pc := pc + 8, br := some { b with left := b.left - 1 } } }
    | none =>
      match transferOf ops with
      | none => { p with arch := { a with pc := pc + 8 } }
      | some o =>
        match resolve e o with
        | some r => { p with arch := { a with pc := pc + 8, br := some ⟨r.next e.pc, 2, r.gap e⟩ } }
        | none =>
          match o with
          | .rep _ =>
            let k := repCount e.a o
            if k = 0 then { p with arch := { a with pc := pc + 16 } } else { p with arch := { a with rep := some ⟨false, k⟩ } }
          | .repi =>
            let k := repCount e.a o
            if k = 0 then { p with arch := { a with pc := pc + 16 } } else { p with arch := { a with rep := some ⟨true, k⟩ } }
          | .syse lv _ => { p with arch := { a with pc := BitVec.ofNat 32 (e.a.acting (0x22 + (lv.val - 1))) }, gap := 4 }
          | .sysr => { p with arch := { a with pc := BitVec.ofNat 32 (e.a.acting (0x26 + (e.a.level - 1))) }, gap := 4 }
          | _ => { p with arch := { a with pc := pc + 8 } }

/-- The results of a reissue (R128): EMURES to RDEST and FLAGS to the integer flags, with the trapped slot's priority. For a
pair or quad RDEST acts by the bits that number one: high bits do not. (DESIGN CHOICE, log entry 81) -/
def reissueWrites (r : Reissue) : List LWrite :=
  let ctl := r.ctl.toNat
  let d := bits ctl 9 4
  (if bitN ctl 1 then
     match bits ctl 3 2 with
     | 0 => wrReg .word d r.res.toNat
     | 1 => wrReg .pair (d % 32) r.res.toNat
     | 2 => wrReg .quad (d % 16) r.res.toNat
     | _ => []
   else [])
  ++ (if bitN ctl 10 then [.flags (bitN ctl 11) (bitN ctl 12) (bitN ctl 13) (bitN ctl 14)] else [])

/-- The kind and the target of the TGT packet of an operation that changes the order of bundles (R407). -/
def transferTarget (e : Env) : CoreOp → Option (Nat × Nat)
  | .syse lv _ => some (4, e.a.acting (0x22 + (lv.val - 1)))
  | .sysr => some (5, e.a.acting (0x26 + (e.a.level - 1)))
  | .wend => some (8, e.pc)
  | o => (resolve e o).bind (fun r => r.trace.map (fun k => (k, r.target.toNat)))

/-- The packet of an operation that changes the order of bundles: an outcome or a target (R404, R407). -/
def Chip.transferPacket (c : Chip) (e : Env) (o : CoreOp) : Chip :=
  let c := match (resolve e o).filter (fun r => r.kind == some .conditional) with
    | some r => c.emitBranch e.core e.p e.x r.taken
    | none => c
  match transferTarget e o with
  | some q => c.emitTarget e.core e.p e.x q.1 0 q.2
  | none => c

/-- The operations of a bundle act, with the results of a reissue that stands for one of them (R128); each result lands later.
The packet of its branch follows that of its access (R406). -/
def Chip.actSlots (c : Chip) (e : Env) (ops : List (Slot × CoreOp)) : Chip :=
  let c := ops.foldl (fun c q => c.actOp e q.1 q.2) c
  let c := ops.foldl (fun c q => c.transferPacket e q.2) c
  match e.a.reissue with
  | some r =>
    let p := (c.pipe e.pi).land r.slot 1 (reissueWrites r)
    c.setPipe e.pi { p with arch := { p.arch with reissue := none } }
  | none => c

/-- The bundle acts: every slot on the state at the start of the cycle, then the program counter. -/
def Chip.actAll (c : Chip) (e : Env) (ops : List (Slot × CoreOp)) (adv : Bool) : Chip :=
  let c := c.emitLanded e
  let c := if adv then c.actSlots e ops else ops.foldl (fun c q => c.actOp e q.1 q.2) c
  let c := c.count e.pi 0x03 (ops.filter (fun q => !q.2.isNop)).length
  let c := if adv && e.a.rep.isSome then c.count e.pi 0x1B 1 else c
  let p := c.pipe e.pi
  let p := ops.foldl (fun p q => p.occupy q.1 q.2) { p with stall := none }
  c.setPipe e.pi (if adv then p.advance e ops else p)

/-! ### Return from exception (R186, R128) -/

/-- The reads of the frame: the 16 words at W62 through SSG, at the running level (R203). The spec does not name the size of
the reads; the model reads four quads, so a W62 that is no multiple of 4 is ALIGN, and ADDR and INFO name the quad that fails.
(DESIGN CHOICE, log entry 82) -/
def frameWants (off : Nat) : List Want :=
  (List.range 4).map (fun i => { seg := 2, off := (off + 4 * i) % 2 ^ 32, n := 4, rd := true, wr := false, slot := .b })

/-- What the reads and checks of an ERET find: a line that one of them waits for, whether it goes into L1D, the least rank of
the causes that may still come, and the cause an error of the ring would be; a cause; or the frame with the descriptor for CSG
(R80, R186). -/
inductive EretRead where
  | wait (line : Nat) (fill : Bool) (rank : Nat) (bus : Raised)
  | fail (r : Raised)
  | frame (f : List Word) (s : SegReg)
  deriving DecidableEq, Repr

/-- One read of the frame (R80, R186, R247). -/
def Chip.frameRead (c : Chip) (e : Env) (q : Want) : Chip × EretRead :=
  match c.check e.core e.p e.x e.done q with
  | .error r => (if r.cause == .decc then c.eccWants e [q] else c, .fail r)
  | .ok (.mem ad true) =>
    let m := c.mctx e.core e.x
    if c.lineAwaited e ad 4 then (c, .wait (ad / 32) true 3 (q.raise .dbus))
    else if c.cachedBad m ad 4 then (c.l1Drop m false (ad / 32), .fail (q.raise .decc))
    else
      let r := c.readTarget m (.mem ad true) 4
      (r.1, .frame (toWords 4 r.2) {})
  | .ok (.mem ad false) =>
    if e.done.contains (ad / 32) then
      (c.countTarget e (.mem ad false), .frame (toWords 4 (c.readTarget (c.mctx e.core e.x) (.mem ad false) 4).2) {})
    else (c, .wait (ad / 32) false 3 (q.raise .dbus))
  | .ok t =>
    let r := c.readTarget (c.mctx e.core e.x) t 4
    (r.1, .frame (toWords 4 r.2) {})

/-- Read the frame, or the cause an ordinary access would raise; `a` holds the registers it is read through. -/
def Chip.readFrame (c : Chip) (e : Env) (a : Arch) : Chip × EretRead :=
  let s := a.segr 2
  let e := { e with p := { c.pipe e.pi with arch := a.setSeg 2 { s with sel := s.sel ||| 0xC000 } } }
  (frameWants a.w62).foldl (fun (r : Chip × EretRead) q =>
    match r.2 with
    | .frame ws _ =>
      (match r.1.frameRead e q with
       | (c, .frame v _) => (c, .frame (ws ++ v) {})
       | t => t)
    | _ => r) (c, .frame [] {})

/-- The reads and checks of ERET, with the chip after the reads (R186). `a1` holds the registers with the held results. -/
def Chip.eretCheck (c : Chip) (e : Env) (a1 : Arch) : Chip × EretRead :=
  match c.readFrame e a1 with
  | (c, .frame f _) =>
    let lv := e.a.level
    let sel := frameW f 3
    let e := { e with p := c.pipe e.pi }
    if lv < bits (frameW f 2) 1 0 then (c, .fail (plainRaise .priv .b))
    else
      let wait : Option Nat := (c.selAddr e sel).bind (fun ad => if c.lineAwaited e ad 8 then some (ad / 32) else none)
      match wait with
      | some l => (c, .wait l true 12 (captureRaise .dbus sel 0 false .b))
      | none =>
        let (c, s, k) := c.capture e.core e.p e.x lv sel
        if k == some .decc then
          (match c.selAddr e sel with
            | some ad => c.l1Drop (c.mctx e.core e.x) false (ad / 32)
            | none => c, .fail (captureRaise .decc sel 0 false .b))
        else (c, .frame f s)
  | r => r

/-- ERET whose checks have passed, on the chip with the held results landed (R186, R128): steps 4 to 7. A stack it loads is
checked at the level returned to (R202, R203). (DEDUCED, log entry 98) -/
def Chip.eretCommit (c : Chip) (e : Env) (f : List Word) (s : SegReg) (t : Nat) : Chip :=
  let p := c.pipe e.pi
  let sst := frameW f 2
  let lv := e.a.level
  let a := p.arch.setW 62 (p.arch.w62 + 16)
  let a := if bits sst 1 0 < lv then
      (let b := a.exchange e.a lv
       b.setSeg 2 ((b.segr 2).atLevel (bits sst 1 0)))
    else a
  let a := { (a.fromSst sst) with fl := frameP f 0xC &&& 0x1F1F }
  let a := (a.setSeg 0 s).resume (frameP f 0) f
  let ctl := (tget 0 a.creg 0x14).toNat
  let a := if !bitN ctl 0 then a
    else
      let slot := [Slot.a, .b, .m, .l].getD (bits (tget 0 a.creg 0x11).toNat 1 0) .a
      let res := BitVec.ofNat 64 ((tget 0 a.creg 0x12).toNat + (tget 0 a.creg 0x13).toNat * 2 ^ 32)
      { (a.setCreg 0x14 0) with reissue := some ⟨slot, BitVec.ofNat 32 ctl, res⟩ }
  let p := { p with arch := a, cycle := t + 8, issued := false, gap := 0 }
  (c.setPipe e.pi p).emitTarget e.core p e.x 3 0 a.bundlePc

/-- Whether a bundle holds an ERET. -/
def hasEret (ops : List (Slot × CoreOp)) : Bool := ops.any (fun q => match q.2 with
  | .eret => true
  | _ => false)

/-- The operations of an ERET's bundle act on the registers of its own cycle, and their results land (R186). -/
def Chip.eretHold (c : Chip) (e : Env) (ops : List (Slot × CoreOp)) : Chip :=
  let c := (c.actSlots e ops).drain e
  (c.count e.pi 0x02 1).count e.pi 0x03 (ops.filter (fun q => !q.2.isNop)).length

/-- The chip with the earlier results of an ERET's bundle landed, and the same with those of the bundle itself (R186). -/
def Chip.eretHeld (c : Chip) (e : Env) (ops : List (Slot × CoreOp)) : Chip × Chip :=
  let c := c.drain e
  let c := c.setPipe e.pi { c.pipe e.pi with stall := none }
  (c, c.eretHold e ops)

/-- What the ERET of a bundle finds, unless it is a crab return; the chip after its reads, with earlier results landed
(R186). -/
def Chip.eretOwn (c : Chip) (e : Env) (ops : List (Slot × CoreOp)) : Option (Chip × EretRead) :=
  if !hasEret ops || e.a.crab then none
  else
    let h := c.eretHeld e ops
    some (h.1.eretCheck e (h.2.pipe e.pi).arch)

/-- A bundle with an ERET that raises no cause and waits for nothing: earlier results land, those of the others of the bundle
are held until the frame is checked, or a crab return follows (R186, R192). R192 says nothing of operations in flight at a crab
return, or of the others of its bundle: they land before it reads the minimal frame, but on a fault in the crab handler they
are abandoned (R193). (DESIGN CHOICE, log entry 96) -/
def Chip.eretBundle (c : Chip) (e : Env) (ops : List (Slot × CoreOp)) : Chip :=
  let h := c.eretHeld e ops
  if e.a.crab then
    match h.2.miniFrame e with
    | none => c.crabNoReturn e
    | some f => (h.2.crabReturn e f e.p.cycle).countSpan e.pi e.p.cycle
  else match h.1.eretCheck e (h.2.pipe e.pi).arch with
    | (c', .frame f s) =>
      ((c'.eretHold e ops).eretCommit e f s (((c.actSlots e ops).pipe e.pi).flight)).countSpan e.pi e.p.cycle
    | (c, .fail r) => c.take e ops r
    | (_, .wait _ _ _ _) => c.setPipe e.pi { c.pipe e.pi with stall := some (.miss e.done e.lost ops true) }

/-! ### Issue (R61 to R66, R80, R95) -/

/-- The first cause a bundle raises, beside those its words raise by themselves. -/
def Chip.causeOf (c : Chip) (e : Env) (pre : List Raised) (ops : List (Slot × CoreOp)) : Option Raised :=
  firstCause (pre ++ ops.flatMap (fun q => c.opCauses e ops q.1 q.2))

/-- An armed injection strikes the first array that a bundle which raises no cause reads (R360). (DESIGN CHOICE, log entry
79) -/
def Chip.injectData (c : Chip) (e : Env) (pre : List Raised) (ops : List (Slot × CoreOp)) : Chip :=
  match c.armed (0x020 + e.pi), c.causeOf e pre ops with
  | some k, none =>
    if 2 ≤ k then c
    else match (ops.flatMap (fun q => opWants e.a q.2)).find? (fun q => q.rd && !q.line) with
      | none => c
      | some q => match c.check e.core e.p e.x e.done q with
        | .ok (.tight off) => c.injectTight e off
        | .ok (.mem ad true) => c.injectL1 e false ad
        | _ => c
  | _, _ => c

/-- The line that the fetch of the bundle a prefix repeats misses (R82). -/
def Chip.prefixMiss (c : Chip) (e : Env) (ops : List (Slot × CoreOp)) : Option Nat :=
  if ops.any (fun q => q.2.isPrefix) then
    match c.fetch e ((e.pc + 8) % 2 ^ 32) with
    | .miss l | .bad l _ => some l
    | _ => none
  else none

/-- The lines that a bundle's operations wait for, in the order of the operations, each with whether it goes into L1D: those of
an uncached frame do not. -/
def Chip.linesOf (c : Chip) (e : Env) (ops : List (Slot × CoreOp)) : List (Nat × Bool) :=
  (ops.flatMap (fun q => c.opLines e q.2)).map (fun l => (l, true))
  ++ (match c.eretOwn e ops with
      | some (_, .wait l fill _ _) => [(l, fill)]
      | _ => [])

/-- The least rank of the causes that what a bundle still waits for can raise: a fetch, the frame of an ERET, the capture of a
descriptor, a reply, a line. Those of lower rank number are taken at once (R95, R179). -/
def Chip.waitRank (c : Chip) (e : Env) (ops : List (Slot × CoreOp)) : Nat :=
  if (c.prefixMiss e ops).isSome then 2
  else
    let own := match c.eretOwn e ops with
      | some (_, .wait _ _ k _) => k
      | _ => 16
    Nat.min own
      (if ops.any (fun q => (c.captureLine e q.2).isSome) then 7
       else if e.reply.isNone && ops.any (fun q => c.opUncached e q.2) then 12
       else if ops.any (fun q => !(c.opLines e q.2).isEmpty) then 13
       else 16)

/-- What a bundle waits for before it acts: the fetch of the bundle it repeats, lines of L1D, the reply of an uncached
access. -/
def Chip.awaited (c : Chip) (e : Env) (ops : List (Slot × CoreOp)) (adv : Bool) : Option Stall :=
  match c.prefixMiss e ops with
  | some l => some (.ifetch l ((e.pc + 8) % 2 ^ 32))
  | none =>
    if !(c.linesOf e ops).isEmpty then some (.miss e.done e.lost ops adv)
    else if e.reply.isNone && ops.any (fun q => c.opUncached e q.2) then some (.uncached e.done e.lost ops adv)
    else none

/-- A bundle acts that raises no cause and waits for nothing. -/
def Chip.actBundle (c : Chip) (e : Env) (ops : List (Slot × CoreOp)) (adv : Bool) : Chip :=
  if hasEret ops then c.eretBundle e ops else c.actAll e ops adv

/-- The cause a bundle takes, with the chip it is taken on: the first of those of its slots and of its ERET's own reads and
checks, for which earlier results have landed (R95, R179, R186). -/
def Chip.firstOf (c : Chip) (e : Env) (pre : List Raised) (ops : List (Slot × CoreOp)) : Option (Chip × Raised) :=
  match c.eretOwn e ops, c.causeOf e pre ops with
  | some (d, .fail r), some q => if firstCause [q, r] = some q then some (c, q) else some (d, r)
  | some (d, .fail r), none => some (d, r)
  | _, some q => some (c, q)
  | _, none => none

/-- Issue operations: take the first cause, if nothing awaited can raise one that outranks it; else wait for lines or a reply;
else act. (DESIGN CHOICE, log entry 13) (DEDUCED, log entries 14 and 83) -/
def Chip.tryIssue (c : Chip) (e : Env) (pre : List Raised) (ops : List (Slot × CoreOp)) (adv : Bool) : Chip :=
  let c := c.injectData e pre ops
  match (c.firstOf e pre ops).filter (fun r => decide (r.2.cause.rank < c.waitRank e ops)) with
  | some (d, r) => d.take e ops r
  | none =>
    match c.awaited e ops adv with
    | some (.ifetch l off) => c.setPipe e.pi { c.pipe e.pi with stall := some (.ifetch l off) }
    | some s =>
      let c := if adv then c.fabTake e else c
      c.setPipe e.pi { c.pipe e.pi with stall := some s }
    | none => (if adv then c.fabTake e else c).actBundle e ops adv

/-- Whether a pipeline can issue now. -/
def Pipe.canIssue (p : Pipe) (adv : Bool) : Bool :=
  p.run == .run && p.stall.isNone && p.pend.isNone && p.gap == 0 && !(adv && p.issued)

/-- A single operation issues in its slot; one that changes the order of bundles issues as a bundle of its own. (DEDUCED, log
entry 14) -/
def Chip.issueOp (c : Chip) (core : Nat) (s : Slot) (o : CoreOp) : Chip :=
  let c := c.atCode core
  match c.env? core with
  | none => c
  | some e => if e.p.canIssue o.transfers then c.tryIssue e [] [(s, o)] o.transfers else c

/-- The operations of a fetched bundle, with an illegal cause for each word that decodes to none; a reissue replaces its slot
by a NOP (R94, R128). -/
def splitOps (d : Oct) (reissue : Option Reissue) : List Raised × List (Slot × CoreOp) :=
  let qs := (bundleOps d).map (fun q => match reissue with
    | some r => if r.slot == q.1 then (q.1, some CoreOp.nop) else q
    | none => q)
  ((qs.filter (fun q => q.2.isNone)).map (fun q => plainRaise .illegal q.1),
   qs.filterMap (fun q => q.2.map (fun o => (q.1, o))))

/-- An armed injection strikes the line of L1I, or the words of tight memory, that a fetch reads (R360). -/
def Chip.injectFetch (c : Chip) (e : Env) : Chip :=
  if e.a.crab then c.injectTight e (e.x.tmBase * 64 + e.pc)
  else if e.x.open_ && e.p.inFab e.pc then c
  else match c.fetchCheck e.p e.x e.pc with
    | .ok (addr, false) => c.injectL1 e true addr
    | _ => c

/-- The error of a fetched line of L1I is logged: 2 its data, 3 its tag (R247). -/
def Chip.fetchEcc (c : Chip) (e : Env) (line : Nat) : Chip :=
  let tag := match c.l1Find (c.mctx e.core e.x) true line with
    | some w => ((c.l1 e.core true).slot w (line % 128)).tagBad
    | none => false
  c.logError e.core (if tag then 3 else 2) (line * 32)

/-- BUNDLE_ISSUE: fetch the bundle at the program counter and issue it whole (R61, R95). -/
def Chip.issueBundle (c : Chip) (core : Nat) : Chip :=
  let c := c.atCode core
  match c.env? core with
  | none => c
  | some e =>
    if !e.p.canIssue true then c
    else
      let c := c.injectFetch e
      match c.fetch e e.pc with
      | .cause r =>
        let at_ := e.x.tmBase * 64 + e.pc
        (if e.a.crab && e.x.inRegion at_ 8 && c.tightErr core at_ 8 then c.logError core 0 at_ else c).take e [] r
      | .miss l => c.setPipe e.pi { c.pipe e.pi with stall := some (.ifetch l e.pc) }
      | .bad l true => ((c.fetchEcc e l).l1Drop (c.mctx core e.x) true l).take e [] (fetchRaise .ifbus e.pc)
      | .bad l false =>
        let c := c.fetchEcc e l
        c.setPipe e.pi { c.pipe e.pi with stall := some (.ifetch l e.pc) }
      | .words d =>
        let (pre, ops) := splitOps d e.a.reissue
        c.tryIssue { e with fetched := true } pre ops true

/-! ### The end of a stall (R80, R477) -/

/-- The fill of a fetch arrives: the line goes into L1I, or, past the caches, the bundle itself to the fetch unit (R230, R232).
What is uncorrectable then is IFBUS; the array it came from has logged it (R247). -/
def Chip.fetchFill (c : Chip) (e : Env) (line off : Nat) : Chip :=
  let m := c.mctx e.core e.x
  let c := c.setPipe e.pi { c.pipe e.pi with stall := none }
  let c := (c.l1Drop m true line).count e.pi 0x05 1
  let e := { e with p := c.pipe e.pi }
  match c.fetchCheck e.p e.x off with
  | .error _ => c
  | .ok (addr, uc) =>
    -- the base of the code segment need not be a multiple of a line (R200)
    if uc || !c.l1CanFill m true line then
      (if c.memErr addr 8 e.core then c.take e [] (fetchRaise .ifbus off)
       else
         let c := c.count e.pi 0x1A 1
         let p := c.pipe e.pi
         c.setPipe e.pi { p with got := p.got ++ [(off, BitVec.ofNat 128 (c.rdN m.key addr 8))] })
    else
      let c := (c.injectL2 m line).l1Fill m true line
      match c.l1Find m true line with
      | some w =>
        if badIn ((c.l1 e.core true).slot w (line % 128)).bad (addr % 32) 8 then
          (c.l1Drop m true line).take { e with p := c.pipe e.pi } [] (fetchRaise .ifbus off)
        else c
      | none => c

/-- A fill arrives after a stall of some cycles: the line goes in, and the bundle acts once nothing is missing. (DEDUCED, log
entry 17) -/
def Chip.fillArrival (c : Chip) (core cycles : Nat) : Chip :=
  match c.env? core with
  | none => c
  | some e =>
    let c := c.stallFor e.pi cycles
    match e.p.stall with
    | some (.ifetch line off) => c.fetchFill e line off
    | some (.miss done lost ops adv) =>
      let e := { e with done := done, lost := lost }
      let lines := (c.linesOf e ops).take 1
      let c := match lines with
        | (line, true) :: _ => c.refill e line
        | _ => c
      let c := c.setPipe e.pi { c.pipe e.pi with stall := none }
      c.tryIssue { e with done := lines.map Prod.fst ++ done, p := c.pipe e.pi } [] ops adv
    | _ => c

/-- The access of a bundle that waits for a reply. -/
def uncachedWant (e : Env) (ops : List (Slot × CoreOp)) : Option Want :=
  (ops.flatMap (fun q => opWants e.a q.2)).find? (fun q => q.rd && !q.line)

/-- A store is performed at once, a MOVO with its read. -/
def Chip.performStore (c : Chip) (e : Env) (s : PStore) : Chip :=
  let m := { c.mctx e.core e.x with level := e.a.level }
  match s.src with
  | none => c.writeTarget m s.dst s.n s.data.toNat
  | some t =>
    let (c, v) := c.readTarget m t s.n
    let c := c.traceAccess e t s.n false false false v
    (c.traceAccess e s.dst s.n true false false v).writeTarget m s.dst s.n v

/-- Uncached and register-space accesses leave the core in issue order: those of earlier stores are performed before an
uncached load or CASP is (R240). -/
def Chip.storesFirst (c : Chip) (e : Env) : Chip :=
  let p := c.pipe e.pi
  let due := p.stores.filter (fun s => c.pastCaches e s.dst)
  let c := c.setPipe e.pi { p with stores := p.stores.filter (fun s => !c.pastCaches e s.dst) }
  due.foldl (fun c s => c.performStore e s) c

/-- The operations of a bundle that waits for a reply. -/
def Pipe.replyOps (p : Pipe) : List (Slot × CoreOp) :=
  match p.stall with
  | some (.uncached _ _ ops _) => ops
  | _ => []

/-- A bundle whose reply has come takes the first cause it raises, on the chip as it stood before the reply acted, or acts on
the chip `d` that the reply leaves (R95, R477). -/
def Chip.completeBundle (c d : Chip) (e : Env) (ops : List (Slot × CoreOp)) (adv : Bool) : Chip :=
  match c.firstOf e [] ops with
  | some (b, r) => b.take e ops r
  | none => d.actBundle e ops adv

/-- The reply of an uncached access arrives: the bundle completes, or DBUS is raised at it (R477). A register that acts when it
is read does so only for a bundle that raises no other cause (R95). -/
def Chip.uncachedReply (c : Chip) (core : Nat) (err : Bool) (cycles : Nat) : Chip :=
  match c.env? core with
  | none => c
  | some e =>
    match e.p.stall, uncachedWant e e.p.replyOps with
    | some (.uncached done lost ops adv), some q =>
      let c := (c.stallFor e.pi cycles).storesFirst e
      let c := c.setPipe e.pi { c.pipe e.pi with stall := none }
      let e := { e with done := done, lost := lost, p := c.pipe e.pi }
      let dbus := c.take e ops (q.raise .dbus)
      if err then dbus
      else match c.goesTo e { q with noEcc := true } with
        | some (.reg ad) =>
          (match c.regLoad ⟨c.lowCore core, some e.x.party, e.a.level⟩ ad q.n with
           | none => dbus
           | some (d, v) => c.completeBundle d { e with reply := some v } ops adv)
        | some _ => c.completeBundle c { e with reply := some 0 } ops adv
        | none => dbus
    | _, _ => c

/-- The bus error of the operation, among a bundle's, that waits for a line: an access names itself, a capture its selector, an
ERET its read (R184, R303). -/
def Chip.lineBus (c : Chip) (e : Env) (ops : List (Slot × CoreOp)) : Raised :=
  match ops.find? (fun q => !(c.opLines e q.2).isEmpty) with
  | none =>
    (match c.eretOwn e ops with
     | some (_, .wait _ _ _ bus) => bus
     | _ => plainRaise .dbus .a)
  | some (s, o) =>
    match (opWants e.a o).find? (fun q => !q.line && (match c.check e.core e.p e.x e.done q with
      | .ok (.mem ad true) => c.lineMissing e ad q.n
      | _ => false)), opSelector e.a o with
    | some q, _ => q.raise .dbus
    | none, some (sel, seg, wr, s) => captureRaise .dbus sel seg wr s
    | none, none => plainRaise .dbus s

/-- Whether the operation, among a bundle's, that waits for a line is a TWALK, which raises no cause (R220). -/
def Chip.walkWaits (c : Chip) (e : Env) (ops : List (Slot × CoreOp)) : Bool :=
  match ops.find? (fun q => !(c.opLines e q.2).isEmpty) with
  | some (_, .twalk _) => true
  | _ => false

/-- The response a core waits for after a stall of some cycles is an error of the ring: a fetch ends as IFBUS, any other access
as DBUS, and the table read of a TWALK with its walk (R220, R303). (DESIGN CHOICE, log entry 97) -/
def Chip.busError (c : Chip) (core cycles : Nat) : Chip :=
  match c.env? core with
  | none => c
  | some e =>
    let counted := c.stallFor e.pi cycles
    let freed := counted.setPipe e.pi { counted.pipe e.pi with stall := none }
    let e' := { e with p := freed.pipe e.pi }
    match e.p.stall with
    | some (.ifetch _ off) => freed.take e' [] (fetchRaise .ifbus off)
    | some (.miss done lost ops adv) =>
      let e' := { e' with done := done, lost := lost }
      let ls := ((freed.linesOf e' ops).take 1).map Prod.fst
      if freed.walkWaits e' ops then freed.tryIssue { e' with done := ls ++ done, lost := ls ++ lost } [] ops adv
      else freed.take e' ops (freed.lineBus e' ops)
    | some (.uncached _ _ _ _) => c.uncachedReply core true cycles
    | none => c

/-- A poisoned response reaches the core that waits for it: the line it fills holds an uncorrectable oct, and the access ends
as DECC; a read that fills no line ends so at once; a fetch or an uncached access ends as a bus error (R290). (DESIGN CHOICE,
log entry 90) -/
def Chip.poisonFill (c : Chip) (core cycles : Nat) : Chip :=
  match c.env? core with
  | none => c
  | some e =>
    match e.p.stall with
    | some (.miss done lost ops adv) =>
      let e := { e with done := done, lost := lost }
      match (c.linesOf e ops).head? with
      | none => c.fillArrival core cycles
      | some (line, fill) =>
        let m := c.mctx core e.x
        let bus := c.lineBus e ops
        let walk := c.walkWaits e ops
        let c := if fill then c.refill e line else c
        let c := c.stallFor e.pi cycles
        let c := c.setPipe e.pi { c.pipe e.pi with stall := none }
        match c.l1Find m false line with
        | some w =>
          let k := c.l1 core false
          let c := c.setL1 core false (k.setSlot w (line % 128) { k.slot w (line % 128) with bad := 0xFF })
          c.tryIssue { e with done := line :: done, p := c.pipe e.pi } [] ops adv
        | none =>
          let e := { e with p := c.pipe e.pi }
          if walk then c.tryIssue { e with done := line :: done, lost := line :: lost } [] ops adv
          else c.take e ops { bus with cause := .decc }
    | _ => c.busError core cycles

/-- PREDICTOR_UPDATE: the updates whose cycle has come (R167). -/
def Chip.predictorUpdate (c : Chip) (core : Nat) : Chip :=
  match c.env? core with
  | none => c
  | some e => c.setPipe e.pi { e.p with pred := e.p.pred.applyDue e.p.cycle }

/-- FETCH_AHEAD: one line more (R175). (DEDUCED, log entry 70) -/
def Chip.fetchAheadStep (c : Chip) (core : Nat) : Chip :=
  match c.pipeOf core with
  | none => c
  | some pi => c.fetchAhead core pi

end Sys2Proof.Machine
end

