-- ==== Sys2Proof/Machine/Cox.lean ====
section
/-! DEFINITION. The cox: windows, entry and exit work, overruns and their records, and waking after WEND (R25 to R31, R55 to
R57, R180, R193, R218, R252, R277, R280). -/

namespace Sys2Proof.Machine

/-! ### The overrun log (R57) -/

/-- A record of the overrun log; the cause code of OVRLOG, and for FAULT the cause code of R179 and the offset. -/
structure OvrRec where
  core   : Nat
  win    : Nat
  ctx    : Nat
  cause  : Nat
  excode : Nat := 0
  off    : Nat := 0
  deriving DecidableEq, Repr

/-- The granule of this stroke that TB stands in. -/
def Chip.granuleNow (c : Chip) : Nat := (c.now - c.catchAt) / 20

/-- Write a record: overruns are counted, raise the eight's event and trigger trace; unrun windows are journaled (R15).
(DEDUCED, log entry 65) -/
def Chip.ovrRecord (c : Chip) (r : OvrRec) : Chip :=
  let e := r.core / 8
  let pg := 0x010 + e
  let i := c.fld pg 0x106 3 0
  let b := 0x200 + 8 * i
  let c := c.setLive pg b (r.core + r.win % 2 ^ 12 * 2 ^ 6 + r.ctx % 2 ^ 8 * 2 ^ 18 + r.cause * 2 ^ 26)
  let c := c.setLive pg (b + 2) (c.stroke % 2 ^ 16 + r.excode * 2 ^ 16)
  let c := c.setLive pg (b + 4) r.off
  let c := c.setLive pg (b + 6) (c.granuleNow % 2 ^ 26)
  let c := (c.setFld pg 0x106 3 0 ((i + 1) % 16)).bumpFld pg 0x106 31 16
  if r.cause ≤ 2 then ((c.bumpFld 0x005 0x10E 31 0).raise (eightSrc e 0)).trigger 3
  else if r.cause = 4 then c.deviceRecord .unrun else c

/-- A policy is called for on a partition: the strongest acts at the next catch (R57, R58), a YIELD with the partner, which is
told at once (R399). -/
def Chip.callPolicy (c : Chip) (part policy : Nat) (skip : List (Nat × Nat)) : Chip :=
  let x := c.part part
  let c := c.setPart part { x with policy := Nat.max x.policy policy, skips := x.skips ++ skip }
  if policy = 4 && (c.partEntry part).isSome then c.fallDue else c

/-- The overrun of a running window: its record, the count of its pipeline, and the policy of its partition. -/
def Chip.overrun (c : Chip) (core pi : Nat) (x : RunCtx) (cause excode off : Nat) : Chip :=
  let c := (c.count pi 0x19 1).ovrRecord ⟨core, x.win, x.ctx, cause, excode, off⟩
  let ovp := ((c.partEntry x.part).map PartE.ovp).getD 0
  c.callPolicy x.part ovp (if ovp = 1 then [(core, x.win)] else [])

/-! ### Window start (R25 to R29) -/

/-- How a window fares that is due in this stroke: it runs, it is feathered without a record (R56, R57, R348), or it goes unrun
and is recorded (R255, R266, R355). -/
inductive WinFate where
  | run | silent | unrun
  deriving DecidableEq, Repr

/-- Whether an architectural core can run a window: it has a pipeline, is not quarantined without a spare, and has not been
stopped by a mismatch in this stroke. (DEDUCED, log entry 26) -/
def Chip.coreRuns (c : Chip) (core : Nat) : Bool :=
  match c.pipeOf core with
  | none => false
  | some pi => !(c.eight (core / 8)).stuck.contains core && (c.pipe pi).run != .mismatched

/-- Whether a tight-memory region of a core is under hand-over. -/
def Chip.regionHeld (c : Chip) (core : Nat) (x : CtxE) : Bool :=
  c.tightHeld core (x.tmBase * 64) (x.tmSize * 64)

/-- Whether the core of a window, or in swing both cores, can run it (R266). -/
def Chip.pairRuns (c : Chip) (core : Nat) : Bool :=
  let k := c.lowCore core
  c.coreRuns k && (!c.inSwing (core / 8) || c.coreRuns (k + 8))

/-- The fate of a window. An open context whose save area is not written yet is feathered (R478). (DEDUCED, log entry 26) -/
def Chip.winFate (c : Chip) (p : Plan) (core i : Nat) (w : WinE) (x : CtxE) : WinFate :=
  let q := c.part x.part
  let wd := (c.world (p.worldOf w.party)).st
  -- R355 records every Deckle window of a world restart UNRUN, those of a partition that called for it too
  if q.st == .restarting && (c.partEntry x.part).any (fun e => e.rsp == 3) && (wd == .restarting || wd == .failed) then .unrun
  else if q.st != .run || q.skipOn.contains (c.lowCore core, i) || (x.open_ && ((c.savedCtx core w.ctx).damaged || c.regionHeld core x))
    || (c.eight (core / 8)).pwr != .on then .silent
  else if wd == .restarting || wd == .failed then .unrun
  else if wd != .run then .silent
  else if !c.pairRuns core then .unrun
  else .run

/-- What the cox loads for a window (R25, R42 to R45). -/
def Plan.runCtx (p : Plan) (core i : Nat) (w : WinE) (x : CtxE) : RunCtx :=
  { win := i, ctx := w.ctx, open_ := x.open_, party := w.party, world := p.worldOf w.party, part := x.part
    level := x.level, pred := x.pred, asid := BitVec.ofNat 12 x.asid, l1i := BitVec.ofNat 4 x.l1i
    l1d := BitVec.ofNat 4 x.l1d, tmBase := x.tmBase, tmSize := x.tmSize, saveBase := x.saveBase, bound := x.bound
    xl1i := w.xl1i, xl1d := w.xl1d, xwb := w.xwb, start := w.start, closeAt := w.start + w.length - w.guard
    codeAt := w.start + w.entry, acc := (p.accsOf core).filter (fun q => q.window == i) }

/-- The state every window's start gives a pipeline beside the context's registers. A pending predictor update is made at the
exit of its window (R167, R168). -/
def Pipe.clean (p : Pipe) : Pipe :=
  { p.dropFab with cycle := 0, stalled := 0, issued := false, gap := 0, fly := [], stores := [], occ := [], pend := none, stall := none
                   closing := false, got := [], farBars := [], pred := { p.pred with upd := [] } }

/-- The registers of a timed window: all cleared but the program counter, W62, ST, and CSG and SSG as captured through the
world segment table (R26, R207); the chip is that after the reads. An ENTRYOFF that is no multiple of 8 acts as the one below
it. (DESIGN CHOICE, log entry 78) -/
def Chip.timedArch (c : Chip) (core : Nat) (p : Pipe) (x : RunCtx) (q : CtxE) : Chip × Arch :=
  let a : Arch := { st := BitVec.ofNat 32 (q.level + b2n x.world * 4 + 8), pc := BitVec.ofNat 32 (q.entryOff / 8 * 8) }
  let p := { p with arch := a }
  let (c, csg, _) := c.capture core p x q.level q.entrySel
  let (c, ssg, _) := c.capture core p x q.level q.ssg
  (c, ((a.setSeg 0 csg).setSeg 2 ssg).setW 62 q.spInit)

/-- ST of an open context as it is restored: WORLD is the party's, TIMED is 0, LEVEL that of its CONTEXT entry at its first
window, and PRED shows whether prediction is active (R71, R168, R178). R168 has prediction active when PCTL enables the part
concerned: with some of the three parts enabled ST.PRED reads 1. (DESIGN CHOICE, log entry 76) -/
def openSt (st : Nat) (x : RunCtx) (first : Bool) (pctl : Nat) : Nat :=
  let st := if first then setBits st 1 0 x.level else st
  setBits (setBits (setBits st 2 2 (b2n x.world)) 3 3 0) 5 5 (b2n (x.predOn && pctl % 8 != 0))

/-- The registers of an open window: those saved, with the ASID of the plan (R224); a context started from the reset state
captures CSG from ENTRYSEL (R27, R478), its line of L1D filled where it is missing. The chip is that after the read. -/
def Chip.openArch (c : Chip) (core : Nat) (p : Pipe) (x : RunCtx) (q : CtxE) : Chip × Arch :=
  let s := c.savedCtx core x.ctx
  let a := c.loadArch core x.ctx q.area
  let a := a.setCreg 0x46 q.asid
  let st := openSt a.st.toNat x s.first (a.acting 0x62)
  let a := { a with st := BitVec.ofNat 32 st, eff := tset 0 a.eff 0 (BitVec.ofNat 32 st) }
  if s.fresh then
    let (c, csg, _) := c.capture core { p with arch := a } x a.level q.entrySel
    (c, a.setSeg 0 csg)
  else (c, a)

/-- The scrambling key of an open context: a fresh one where R171 calls for it. (DEDUCED, log entry 73) -/
def Chip.ctxKey (c : Chip) (core ctx : Nat) : Chip × Quad :=
  let s := c.savedCtx core ctx
  if s.keyNew then
    let (c, v) := c.draw
    let k := BitVec.ofNat 64 v
    (c.setSaved core ctx { s with key := k, keyNew := false }, k)
  else (c, s.key)

/-- The predictor at an open window's entry (R170). (DEDUCED, log entry 73) -/
def Predictor.enter (r : Predictor) (key : Quad) (drop : Bool) : Predictor :=
  let r := if drop then r.invalidate else r
  { r with hist := 0, rs := [], key := key, keyEff := key, upd := [] }

/-- The far operations outstanding complete: at the exit work of their window, where the spans that outlast the closing instant
have not ended yet, and before the core's next window (R69). (DESIGN CHOICE, log entry 97) -/
def Chip.farFinish (c : Chip) (core pi : Nat) : Chip := c.farEnd core pi (fun _ => true)

/-- The entry work of a timed window. -/
def Chip.enterTimed (c : Chip) (core pi : Nat) (x : RunCtx) (q : CtxE) : Chip :=
  let c := { c with hub := c.hub.setSlice (c.lowCore core) {} }
  let p := (c.pipe pi).clean
  let (c, a) := c.timedArch core p x q
  c.setPipe pi { p with arch := a, run := .run, ctx := some x }

/-- The entry work of an open window. -/
def Chip.enterOpen (c : Chip) (core pi : Nat) (x : RunCtx) (q : CtxE) : Chip :=
  let c := if (c.savedCtx core x.ctx).have_ then c else c.writeFreshOne core x.ctx q x.world none
  let c := c.loadSlice core x.ctx q.area
  let (c, key) := c.ctxKey core x.ctx
  let p := (c.pipe pi).clean
  let p := if p.lastOpen = some x.party then p else { p with tlb := [], wc := [] }
  let drop := x.pred && p.lastPred != some x.party
  let p := { p with
    pred := p.pred.enter key drop
    lastOpen := some x.party
    lastPred := if x.pred then some x.party else p.lastPred }
  let (c, a) := c.openArch core p x q
  let c := c.setSaved core x.ctx { c.savedCtx core x.ctx with first := false }
  c.setPipe pi { p with arch := a, run := .run, ctx := some x }

/-- WINDOW_START: window `i` of an architectural core at its START. Its entry band counts as cycles not feathered (R252, R418).
(DESIGN CHOICE, log entry 28) (DEDUCED, log entry 99) -/
def Chip.windowStart (c : Chip) (core i : Nat) : Chip :=
  match c.livePlan with
  | none => c
  | some p =>
    match (p.winsOf core)[i]? with
    | none => c
    | some w =>
      match (p.ctxsOf core)[w.ctx]? with
      | none => c
      | some q =>
        let busy := match c.pipeOf core with
          | some pi => (c.pipe pi).ctx.isSome
          | none => false
        if !c.strokeOn || !runsIn w.divm1 w.phase c.stroke || busy then c
        else
          let c := c.reach (c.granuleAt w.start)
          match c.winFate p core i w q, c.pipeOf core with
          | .silent, _ =>
            let s := c.part q.part
            c.setPart q.part { s with skipOn := s.skipOn.filter (· != (c.lowCore core, i)) }
          | .unrun, _ => c.ovrRecord ⟨core, i, w.ctx, 4, 0, 0⟩
          | .run, none => c
          | .run, some pi =>
            let x := p.runCtx core i w q
            let c := c.farFinish core pi
            let c := if q.open_ then c.enterOpen core pi x q else c.enterTimed core pi x q
            let c := (c.count pi 0x18 1).count pi 0x01 (16 * (x.codeAt - x.start))
            c.emitSync core (c.pipe pi) x (if (c.enc core).pwr = 0 then 0 else 3)

/-! ### Closing and exit work (R55, R56, R193, R237, R252) -/

/-- The exit actions a window names (R237). -/
def Chip.exitActions (c : Chip) (core : Nat) (x : RunCtx) : Chip :=
  let m := c.mctx core x
  let c := if x.xl1i then c.setL1 core true ((c.l1 core true).exitInv m.l1i 128) else c
  let c := if x.xl1d then c.setL1 core false ((c.l1 core false).exitInv m.l1d 128) else c
  if x.xwb then c.exitWb m else c

/-- The granules of the exit work: the save of an open context and the exit actions, and the one of a timed window's closing
(R30, R31). -/
def RunCtx.exitGranules (x : RunCtx) : Nat :=
  (if x.open_ then 12 else 1) + 2 * b2n x.xl1i + 2 * b2n x.xl1d + 136 * b2n x.xwb

/-- The core becomes feathered at the end of the exit work, which counts as cycles not feathered (R252, R418), and its far
operations complete (R69). After WEND or a fault of a timed window its PWR stands already in the trace (R411). (DEDUCED, log
entry 99) -/
def Chip.feather (c : Chip) (core pi : Nat) (x : RunCtx) : Chip :=
  let c := (c.farFinish core pi).count pi 0x01 (16 * x.exitGranules)
  let p := c.pipe pi
  let told := p.run == .halted || (!x.open_ && p.run != .run)
  let c := if told then c else c.emitPwr core { p with stalled := p.stalled + 16 * x.exitGranules } x 0
  let p := c.pipe pi
  let till := c.now + 20 * x.exitGranules
  c.setPipe pi { { p with pred := p.pred.applyAll }.clean with arch := {}, run := .feathered, ctx := none, guardTill := till }

/-- The registers a stop between two bundles saves: a REPI repetition resumes at its prefix (R88). -/
def Arch.stopped (a : Arch) : Arch :=
  { a with rep := match a.rep with
      | some r => if r.repi then none else some r
      | none => none }

/-- Save an open context: its registers, its key and its slice (R27, R171, R280). -/
def Chip.saveOpen (c : Chip) (core pi : Nat) (x : RunCtx) : Chip :=
  let p := c.pipe pi
  let base := x.saveBase * 64
  let c := (c.saveArch core x.ctx base p.arch.stopped).saveSlice core x.ctx base
  c.setSaved core x.ctx { c.savedCtx core x.ctx with key := p.pred.key }

/-- Mark a context damaged (R56, R193). -/
def Chip.damage (c : Chip) (core ctx : Nat) : Chip :=
  c.setSaved core ctx { c.savedCtx core ctx with damaged := true }

/-- The SPARE pipelines of an eight; a quarantine in swing needs one in both eights (R259, R267). -/
def Chip.spares (c : Chip) (e : Nat) : Nat :=
  let n (k : Nat) : Nat := ((List.range 9).filter (fun i => tget .service (c.eight k).pst i == .spare)).length
  if c.inSwing e then Nat.min (n (e / 2 * 2)) (n (e / 2 * 2 + 1)) else n e

/-- Whether an eight has more quarantined cores with windows to run than SPARE pipelines to take them (R15). -/
def Chip.short (c : Chip) (e : Nat) : Bool :=
  let ts := ((c.eight e).trig.filter (fun t => t.rank == 1 && !((c.livePlan.map (·.winsOf t.core)).getD []).isEmpty)).map Trigger.core
  decide (c.spares e < ((List.range 64).filter ts.contains).length)

/-- Quarantine of a core: the event, the journal, and the substitution trigger of rank 1 (R193, R254, R274); a yield falls due
where no SPARE pipeline is left for it (R15). -/
def Chip.quarantineCore (c : Chip) (core : Nat) : Chip :=
  let e := core / 8
  let x := c.eight e
  let c := ((c.setEight e { x with quarCore := if x.quarCore.contains core then x.quarCore else x.quarCore ++ [core]
                                   trig := x.trig ++ [⟨1, core, c.now, false⟩] }).raise (eightSrc e 5)).deviceRecord .quarantine
  if c.short e then c.fallDue else c

/-- The exit work of a window whose core has stopped. (DESIGN CHOICE, log entry 28) -/
def Chip.exitWindow (c : Chip) (e : Env) : Chip :=
  let c := if (c.pipe e.pi).run == .halted then c else c.drain e
  let c := match (c.pipe e.pi).run with
    | .halted =>
      (((c.saveSlice e.core e.x.ctx (e.x.saveBase * 64)).damage e.core e.x.ctx).quarantineCore e.core).callRestart e.x.part
    | .abandoned => ((c.saveOpen e.core e.pi e.x).damage e.core e.x.ctx).callRestart e.x.part
    | _ => if e.x.open_ then c.saveOpen e.core e.pi e.x else c
  (c.exitActions e.core e.x).feather e.core e.pi e.x

/-- A pipeline that has stopped for good in its window, whatever boundary it stands at. -/
def RunState.finished : RunState → Bool
  | .run => false
  | _ => true

/-- CLOSING_INSTANT: the far operations whose spans end by now complete (R69), overruns of a timed window are judged, and the
exit work is done; an open window not at a boundary runs on to the next one (R55, R56, R194), without fetch-ahead (R175).
Outbound steps it triggers fall due (R310). -/
def Chip.closingInstant (c : Chip) (core : Nat) : Chip :=
  match c.env? core with
  | none => c
  | some e =>
    let c := c.reach (c.granuleAt e.x.closeAt)
    let c := if e.p.closing then c else c.stepsDue core e.x.win
    let c := c.setPipe e.pi (c.pipe e.pi).dropFab
    if !e.x.open_ then
      let c := c.farEnd core e.pi (fun f => decide (f.until_ ≤ 16 * (e.x.closeAt - e.x.codeAt)))
      let c := match (c.pipe e.pi).run with
        | .run => c.overrun core e.pi e.x 0 0 0
        | .faulted code off => c.overrun core e.pi e.x 1 code off
        | _ => c
      c.exitWindow e
    else if e.p.run.finished || e.p.atBoundary then c.exitWindow e
    else c.setPipe e.pi { c.pipe e.pi with closing := true }

/-- Before a bundle issues or an interrupt is taken past the closing instant, the cox stops the core at a boundary and does the
exit work instead (R56). -/
def Chip.orExit (c : Chip) (core : Nat) (f : Chip → Chip) : Chip :=
  match c.env? core with
  | none => f c
  | some e => if e.p.closing && (e.p.run.finished || e.p.atBoundary) then c.exitWindow e else f c

/-- The value that a bundle's own MTC gives CT. -/
def mtcCt (a : Arch) (ops : List (Slot × CoreOp)) : Option Pair :=
  ops.findSome? (fun q => match q.2 with
    | .mtc n x => if n.val = 2 then some (BitVec.ofNat 32 (a.rx x)) else none
    | _ => none)

/-- The registers in a stall: the issue cycle of a REPI iteration that waits for a fill has ended, so CT holds the iteration's
own MTC or counts it done (R87). A bundle that waits for a reply is held at issue, and CT with it (R477). -/
def Pipe.stalledArch (p : Pipe) : Arch :=
  match p.stall, p.arch.rep with
  | some (.miss _ _ ops true), some ⟨true, k⟩ => { p.arch with ct := (mtcCt p.arch ops).getD (BitVec.ofNat 32 (k - 1)) }
  | _, _ => p.arch

/-- NISTALL: an open window has not reached a boundary BOUND granules after its closing instant (R55, R56). -/
def Chip.nistall (c : Chip) (core : Nat) : Chip :=
  match c.env? core with
  | none => c
  | some e =>
    if !e.x.open_ || !e.p.closing || e.p.run.finished || e.p.atBoundary then c
    else
      let c := c.reach (c.granuleAt (e.x.closeAt + e.x.bound))
      let c := c.overrun core e.pi e.x 2 0 0
      let p := c.pipe e.pi
      let c := c.setPipe e.pi { p with fly := [], stores := [], stall := none, pend := none, arch := p.stalledArch }
      let c := (c.saveOpen core e.pi e.x).damage core e.x.ctx
      (c.exitActions core e.x).feather core e.pi e.x

/-- CORE_WAKE: the hub's line wakes a core feathered after WEND in an open window of a partition that is RUN (R28, R277, R348).
(DEDUCED, log entry 23) -/
def Chip.coreWake (c : Chip) (core : Nat) : Chip :=
  match c.env? core with
  | none => c
  | some e =>
    if e.x.open_ && e.p.run == .ended && !e.p.closing && c.hubLine core
      && (tget {} c.parts e.x.part).st == .run then c.setPipe e.pi { e.p with run := .run } else c

end Sys2Proof.Machine
end

