-- ==== Sys2Proof/Machine/Eights.lean ====
section
/-! DEFINITION. Eights: their power, the substitution of spare pipelines, array moves, aging and lockstep, and the core
commands (chapter "Eights, Lockstep and Spare Cores", R250 to R268). -/

namespace Sys2Proof.Machine

/-! ### Power (R253, R259) -/

/-- Whether a plan uses an eight: a window of its cores, an assigned L2 way, or swing (R253). -/
def Plan.usesEight (p : Plan) (e : Nat) : Bool :=
  p.swing.testBit (e / 2) || (List.range 8).any (fun k => !(p.winsOf (8 * e + k)).isEmpty) || (p.l2Of e).any Option.isSome

/-- The maps and pipeline states of an eight whose retired pipelines are known (R9, R259); a CORE_SUBST outstanding stays so
(R255). (DEDUCED, log entry 39) -/
def Chip.freshMaps (c : Chip) (e : Nat) (x : Eight) : Eight :=
  let good := (List.range 9).filter (fun i => !c.power.retired.contains (9 * e + i))
  let st (i : Nat) : PipeSt :=
    if !good.contains i then .retired else if (good.take 8).contains i then .service else .spare
  let lost := (List.range 8).filter (fun k => good.length ≤ k)
  { x with
    map := (List.range 8).map (fun k => good[k]?)
    amap := List.range 8, spareArr := some 8, move := none, trig := x.trig.filter (·.rank == 4), aging := []
    pst := (List.range 9).foldl (fun t i => tset .service t i (st i)) []
    quarCore := lost.map (8 * e + ·), stuck := lost.map (8 * e + ·) }

/-- Power-up of an eight begins (R253). -/
def Chip.powerUp (c : Chip) (e : Nat) : Chip :=
  let x := c.eight e
  if x.pwr == .on then c else c.setEight e { x with pwr := .up }

/-- EIGHT_POWER_UP_COMPLETE: tight memory reads 0, every line is invalid, and the maps are those of R9 and R259. -/
def Chip.poweredUp (c : Chip) (e : Nat) : Chip :=
  let x := c.eight e
  if x.pwr != .up then c
  else
    let lo := tightBase + 9 * e * 0x1_0000
    let c := { c with mem := tclear c.mem (2 * lo) (2 * 9 * 0x1_0000), tmBad := tclear c.tmBad lo (9 * 0x1_0000)
                      sets := tclear c.sets (9 * e) 9 }
    let c := (List.range 9).foldl (fun c i =>
      let p := c.pipe (9 * e + i)
      c.setPipe (9 * e + i) { core := p.core, coreEff := p.coreEff }) c
    let c := c.setEight e (c.freshMaps e { x with pwr := .on, l2 := {}, clrL2 := 0, clrL1 := [] })
    (List.range 8).foldl (fun c i => if (c.enc (8 * e + i)).pwr = 2 then c.emitSyncAny (8 * e + i) 3 else c) c

/-- EIGHT_POWER_DOWN: an eight the live plan does not use is gated once its clearing has finished. -/
def Chip.poweredDown (c : Chip) (e : Nat) : Chip :=
  let x := c.eight e
  if x.pwr == .down && x.clrL2 == 0 && x.clrL1.isEmpty then
    (List.range 8).foldl (fun c i => c.emitGated (8 * e + i) 2) (c.setEight e { x with pwr := .gated })
  else c

/-! ### Self-test (R259) -/

/-- CORE_SELF_TEST_COMPLETE: a pipeline in TEST becomes SPARE, or RETIRED and journaled. (DEDUCED, log entry 39) -/
def Chip.selfTest (c : Chip) (pi : Nat) (pass : Bool) : Chip :=
  let e := pi / 9
  let x := c.eight e
  if tget .service x.pst (pi % 9) != .test then c
  else
    let c := c.setEight e { x with pst := tset .service x.pst (pi % 9) (if pass then .spare else .retired) }
    let c := c.setFld (0x020 + pi) 0x100 14 13 (if pass then 1 else 2)
    let c := if pass then c
      else (({ c with power := { c.power with
        retired := if c.power.retired.contains pi then c.power.retired else c.power.retired ++ [pi] } }).deviceRecord
          .retirement).alarmRecord .retiredPipe
    c.finishAll 0x0021 pi (if pass then stDone else stState) []

/-! ### Substitution (R254 to R258) -/

/-- The lowest SPARE pipeline of an eight, by its index. -/
def Eight.spare? (x : Eight) : Option Nat := (List.range 9).find? (fun i => tget .service x.pst i == .spare)

/-- The per-core registers that a substitution copies: WSTL and WSTH of both worlds (R256). -/
def wstRegs : List Nat := [0x40, 0x41, 0x140, 0x141]

/-- The new pipeline's registers and counters are those of the old one (R256 step 2). -/
def Chip.copyCore (c : Chip) (old new : Nat) : Chip :=
  let p := c.pipe old
  let pick (t : Tbl Pair) : Tbl Pair := wstRegs.foldl (fun r k => tset 0 r k (tget 0 t k)) []
  let c := c.setPipe new { core := pick p.core, coreEff := pick p.coreEff }
  (List.range 24).foldl (fun c i => c.setLive (0x020 + new) (0x140 + 2 * i) (c.live (0x020 + old) (0x140 + 2 * i))) c

/-- The predictor, TLB and walk cache of a pipeline become invalid (R171, R218). -/
def Chip.dropPredictor (c : Chip) (pi : Nat) : Chip :=
  let p := c.pipe pi
  c.setPipe pi { p with pred := {}, tlb := [], wc := [], lastOpen := none, lastPred := none }

/-- Connect a core to pipeline `i` of its eight (R256); its mismatch count and quarantine end, and so does its CORE_SUBST, but
for one whose trigger came too late for this catch: such triggers take effect at the following one (R255). In swing the twin's
predictor and TLB are invalidated too; both keep the keys of their contexts (R258). -/
def Chip.substitute (c : Chip) (core i : Nat) : Chip :=
  let e := core / 8
  let x := c.eight e
  let old := x.map.getD (core % 8) none
  let c := match old with
    | some o => c.copyCore (9 * e + o) (9 * e + i)
    | none => c.setPipe (9 * e + i) {}
  let c := match old with
    | some o =>
      let p := c.pipe (9 * e + o)
      c.setPipe (9 * e + o) { core := p.core, coreEff := p.coreEff }
    | none => c
  let pst := match old with
    | some o => tset .service x.pst o .test
    | none => x.pst
  let c := c.setEight e { x with
    map := x.map.set (core % 8) (some i), pst := tset .service pst i .service
    aging := match old with | some o => terase x.aging o | none => x.aging
    quarCore := x.quarCore.filter (· != core), stuck := x.stuck.filter (· != core) }
  -- MISCNT counts since the core's last substitution; in swing the lower eight counts for both
  let low := c.lowCore core
  let c := if (low / 8) % 2 = 0 then c.setFld (0x010 + low / 8) 0x10E (4 * (core % 8) + 3) (4 * (core % 8)) 0 else c
  let c := if c.inSwing e then
      match c.pipeOf (if core = low then core + 8 else low) with
      | some pi => c.dropPredictor pi
      | none => c
    else c
  let c := c.deviceRecord .substitution
  if (c.eight e).trig.any (fun t => t.rank == 4 && t.core == core) then c else c.finishAll 0x0020 core stDone []

/-- Whether the cause of a trigger of rank 2 to 4 still holds (R255). -/
def Chip.causeHolds (c : Chip) (t : Trigger) : Bool :=
  match t.rank with
  | 2 =>
    let pg := 0x010 + t.core / 8
    c.fld pg 0x020 5 2 != 0
      && decide (c.fld pg 0x020 5 2 ≤ c.fld pg 0x10E (4 * (t.core % 8) + 3) (4 * (t.core % 8)))
  | 3 => (match (c.eight (t.core / 8)).map.getD (t.core % 8) none with
    | some i => decide (16 ≤ tget 0 (c.eight (t.core / 8)).aging i)
    | none => false)
  | 4 => (c.opOf 0x0020 t.core).isSome
  | _ => false

/-- A core is quarantined with its windows unrun, in swing with its twin (R255, R267). -/
def Chip.strand (c : Chip) (core : Nat) : Chip :=
  let mark (c : Chip) (a : Nat) : Chip :=
    let x := c.eight (a / 8)
    c.setEight (a / 8) { x with stuck := if x.stuck.contains a then x.stuck else x.stuck ++ [a] }
  if c.inSwing (core / 8) then mark (mark c core) (core + 8) else mark c core

/-- A trigger that finds no SPARE pipeline: the event; a quarantined core stays quarantined with its windows unrun, and the
others are kept, to be raised again at each later catch while their cause holds (R15, R255). (DEDUCED, log entry 44) -/
def Chip.noSpare (c : Chip) (t : Trigger) : Chip :=
  let e := t.core / 8
  let c := (c.raise (eightSrc e 4)).alarmRecord .spareOut
  if t.rank = 1 then c.strand t.core
  else
    let x := c.eight e
    c.setEight e { x with trig := x.trig ++ [{ t with again := true }] }

/-- Serve one trigger at a catch: whether its core moved. A mismatch trigger, and a quarantine in swing, need a SPARE pipeline
in both eights (R266, R267). (DEDUCED, log entry 44) -/
def Chip.serve (c : Chip) (t : Trigger) : Chip × Bool :=
  let e := t.core / 8
  if t.again ∧ c.causeHolds t = false then (c, false)
  else if t.rank = 2 ∨ (t.rank = 1 ∧ c.inSwing e = true) then
    match (c.eight e).spare?, (c.eight (e + 1)).spare? with
    | some i, some j => ((c.substitute t.core i).substitute (t.core + 8) j, true)
    | _, _ => (c.noSpare t, false)
  else match (c.eight e).spare? with
    | some i => (c.substitute t.core i, true)
    | none => (c.noSpare t, false)

/-- Put a trigger in its place: by rank, then by core (R254). -/
def insTrigger (t : Trigger) : List Trigger → List Trigger
  | [] => [t]
  | u :: us => if t.rank < u.rank || (t.rank == u.rank && decide (t.core < u.core)) then t :: u :: us else u :: insTrigger t us

/-- Serve the triggers due at a catch, in order, once each core; those of a core that has moved are done, and those behind one
that found no SPARE pipeline stay (R254, R255). `failed` lists the cores that found none. -/
def Chip.serveAll (c : Chip) (done failed : List Nat) : List Trigger → Chip
  | [] => c
  | t :: ts =>
    if done.contains t.core then c.serveAll done failed ts
    else if failed.contains t.core then
      let x := c.eight (t.core / 8)
      (c.setEight (t.core / 8) { x with trig := x.trig ++ [{ t with again := true }] }).serveAll done failed ts
    else
      let r := c.serve t
      if r.2 then r.1.serveAll (t.core :: done) failed ts else r.1.serveAll done (t.core :: failed) ts

/-- The triggers of an eight due at a catch, raised at least one granule before it (R255). A quarantine of the higher eight of
a swing pair is served with the lower's (R267). -/
def Chip.substCatch (c : Chip) (e : Nat) : Chip :=
  let x := c.eight e
  let due (t : Trigger) : Bool := decide (t.at_ + 20 ≤ c.catchAt)
  let c := c.setEight e { x with trig := x.trig.filter (fun t => !due t) }
  c.serveAll [] [] (((x.trig.filter due).filter (fun t => !(c.swingHigh t.core && t.rank == 1))).foldl
    (fun l t => insTrigger t l) [])

/-! ### Array moves (R260) -/

/-- ARRAY_COPY_COMPLETE: the copy of the core's arrays is in the spare array set; an uncorrectable word is copied poisoned.
(DEDUCED, log entry 40) -/
def Chip.arrayCopied (c : Chip) (e : Nat) : Chip :=
  let x := c.eight e
  match x.move with
  | none => c
  | some mv =>
    if mv.done then c
    else
      let src := c.tmAddr mv.core 0
      let dst := tightBase + (9 * e + mv.dest) * 0x1_0000
      let c := { c with mem := tcopy c.mem (2 * src) (2 * dst) 0x2_0000, tmBad := tcopy c.tmBad src dst 0x1_0000 }
      c.setEight e { x with move := some { mv with done := true } }

/-- At the first catch after the copy the spare array set takes over the connection. -/
def Chip.moveCatch (c : Chip) (e : Nat) : Chip :=
  let x := c.eight e
  match x.move with
  | none => c
  | some mv =>
    if !mv.done then c
    else
      let old := x.amap.getD (mv.core % 8) 0
      let c := c.setArr (9 * e + mv.dest) (c.arr (9 * e + old))
      let c := c.setEight e { x with
        amap := x.amap.set (mv.core % 8) mv.dest, spareArr := some old, move := none }
      c.finishAll 0x0022 mv.core stDone []

/-! ### Core commands (R268) -/

/-- CORE_SUBST. -/
def Chip.coreSubst (c : Chip) (q : Req) (core : Nat) : Chip :=
  c.roleCmd q 0x0020 [BitVec.ofNat 16 core] installer (fun c =>
    let e := core / 8
    let x := c.eight e
    if x.spare?.isNone then (c, .now stNoSpare [])
    else if (c.opOf 0x0020 core).isSome then (c, .now stBusy [])
    else (c.setEight e { x with trig := x.trig ++ [⟨4, core, c.now, false⟩] }, .later core))

/-- CORE_TEST. -/
def Chip.coreTest (c : Chip) (q : Req) (pi : Nat) : Chip :=
  c.roleCmd q 0x0021 [BitVec.ofNat 16 pi] installer (fun c =>
    let x := c.eight (pi / 9)
    let st := tget .service x.pst (pi % 9)
    if st == .service || st == .test then (c, .now stState [])
    else (c.setEight (pi / 9) { x with pst := tset .service x.pst (pi % 9) .test }, .later pi))

/-- ARRAY_MOVE. (DEDUCED, log entry 40) -/
def Chip.arrayMove (c : Chip) (q : Req) (core : Nat) : Chip :=
  c.roleCmd q 0x0022 [BitVec.ofNat 16 core] installer (fun c =>
    let e := core / 8
    let x := c.eight e
    match x.move, x.spareArr with
    | none, some d => (c.setEight e { x with move := some ⟨core, d, false⟩ }, .later core)
    | _, _ => (c, .now stBusy []))

/-! ### Wear (R261, R262) -/

/-- AGING_SAMPLE: the margin of a pipeline in ps. -/
def Chip.agingSample (c : Chip) (pi margin : Nat) : Chip :=
  let e := pi / 9
  let pg := 0x020 + pi
  if (c.eight e).pwr != .on then c
  else
    let c := c.setFld pg 0x102 9 0 margin
    let c := c.setFld pg 0x102 19 10 (Nat.min margin (c.fld pg 0x102 19 10))
    let c := if margin < c.fld pg 0x020 9 0 then (c.setFld pg 0x102 20 20 1).raise (eightSrc e 3) else c
    match c.coreOf pi with
    | none => c
    | some core =>
      let x := c.eight e
      let n := if margin < c.fld pg 0x020 19 10 then tget 0 x.aging (pi % 9) + 1 else 0
      let x := { x with aging := tset 0 x.aging (pi % 9) n }
      if c.fld pg 0x020 20 20 == 1 && decide (16 ≤ n) && !x.trig.any (fun t => t.rank == 3 && t.core == core) then
        (c.setEight e { x with trig := x.trig ++ [⟨3, core, c.now, false⟩] }).setFld pg 0x102 21 21 1
      else c.setEight e x

/-! ### Lockstep (R264 to R267) -/

/-- The overrun policy SWCTL.MISP stands for (R57, R266). -/
def mispPolicy (misp : Nat) : Nat := match misp with | 0 => 3 | 2 => 4 | _ => 2

/-- The count of a core reaches MISTHR: both pipelines are due for substitution (R266 step 5). -/
def Chip.mismatchTrigger (c : Chip) (core : Nat) : Chip :=
  let x := c.eight (core / 8)
  let again := x.trig.any (fun t => t.rank == 2 && t.core == core)
  if c.causeHolds ⟨2, core, 0, false⟩ && !again then
    c.setEight (core / 8) { x with trig := x.trig ++ [⟨2, core, c.now, false⟩] }
  else c

/-- What the checker records of a mismatch: MISA to MISC, the count, the log, the event (R266 step 3). -/
def Chip.mismatchRecord (c : Chip) (core kind item g : Nat) (x : RunCtx) : Chip :=
  let pg := 0x010 + core / 8
  let c := if c.fld pg 0x10A 26 26 = 1 then c
    else ((c.setLive pg 0x108 (core + kind % 8 * 2 ^ 6 + c.stroke % 2 ^ 16 * 2 ^ 16)).setLive pg 0x10A
      (g % 2 ^ 26 + 2 ^ 26)).setLive pg 0x10C item
  let c := c.bumpFld pg 0x10E (4 * (core % 8) + 3) (4 * (core % 8))
  let c := c.ovrRecord ⟨core, x.win, x.ctx, 3, 0, 0⟩
  (c.raise (eightSrc (core / 8) 1)).trigger 4

/-- A pipeline stops at a mismatch: what is in flight and every access not released yet is discarded, far operations issued
before its cycle complete (R266). -/
def Chip.stopTwin (c : Chip) (core pi : Nat) : Chip :=
  let p := c.pipe pi
  let c := match p.ctx with
    | some x => c.emitPwr core p x 0
    | none => c
  c.setPipe pi { p.clean with
    arch := {}, run := .mismatched, ctx := none, far := p.far.filter (fun f => decide (f.issue < p.cycle)) }

/-- A mismatch of a core of the lower eight, of a kind and item, found in its cycle (R266). The slice of an open context ends
with its window: the sources on its stack are acknowledged no more, and entries of the stack saved before are stale (R271,
R280). (DEDUCED, log entry 25) -/
def Chip.mismatch (c : Chip) (core kind item : Nat) : Chip :=
  match c.env? core with
  | none => c
  | some v =>
    if !(c.inSwing (core / 8) && (core / 8) % 2 == 0) then c
    else
      let g := v.x.codeAt + (v.p.cycle + v.p.stalled + 2) / 16
      let c := c.reach (c.granuleAt g)
      let c := { c with hub := (c.hub.dropStack (c.hub.slice core).stack).setSlice core {} }
      let c := [core, core + 8].foldl (fun c a => c.setSaved a v.x.ctx { c.savedCtx a v.x.ctx with marks := [] }) c
      let c := c.stopTwin core v.pi
      let c := match c.pipeOf (core + 8) with
        | some pj => c.stopTwin (core + 8) pj
        | none => c
      let c := c.mismatchRecord core kind item g v.x
      let c := c.callPolicy v.x.part (mispPolicy (c.fld (0x010 + core / 8) 0x020 1 0)) []
      c.mismatchTrigger core

/-! ### The twin runs the same bundles (R263, R264) -/

/-- A table in which the `n` keys from `lo` are those of another. -/
def tfrom {α : Type} (t u : Tbl α) (lo n : Nat) : Tbl α :=
  tsplice t lo n (u.filter (fun e => lo ≤ e.1 && e.1 < lo + n))

/-- A chip with what belongs to the higher eight `h` of a pair, for its core `a`, taken from another: pipelines, array sets and
tight memory, the eight's L2, the kept state of the core's contexts, and the registers of its CORE pages and of its L2. -/
def Chip.withHigh (c d : Chip) (h a : Nat) : Chip :=
  let lo := tightBase + 9 * h * 0x1_0000
  let page := 0x010 + h
  let regs := tfrom c.regs d.regs (regKey (0x020 + 9 * h) 0) (regKey (0x020 + 9 * h + 9) 0 - regKey (0x020 + 9 * h) 0)
  let regs := tfrom regs d.regs (regKey page 0) (regKey page 0x020 - regKey page 0)
  let regs := tfrom regs d.regs (regKey page 0x300) (regKey page 0x320 - regKey page 0x300)
  { c with
    pipes := tfrom c.pipes d.pipes (9 * h) 9
    sets := tfrom c.sets d.sets (9 * h) 9
    eights := tfrom c.eights d.eights h 1
    mem := tfrom c.mem d.mem (2 * lo) (2 * 9 * 0x1_0000)
    tmBad := tfrom c.tmBad d.tmBad lo (9 * 0x1_0000)
    saved := tfrom c.saved d.saved (savedKey a 0) 256
    regs := regs }

/-- The register writes of two twins compared, those a step has made in either: the kind and item of the first that differ. -/
def regDiff (o1 o2 n1 n2 : Arch) : Option (Nat × Nat) :=
  let w (n : Nat) : Bool := (o1.rw n != n1.rw n || o2.rw n != n2.rw n) && n1.rw n != n2.rw n
  let v (n : Nat) : Bool := (o1.rv n != n1.rv n || o2.rv n != n2.rv n) && n1.rv n != n2.rv n
  let a (n : Nat) : Bool :=
    (List.range 8).any (fun j => (o1.racc n j != n1.racc n j || o2.racc n j != n2.racc n j) && n1.racc n j != n2.racc n j)
  let k (f : Arch → Pair) : Bool := (f o1 != f n1 || f o2 != f n2) && f n1 != f n2
  (((List.range 64).find? w <|> (List.range 16).find? v <|> (List.range 4).find? a).map (fun n => (0, n)))
  <|> (if k Arch.st then some (1, 0) else if k Arch.fl then some (1, 1) else if k Arch.ct then some (1, 2)
       else if k Arch.lk then some (1, 3) else none)

/-- The first word outside the pair's tight memory that two memories hold differently. -/
def memDiff (m n : List Host.Cell) : Option Nat :=
  let out (x : List Host.Cell) : List Host.Cell := x.filter (fun e => decide (e.1 < 2 * tightBase))
  if out m = out n then none
  else ((m ++ n).find? (fun e => decide (e.1 < 2 * tightBase) && readByte m e.1 != readByte n e.1)).map (fun e => e.1 / 2)

/-- The outbound part of an access, by its word address. -/
def Target.out : Target → Option Nat
  | .mem a _ | .reg a => some a
  | .tight _ => none

/-- The outbound stores that are due, as the checker compares them: word address, words and data; those of a MOVO that still
reads its source have none yet. -/
def Pipe.outStores (p : Pipe) : List (Nat × Nat × Oct) :=
  (p.stores.filter (fun s => decide (s.at_ ≤ p.cycle))).filterMap (fun s =>
    s.dst.out.map (fun a => (a, s.n, if s.src.isNone then s.data else 0)))

/-- The outbound reads of a pipeline, as the checker compares them: word address, kind (0 fetch, 1 line, 2 uncached access, 3
source of a MOVO) and words. -/
def Chip.outReads (c : Chip) (core : Nat) : List (Nat × Nat × Nat) :=
  match c.env? core with
  | none => []
  | some e =>
    (e.p.stores.filter (fun s => decide (s.at_ ≤ e.p.cycle))).filterMap
      (fun s => (s.src.bind Target.out).map (fun a => (a, 3, s.n)))
    ++ (match e.p.stall with
        | none => []
        | some (.ifetch line _) => [(line * 32, 0, 32)]
        | some (.miss done lost ops _) =>
          ((c.linesOf { e with done := done, lost := lost } ops).take 1).map (fun l => (l.1 * 32, 1, 32))
        | some (.uncached _ _ ops _) =>
          ((uncachedWant e ops).bind (fun q =>
            (c.goesTo e { q with noEcc := true }).bind (fun t => t.out.map (fun a => (a, 2, q.n))))).toList)

/-- The first of two lists of accesses that differ. -/
def listDiff {α : Type} [DecidableEq α] : List (Nat × α) → List (Nat × α) → Option Nat
  | [], [] => none
  | x :: _, [] => some x.1
  | [], y :: _ => some y.1
  | x :: xs, y :: ys => if x = y then listDiff xs ys else some x.1

/-- What the checker finds of one step of two twins, core `a` in `c1` and its twin in `c2`: the kind and item of a mismatch. A
window event in one eight only is kind WINDOW whatever else it changes (R267); then registers come first, stores, and other
accesses. (DESIGN CHOICE, log entry 84) -/
def Chip.twinDiff (c c1 c2 : Chip) (a pi pj : Nat) : Option (Nat × Nat) :=
  let p := c.pipe pi
  let q := c.pipe pj
  let p1 := c1.pipe pi
  let q1 := c2.pipe pj
  let far (r : Pipe) : List (Nat × Bool × Oct) := r.far.map (fun f => (f.qaddr, f.wr, f.data))
  (if p1.run != q1.run || p1.pend != q1.pend || p1.arch.crab != q1.arch.crab then some (4, 0) else none)
  <|> regDiff p.arch q.arch p1.arch q1.arch
  <|> ((listDiff p.outStores q.outStores <|> memDiff c1.mem c2.mem).map (fun a => (2, a % 2 ^ 32)))
  <|> ((listDiff (far p1) (far q1) <|> listDiff (c1.outReads a) (c2.outReads (a + 8))).map (fun a => (3, a % 2 ^ 32)))

/-- A step of an architectural core. In swing a core of the lower eight steps with its twin, which runs the same bundle on the
same inputs and sends nothing itself; where the two differ nothing of the step leaves the pair and the mismatch is handled. A
core of the higher eight has no step of its own (R263, R264). (DEDUCED, log entry 25) -/
def Chip.onCore (c : Chip) (core : Nat) (f : Nat → Chip → Chip) : Chip :=
  if !c.inSwing (core / 8) then f core c
  else if c.swingHigh core then c
  else
    let c1 := f core c
    let c2 := f (core + 8) c
    let d := c1.withHigh c2 (core / 8 + 1) (core + 8)
    match c.pipeOf core, c.pipeOf (core + 8) with
    | some pi, some pj =>
      (match c.twinDiff c1 c2 core pi pj with
       | some (kind, item) => c.mismatch core kind item
       | none => d)
    | _, _ => d

/-- A pair enters swing with equal twins: the higher eight's arrays and kept contexts become those of the lower. (DESIGN
CHOICE, log entry 84) -/
def Chip.equalize (c : Chip) (e : Nat) : Chip :=
  (List.range 8).foldl (fun c k =>
    let a := 8 * e + k
    let b := a + 8
    let c := { c with
      mem := tcopy c.mem (2 * c.tmAddr a 0) (2 * c.tmAddr b 0) 0x2_0000
      tmBad := tcopy c.tmBad (c.tmAddr a 0) (c.tmAddr b 0) 0x1_0000
      saved := tcopy c.saved (savedKey a 0) (savedKey b 0) 256 }
    c.setArr (c.arrOf b) (c.arr (c.arrOf a))) (c.setEight (e + 1) { c.eight (e + 1) with l2 := (c.eight e).l2 })

end Sys2Proof.Machine
end

