-- ==== Sys2Proof/Machine/RowsControl.lean ====
section
/-! DEFINITION. What each command does: the core: control registers, repetition, system calls, translation, caches, prediction,
stalls (R119 to R242, R477). -/

namespace Sys2Proof.Machine

/-- The number of a selector register (R119). -/
def SelReg.creg : SelReg → Fin 128
  | .vecs => 0x20
  | .vecm => 0x21
  | .stks => 0x24
  | .stkm => 0x25
  | .syscss => 0x2A
  | .syscsm => 0x2B

/-- MFC (R119). -/
def execMfc (core : Fin 64) (creg : Fin 128) (xr : Fin 32) (s : State) : Result :=
  s.does fun c => c.onCore core.val (fun a c => c.orExit a (fun c => c.issueOp a .b (.mfc creg xr)))

/-- MTC (R119). -/
def execMtc (core : Fin 64) (creg : Fin 128) (xr : Fin 32) (s : State) : Result :=
  s.does fun c => c.onCore core.val (fun a c => c.orExit a (fun c => c.issueOp a .b (.mtc creg xr)))

/-- MTC_SELECTOR (R189). -/
def execMtcSelector (core : Fin 64) (which : SelReg) (xr : Fin 32) (s : State) : Result :=
  s.does fun c => c.onCore core.val (fun a c => c.orExit a (fun c => c.issueOp a .b (.mtc which.creg xr)))

/-- PKEYH_WRITE (R166). -/
def execPkeyhWrite (core : Fin 64) (xr : Fin 32) (s : State) : Result :=
  s.does fun c => c.onCore core.val (fun a c => c.orExit a (fun c => c.issueOp a .b (.mtc 0x61 xr)))

/-- TLBRD_WRITE (R219). -/
def execTlbrdWrite (core : Fin 64) (xr : Fin 32) (s : State) : Result :=
  s.does fun c => c.onCore core.val (fun a c => c.orExit a (fun c => c.issueOp a .b (.mtc 0x4C xr)))

/-- WCCTL_INV (R222). -/
def execWcctlInv (core : Fin 64) (xr : Fin 32) (s : State) : Result :=
  s.does fun c => c.onCore core.val (fun a c => c.orExit a (fun c => c.issueOp a .b (.mtc 0x4D xr)))

/-- REP (R81). -/
def execRep (core : Fin 64) (k : RepKind) (s : State) : Result :=
  s.does fun c => c.onCore core.val (fun a c => c.orExit a (fun c => c.issueOp a .b (.rep k)))

/-- REPI (R87). -/
def execRepi (core : Fin 64) (s : State) : Result :=
  s.does fun c => c.onCore core.val (fun a c => c.orExit a (fun c => c.issueOp a .b (.repi)))

/-- SYSE (R187). -/
def execSyse (core : Fin 64) (lv : Fin 4) (code : Word) (s : State) : Result :=
  s.does fun c => c.onCore core.val (fun a c => c.orExit a (fun c => c.issueOp a .b (.syse lv code)))

/-- SYSR (R188). -/
def execSysr (core : Fin 64) (s : State) : Result :=
  s.does fun c => c.onCore core.val (fun a c => c.orExit a (fun c => c.issueOp a .b (.sysr)))

/-- ERET (R186). -/
def execEret (core : Fin 64) (s : State) : Result :=
  s.does fun c => c.onCore core.val (fun a c => c.orExit a (fun c => c.issueOp a .b (.eret)))

/-- WEND (R28). -/
def execWend (core : Fin 64) (s : State) : Result :=
  s.does fun c => c.onCore core.val (fun a c => c.orExit a (fun c => c.issueOp a .b (.wend)))

/-- TLBW (R213). -/
def execTlbw (core : Fin 64) (wr : Fin 64) (s : State) : Result :=
  s.does fun c => c.onCore core.val (fun a c => c.orExit a (fun c => c.issueOp a .b (.tlbw wr)))

/-- TLBI (R217). -/
def execTlbi (core : Fin 64) (o : TlbiOp) (s : State) : Result :=
  s.does fun c => c.onCore core.val (fun a c => c.orExit a (fun c => c.issueOp a .b (.tlbi o)))

/-- TWALK (R220). -/
def execTwalk (core : Fin 64) (o : TwalkOp) (s : State) : Result :=
  s.does fun c => c.onCore core.val (fun a c => c.orExit a (fun c => c.issueOp a .b (.twalk o)))

/-- PREFD (R234). -/
def execPrefd (core : Fin 64) (o : CacheArg) (s : State) : Result :=
  s.does fun c => c.onCore core.val (fun a c => c.orExit a (fun c => c.issueOp a .b (.cache .prefd o)))

/-- PREFI (R234). -/
def execPrefi (core : Fin 64) (o : CacheArg) (s : State) : Result :=
  s.does fun c => c.onCore core.val (fun a c => c.orExit a (fun c => c.issueOp a .b (.cache .prefi o)))

/-- PREF2 (R234). -/
def execPref2 (core : Fin 64) (o : CacheArg) (s : State) : Result :=
  s.does fun c => c.onCore core.val (fun a c => c.orExit a (fun c => c.issueOp a .b (.cache .pref2 o)))

/-- DCWB (R234). -/
def execDcwb (core : Fin 64) (o : CacheArg) (s : State) : Result :=
  s.does fun c => c.onCore core.val (fun a c => c.orExit a (fun c => c.issueOp a .b (.cache .dcwb o)))

/-- DCINV (R234). -/
def execDcinv (core : Fin 64) (o : CacheArg) (s : State) : Result :=
  s.does fun c => c.onCore core.val (fun a c => c.orExit a (fun c => c.issueOp a .b (.cache .dcinv o)))

/-- DCWBI (R234). -/
def execDcwbi (core : Fin 64) (o : CacheArg) (s : State) : Result :=
  s.does fun c => c.onCore core.val (fun a c => c.orExit a (fun c => c.issueOp a .b (.cache .dcwbi o)))

/-- ICINV (R234). -/
def execIcinv (core : Fin 64) (o : CacheArg) (s : State) : Result :=
  s.does fun c => c.onCore core.val (fun a c => c.orExit a (fun c => c.issueOp a .b (.cache .icinv o)))

/-- DLOCK (R235). -/
def execDlock (core : Fin 64) (o : CacheArg) (s : State) : Result :=
  s.does fun c => c.onCore core.val (fun a c => c.orExit a (fun c => c.issueOp a .b (.cache .dlock o)))

/-- DUNLK (R234). -/
def execDunlk (core : Fin 64) (o : CacheArg) (s : State) : Result :=
  s.does fun c => c.onCore core.val (fun a c => c.orExit a (fun c => c.issueOp a .b (.cache .dunlk o)))

/-- ILOCK (R235). -/
def execIlock (core : Fin 64) (o : CacheArg) (s : State) : Result :=
  s.does fun c => c.onCore core.val (fun a c => c.orExit a (fun c => c.issueOp a .b (.cache .ilock o)))

/-- IUNLK (R234). -/
def execIunlk (core : Fin 64) (o : CacheArg) (s : State) : Result :=
  s.does fun c => c.onCore core.val (fun a c => c.orExit a (fun c => c.issueOp a .b (.cache .iunlk o)))

/-- MBAR (R242). -/
def execMbar (core : Fin 64) (kind : Fin 16) (s : State) : Result :=
  s.does fun c => c.onCore core.val (fun a c => c.orExit a (fun c => c.issueOp a .b (.mbar kind)))

/-- PFLUSH (R172). -/
def execPflush (core : Fin 64) (scope : Fin 2) (s : State) : Result :=
  s.does fun c => c.onCore core.val (fun a c => c.orExit a (fun c => c.issueOp a .b (.pflush scope)))

/-- PBAR (R173). -/
def execPbar (core : Fin 64) (s : State) : Result :=
  s.does fun c => c.onCore core.val (fun a c => c.orExit a (fun c => c.issueOp a .b (.pbar)))

/-- PREDICTOR_UPDATE (R167). -/
def execPredictorUpdate (core : Fin 64) (s : State) : Result :=
  s.does fun c => c.onCore core.val (fun a c => c.predictorUpdate a)

/-- FETCH_AHEAD (R175). -/
def execFetchAhead (core : Fin 64) (s : State) : Result :=
  s.does fun c => c.onCore core.val (fun a c => c.fetchAheadStep a)

/-- FILL_ARRIVAL (R80). -/
def execFillArrival (core : Fin 64) (cycles : Word) (s : State) : Result :=
  s.does fun c => c.onCore core.val (fun a c => c.fillArrival a cycles.toNat)

/-- UNCACHED_REPLY (R477). -/
def execUncachedReply (core : Fin 64) (err : Bool) (cycles : Word) (s : State) : Result :=
  s.does fun c => c.onCore core.val (fun a c => c.uncachedReply a err cycles.toNat)

/-- EXCEPTION_ENTRY (R183). -/
def execExceptionEntry (core : Fin 64) (s : State) : Result :=
  s.does fun c => c.onCore core.val (fun a c => c.orExit a (fun c => c.exceptionEntry a))

/-- CORE_WAKE (R277). -/
def execCoreWake (core : Fin 64) (s : State) : Result :=
  s.does fun c => c.onCore core.val (fun a c => c.coreWake a)

end Sys2Proof.Machine
end

