-- ==== Sys2Proof/Machine/RowsCore.lean ====
section
/-! DEFINITION. What each command does: the core: issue, results, the arithmetic and memory operations (R62 to R157). -/

namespace Sys2Proof.Machine

/-- BUNDLE_ISSUE (R95). -/
def execBundleIssue (core : Fin 64) (s : State) : Result :=
  s.does fun c => c.onCore core.val (fun a c => c.orExit a (fun c => c.issueBundle a))

/-- RESULT_LANDING (R64). -/
def execResultLanding (core : Fin 64) (s : State) : Result :=
  s.does fun c => c.onCore core.val (fun a c => c.endCycle a)

/-- ALU_OPERATION (R97). -/
def execAluOperation (core : Fin 64) (onB : Bool) (o : AluOp) (s : State) : Result :=
  s.does fun c => c.onCore core.val (fun a c => c.orExit a (fun c => c.issueOp a (if onB then .b else .a) (.alu o)))

/-- IMMEDIATE_OPERATION (R98). -/
def execImmediateOperation (core : Fin 64) (onB : Bool) (o : ImmOp) (s : State) : Result :=
  s.does fun c => c.onCore core.val (fun a c => c.orExit a (fun c => c.issueOp a (if onB then .b else .a) (.imm o)))

/-- MOVI (R99). -/
def execMovi (core : Fin 64) (onB : Bool) (o : MoviOp) (s : State) : Result :=
  s.does fun c => c.onCore core.val (fun a c => c.orExit a (fun c => c.issueOp a (if onB then .b else .a) (.movi o)))

/-- BR (R101). -/
def execBr (core : Fin 64) (disp : BitVec 26) (s : State) : Result :=
  s.does fun c => c.onCore core.val (fun a c => c.orExit a (fun c => c.issueOp a .b (.br disp)))

/-- BC (R102). -/
def execBc (core : Fin 64) (cond : Cond) (disp : BitVec 22) (s : State) : Result :=
  s.does fun c => c.onCore core.val (fun a c => c.orExit a (fun c => c.issueOp a .b (.bc cond disp)))

/-- BZ (R101). -/
def execBz (core : Fin 64) (wt : Fin 64) (disp : BitVec 20) (s : State) : Result :=
  s.does fun c => c.onCore core.val (fun a c => c.orExit a (fun c => c.issueOp a .b (.bz wt disp)))

/-- BNZ (R101). -/
def execBnz (core : Fin 64) (wt : Fin 64) (disp : BitVec 20) (s : State) : Result :=
  s.does fun c => c.onCore core.val (fun a c => c.orExit a (fun c => c.issueOp a .b (.bnz wt disp)))

/-- CALL (R74). -/
def execCall (core : Fin 64) (disp : BitVec 26) (s : State) : Result :=
  s.does fun c => c.onCore core.val (fun a c => c.orExit a (fun c => c.issueOp a .b (.call disp)))

/-- BRI (R103). -/
def execBri (core : Fin 64) (xt : Fin 32) (s : State) : Result :=
  s.does fun c => c.onCore core.val (fun a c => c.orExit a (fun c => c.issueOp a .b (.bri xt)))

/-- CALLI (R103). -/
def execCalli (core : Fin 64) (xt : Fin 32) (s : State) : Result :=
  s.does fun c => c.onCore core.val (fun a c => c.orExit a (fun c => c.issueOp a .b (.calli xt)))

/-- RET (R103). -/
def execRet (core : Fin 64) (s : State) : Result :=
  s.does fun c => c.onCore core.val (fun a c => c.orExit a (fun c => c.issueOp a .b (.ret)))

/-- LOAD (R104). -/
def execLoad (core : Fin 64) (o : LmOp) (s : State) : Result :=
  s.does fun c => c.onCore core.val (fun a c => c.orExit a (fun c => c.issueOp a .l (.load o)))

/-- STORE (R104). -/
def execStore (core : Fin 64) (o : LmOp) (s : State) : Result :=
  s.does fun c => c.onCore core.val (fun a c => c.orExit a (fun c => c.issueOp a .l (.store o)))

/-- MOVO (R106). -/
def execMovo (core : Fin 64) (o : MovoOp) (s : State) : Result :=
  s.does fun c => c.onCore core.val (fun a c => c.orExit a (fun c => c.issueOp a .l (.movo o)))

/-- FLD (R69). -/
def execFld (core : Fin 64) (o : FldOp) (s : State) : Result :=
  s.does fun c => c.onCore core.val (fun a c => c.orExit a (fun c => c.issueOp a .l (.fld o)))

/-- FST (R69). -/
def execFst (core : Fin 64) (o : FstOp) (s : State) : Result :=
  s.does fun c => c.onCore core.val (fun a c => c.orExit a (fun c => c.issueOp a .l (.fst o)))

/-- FAR_OPERATION_COMPLETE (R69). -/
def execFarOperationComplete (core : Fin 64) (s : State) : Result :=
  s.does fun c => c.onCore core.val (fun a c => c.farComplete a)

/-- LSEG (R108). -/
def execLseg (core : Fin 64) (sg : Fin 8) (ws : Fin 64) (s : State) : Result :=
  s.does fun c => c.onCore core.val (fun a c => c.orExit a (fun c => c.issueOp a .l (.lseg sg ws)))

/-- MFS (R108). -/
def execMfs (core : Fin 64) (sg : Fin 8) (ws : Fin 64) (s : State) : Result :=
  s.does fun c => c.onCore core.val (fun a c => c.orExit a (fun c => c.issueOp a .l (.mfs sg ws)))

/-- CASP (R109). -/
def execCasp (core : Fin 64) (o : CaspOp) (s : State) : Result :=
  s.does fun c => c.onCore core.val (fun a c => c.orExit a (fun c => c.issueOp a .l (.casp o)))

/-- MUL (R134). -/
def execMul (core : Fin 64) (o : MulOp) (s : State) : Result :=
  s.does fun c => c.onCore core.val (fun a c => c.orExit a (fun c => c.issueOp a .m (.mul o)))

/-- DIV (R135). -/
def execDiv (core : Fin 64) (o : DivOp) (s : State) : Result :=
  s.does fun c => c.onCore core.val (fun a c => c.orExit a (fun c => c.issueOp a .m (.div o)))

/-- MULQ15 (R138). -/
def execMulq15 (core : Fin 64) (o : MulqOp) (s : State) : Result :=
  s.does fun c => c.onCore core.val (fun a c => c.orExit a (fun c => c.issueOp a .m (.mulq o)))

/-- FADD (R143). -/
def execFadd (core : Fin 64) (o : FpOp) (s : State) : Result :=
  s.does fun c => c.onCore core.val (fun a c => c.orExit a (fun c => c.issueOp a .m (.fp .add o)))

/-- FSUB (R143). -/
def execFsub (core : Fin 64) (o : FpOp) (s : State) : Result :=
  s.does fun c => c.onCore core.val (fun a c => c.orExit a (fun c => c.issueOp a .m (.fp .sub o)))

/-- FMUL (R143). -/
def execFmul (core : Fin 64) (o : FpOp) (s : State) : Result :=
  s.does fun c => c.onCore core.val (fun a c => c.orExit a (fun c => c.issueOp a .m (.fp .mul o)))

/-- FMA (R113). -/
def execFma (core : Fin 64) (o : Fp3Op) (s : State) : Result :=
  s.does fun c => c.onCore core.val (fun a c => c.orExit a (fun c => c.issueOp a .m (.fma false o)))

/-- FMSB (R113). -/
def execFmsb (core : Fin 64) (o : Fp3Op) (s : State) : Result :=
  s.does fun c => c.onCore core.val (fun a c => c.orExit a (fun c => c.issueOp a .m (.fma true o)))

/-- FMIN (R150). -/
def execFmin (core : Fin 64) (o : FpOp) (s : State) : Result :=
  s.does fun c => c.onCore core.val (fun a c => c.orExit a (fun c => c.issueOp a .m (.fp .min o)))

/-- FMAX (R150). -/
def execFmax (core : Fin 64) (o : FpOp) (s : State) : Result :=
  s.does fun c => c.onCore core.val (fun a c => c.orExit a (fun c => c.issueOp a .m (.fp .max o)))

/-- FNEG (R149). -/
def execFneg (core : Fin 64) (o : FpOp) (s : State) : Result :=
  s.does fun c => c.onCore core.val (fun a c => c.orExit a (fun c => c.issueOp a .m (.fp .neg o)))

/-- FABS (R149). -/
def execFabs (core : Fin 64) (o : FpOp) (s : State) : Result :=
  s.does fun c => c.onCore core.val (fun a c => c.orExit a (fun c => c.issueOp a .m (.fp .abs o)))

/-- FCMP (R151). -/
def execFcmp (core : Fin 64) (o : FpOp) (s : State) : Result :=
  s.does fun c => c.onCore core.val (fun a c => c.orExit a (fun c => c.issueOp a .m (.fp .cmp o)))

/-- FCMPS (R151). -/
def execFcmps (core : Fin 64) (o : FpOp) (s : State) : Result :=
  s.does fun c => c.onCore core.val (fun a c => c.orExit a (fun c => c.issueOp a .m (.fp .cmps o)))

/-- FCLASS (R112). -/
def execFclass (core : Fin 64) (o : FpOp) (s : State) : Result :=
  s.does fun c => c.onCore core.val (fun a c => c.orExit a (fun c => c.issueOp a .m (.fp .class o)))

/-- FREC (R156). -/
def execFrec (core : Fin 64) (o : FpOp) (s : State) : Result :=
  s.does fun c => c.onCore core.val (fun a c => c.orExit a (fun c => c.issueOp a .m (.fp .frec o)))

/-- FRSQ (R157). -/
def execFrsq (core : Fin 64) (o : FpOp) (s : State) : Result :=
  s.does fun c => c.onCore core.val (fun a c => c.orExit a (fun c => c.issueOp a .m (.fp .frsq o)))

/-- FCVT (R114). -/
def execFcvt (core : Fin 64) (o : FcvtOp) (s : State) : Result :=
  s.does fun c => c.onCore core.val (fun a c => c.orExit a (fun c => c.issueOp a .m (.fcvt o)))

/-- VMAC (R115). -/
def execVmac (core : Fin 64) (o : VmacOp) (s : State) : Result :=
  s.does fun c => c.onCore core.val (fun a c => c.orExit a (fun c => c.issueOp a .m (.vmac o)))

/-- VFMA (R116). -/
def execVfma (core : Fin 64) (o : VfmaOp) (s : State) : Result :=
  s.does fun c => c.onCore core.val (fun a c => c.orExit a (fun c => c.issueOp a .m (.vfma o)))

/-- SWEEP_LANE_OPERATION (R117). -/
def execSweepLaneOperation (core : Fin 64) (o : SweepOp) (s : State) : Result :=
  s.does fun c => c.onCore core.val (fun a c => c.orExit a (fun c => c.issueOp a .m (.sweep o)))

/-- VEXT (R118). -/
def execVext (core : Fin 64) (o : VextOp) (s : State) : Result :=
  s.does fun c => c.onCore core.val (fun a c => c.orExit a (fun c => c.issueOp a .m (.vext o)))

/-- VAPUT (R118). -/
def execVaput (core : Fin 64) (o : VaputOp) (s : State) : Result :=
  s.does fun c => c.onCore core.val (fun a c => c.orExit a (fun c => c.issueOp a .m (.vaput o)))

end Sys2Proof.Machine
end

