-- ==== Sys2Proof/Machine/RowsDiag.lean ====
section
/-! DEFINITION. What each command does: trace and the counters (R404 to R424). -/

namespace Sys2Proof.Machine

/-- TRIGGER (R414). -/
def execTrigger (src : Fin 6) (s : State) : Result :=
  s.does fun c => c.traceTrigger src.val

/-- WAKE_END (R414). -/
def execWakeEnd (s : State) : Result :=
  s.does fun c => c.wakeEnd

/-- TRACE_FIRE (R414). -/
def execTraceFire (unit : Fin 67) (x : Pair) (s : State) : Result :=
  s.does fun c => c.writeBy unit.val 0x0F4 0x020 (x.toNat ||| 4)

/-- TRACE_OVERFLOW (R413). -/
def execTraceOverflow (core : Fin 64) (s : State) : Result :=
  s.does fun c => c.traceOverflow core.val

/-- FRAME_SEND (R412). -/
def execFrameSend (core : Fin 64) (s : State) : Result :=
  s.does fun c => c.frameSend core.val

/-- DIAG_WRITE (R416). -/
def execDiagWrite (q : Req) (page : Word) (off : Word) (x : Pair) (s : State) : Result :=
  s.does fun c => c.diagWrite q page.toNat off.toNat x.toNat

/-- DIAG_READ (R416). -/
def execDiagRead (q : Req) (src : Word) (first : Pair) (count : Pair) (addr : Quad) (s : State) : Result :=
  s.does fun c => c.diagRead q src.toNat first.toNat count.toNat addr.toNat

/-- COUNTER_OVERFLOW (R420). -/
def execCounterOverflow (pi : Fin 72) (k : Fin 8) (s : State) : Result :=
  s.does fun c => c.counterOverflow pi.val k.val

/-- PMCNT_READ (R421). -/
def execPmcntRead (unit : Fin 67) (pi : Fin 72) (k : Fin 8) (s : State) : Result :=
  s.does fun c => c.readBy unit.val (0x020 + pi.val) (0x150 + 4 * k.val)

/-- PMCNT_WRITE (R421). -/
def execPmcntWrite (unit : Fin 67) (pi : Fin 72) (k : Fin 8) (lo : Pair) (hi : Pair) (s : State) : Result :=
  s.does fun c => (c.writeBy unit.val (0x020 + pi.val) (0x150 + 4 * k.val) lo.toNat).writeBy unit.val
    (0x020 + pi.val) (0x152 + 4 * k.val) hi.toNat

/-- BLOCK_COUNTER_WINDOW_END (R422). -/
def execBlockCounterWindowEnd (s : State) : Result :=
  s.does fun c => c.blockWindow

/-- SNAPSHOT_ARM (R423). -/
def execSnapshotArm (unit : Fin 67) (freeze : Bool) (s : State) : Result :=
  s.does fun c => c.writeBy unit.val 0x0F5 0x024 (1 + 2 * b2n freeze)

/-- FINISH_SNAPSHOT (R423). -/
def execFinishSnapshot (s : State) : Result :=
  s.does fun c => c.finishSnapshot

/-- THAW (R423). -/
def execThaw (unit : Fin 67) (s : State) : Result :=
  s.does fun c => c.writeBy unit.val 0x0F5 0x024 4

end Sys2Proof.Machine
end

