-- ==== Sys2Proof/Machine/RowsHub.lean ====
section
/-! DEFINITION. What each command does: the event hub (R269 to R287). -/

namespace Sys2Proof.Machine

/-- The page of a group register: the party window, or the page of all sources. -/
def GroupAt.page (x : GroupAt) : Nat := if x.all then 0x071 else 0x070

/-- The place of a kind of group among the groups of a page. -/
def GroupKind.num : GroupKind → Nat
  | .pend => 0
  | .ena => 1
  | .mask => 2

/-- The offset of a group register. -/
def GroupAt.off (x : GroupAt) : Nat := (if x.all then 0x100 else 0x140) + 0x40 * x.kind.num + 2 * x.g.val

/-- EVENT_OCCURRENCE (R272). -/
def execEventOccurrence (source : Fin 0x32F) (s : State) : Result :=
  s.does fun c => c.raise source.val

/-- HUB_EVALUATION (R276). -/
def execHubEvaluation (s : State) : Result :=
  s.does fun c => c.hubEvaluate

/-- MODERATION_TIMER_EXPIRY (R281). -/
def execModerationTimerExpiry (target : Fin 128) (s : State) : Result :=
  s.does fun c => c.modExpiry target.val

/-- IACK (R278). -/
def execIack (unit : Fin 67) (s : State) : Result :=
  s.does fun c => c.readBy unit.val 0x070 0x100

/-- IEOI (R279). -/
def execIeoi (unit : Fin 67) (x : Pair) (s : State) : Result :=
  s.does fun c => c.writeBy unit.val 0x070 0x102 x.toNat

/-- CFGW (R282). -/
def execCfgw (unit : Fin 67) (x : Pair) (s : State) : Result :=
  s.does fun c => c.writeBy unit.val 0x070 0x10E x.toNat

/-- SWSET (R287). -/
def execSwset (unit : Fin 67) (x : Pair) (s : State) : Result :=
  s.does fun c => c.writeBy unit.val 0x070 0x10C x.toNat

/-- GROUP_WRITE (R285). -/
def execGroupWrite (unit : Fin 67) (group : GroupAt) (x : Pair) (s : State) : Result :=
  s.does fun c => c.writeBy unit.val group.page group.off x.toNat

end Sys2Proof.Machine
end

