-- ==== Sys2Proof/Machine/RowsMemory.lean ====
section
/-! DEFINITION. What each command does: external memory and the array scrub (R319 to R341, R249). -/

namespace Sys2Proof.Machine

/-- QDR_ACCESS (R323). -/
def execQdrAccess (r : QdrReq) (s : State) : Result :=
  s.does fun c => c.qdrAccess r

/-- QDR_WINDOW_START (R33). -/
def execQdrWindowStart (ch : Fin 4) (i : Fin 1024) (s : State) : Result :=
  s.does fun c => c.qdrOpen ch.val i.val

/-- QDR_WINDOW_END (R33). -/
def execQdrWindowEnd (ch : QwinAt) (s : State) : Result :=
  s.does fun c => c.qdrClose ch.ch.val ch.i.val

/-- QDR_RECALIBRATION (R325). -/
def execQdrRecalibration (ch : Fin 4) (s : State) : Result :=
  s.does fun c => c.qdrRecal ch.val

/-- QDR_PATROL_SCRUB (R328). -/
def execQdrPatrolScrub (ch : Fin 4) (find : EccFind) (s : State) : Result :=
  s.does fun c => c.qdrScrub ch.val find

/-- LPDDR_READ (R334). -/
def execLpddrRead (r : LpdRead) (s : State) : Result :=
  s.does fun c => c.lpdRead r

/-- LPDDR_WRITE (R334). -/
def execLpddrWrite (r : LpdWrite) (s : State) : Result :=
  s.does fun c => c.lpdWrite r

/-- MR4_READING (R336). -/
def execMr4Reading (k : Fin 2) (code : Fin 8) (s : State) : Result :=
  s.does fun c => c.mr4 k.val code.val

/-- LPDDR_REFRESH (R336). -/
def execLpddrRefresh (k : Fin 2) (chan : Fin 4) (rank : Fin 2) (bank : Fin 8) (s : State) : Result :=
  s.does fun c => c.lpdRefresh k.val chan.val rank.val bank.val

/-- LPDDR_PATROL_SCRUB (R338). -/
def execLpddrPatrolScrub (k : Fin 2) (find : LpdFind) (s : State) : Result :=
  s.does fun c => c.lpdScrub k.val find

/-- MEM_DIAG (R341). -/
def execMemDiag (q : Req) (k : Fin 2) (result : Word) (count : Pair) (s : State) : Result :=
  s.does fun c => c.memDiag q k.val result.toNat count.toNat

/-- MEM_REMIRROR (R339). -/
def execMemRemirror (q : Req) (k : Fin 2) (s : State) : Result :=
  s.does fun c => c.memRemirror q k.val

/-- REMIRROR_COMPLETE (R339). -/
def execRemirrorComplete (k : Remirrored) (s : State) : Result :=
  s.does fun c => c.remirrorDone k.k.val k.trained k.lines.toNat k.found

/-- ARRAY_SCRUB (R249). -/
def execArrayScrub (place : ScrubAt) (find : EccFind) (s : State) : Result :=
  s.does fun c => c.arrayScrub place find

end Sys2Proof.Machine
end

