-- ==== Sys2Proof/Machine/BootLog.lean ====
section
/-! DEFINITION. The log of the start-up steps: when a step may run, how it ends and what it writes (R440 to R442). -/

namespace Sys2Proof.Machine

/-- The lowest step that has not ended, or 0xF (R442). (DEDUCED, log entry 49) -/
def Chip.runningStep (c : Chip) : Nat := ((List.range 13).find? (fun k => !c.power.ended.contains k)).getD 0xF

/-- The steps that must have ended before a step starts (R441). -/
def stepNeeds (k : Nat) : List Nat :=
  if k ≤ 7 then List.range k else if k ≤ 10 then List.range 8 else if k = 11 then [10] else [9, 11]

/-- Whether a step is running: the chip starts up, the step has not ended, and those before it have (R428, R441). -/
def Chip.stepRuns (c : Chip) (k : Nat) : Bool :=
  (if k = 0 then c.power.st == .rom else c.power.st == .startup || (k == 8 && c.power.st == .run))
  && !c.power.ended.contains k && (stepNeeds k).all c.power.ended.contains

/-- The handle of a step (R442). -/
def Chip.stepHandle (c : Chip) (k : Nat) : Nat := 0x1000 * (c.live 0x003 0x102 % 16) + 0x0F00 + k

/-- The completion record of a step as BOOTLOGk holds it, in the form of R317 (R442). -/
def Chip.bootRecord (c : Chip) (k : Nat) : List Word :=
  (List.range 4).flatMap (fun j => toWords 2 (c.live 0x005 (0x140 + 8 * k + 2 * j)))

/-- The record of a step goes to the journal as a device record: its data are the eight words of the record, and its STATUS is
that of the step (R361, R442). (DEDUCED, log entry 49) -/
def Chip.bootJournal (c : Chip) (k : Nat) : Chip :=
  c.dataRecord .boot (c.live 0x005 (0x144 + 8 * k) % 2 ^ 16) (c.bootRecord k)

/-- A step ends: BOOTLOGk, LCHSTAT, and from step 3 on the journal (R442). (DEDUCED, log entry 49) (DESIGN CHOICE, log entry
51) -/
def Chip.stepEnd (c : Chip) (k status detail data : Nat) : Chip :=
  let o := 0x140 + 8 * k
  let c := c.setLive 0x005 o (c.stepHandle k + (0x00B0 + k) * 2 ^ 16)
  let c := c.setLive 0x005 (o + 2) (c.now % 2 ^ 32)
  let c := c.setLive 0x005 (o + 4) (status + detail % 2 ^ 16 * 2 ^ 16)
  let c := c.setLive 0x005 (o + 6) (data % 2 ^ 32)
  let c := { c with power := { c.power with ended := k :: c.power.ended } }
  let c := c.setLive 0x005 0x110 (c.runningStep + status * 2 ^ 16)
  if 3 ≤ k then c.bootJournal k else c

/-- A step ends whose data no rule names. (DESIGN CHOICE, log entry 51) -/
def Chip.stepEndFree (c : Chip) (k status detail : Nat) : Chip :=
  let (c, v) := c.draw
  c.stepEnd k status detail v

/-- A step ends FAILED with nothing to fall back on: SAFE (R428). -/
def Chip.stepSafe (c : Chip) (k detail : Nat) : Chip :=
  let c := (c.stepEndFree k stFailed detail).setFld 0x005 0x110 3 0 0xF
  { c with power := { c.power with st := .safe } }

/-- Step RELEASE ends at the first catch. -/
def Chip.bootEnd (c : Chip) : Chip := c.stepEndFree 12 stDone 0

end Sys2Proof.Machine
end

