-- ==== Sys2Proof/Machine/PlanImage.lean ====
section
/-! DEFINITION. The plan image: header, directory, entries and the tables read from them (R21 to R23, R39 to R45, R307,
R388). -/

namespace Sys2Proof.Machine

/-! ### Directory and section types (R40) -/

/-- A section type: its code, the words of an entry, the largest INDEX, the most entries, whether that count is exact, and the
bits an entry defines. -/
structure SectTy where
  ty    : Nat
  words : Nat
  maxIx : Nat
  most  : Nat
  exact : Bool
  used  : Nat
  deriving DecidableEq, Repr

/-- The bits of a list of fields, each from its high to its low bit. -/
def fieldBits (l : List (Nat × Nat)) : Nat := l.foldl (fun m f => m ||| (2 ^ (f.1 + 1) - 2 ^ f.2)) 0

/-- The section types of R40 with the fields of R42 to R45, R307 and R388. (DEDUCED, log entry 63) -/
def sectTypes : List SectTy :=
  [⟨0x0001, 2, 0, 64, false, fieldBits [(7, 0)]⟩,
   ⟨0x0002, 4, 0, 256, false, fieldBits [(13, 0), (21, 16)]⟩,
   ⟨0x0003, 8, 0, 4096, false, fieldBits [(9, 0), (95, 32)]⟩,
   ⟨0x0010, 32, 63, 256, false, fieldBits [(11, 0), (43, 32), (79, 64), (127, 96), (153, 128), (167, 160), (201, 192),
      (217, 208), (233, 224), (287, 256)]⟩,
   ⟨0x0011, 8, 63, 4096, false, fieldBits [(25, 0), (61, 32), (101, 64), (111, 104), (127, 112)]⟩,
   ⟨0x0012, 4, 63, 16384, false, fieldBits [(14, 0), (57, 16)]⟩,
   ⟨0x0020, 2, 3, 512, true, fieldBits [(18, 0)]⟩,
   ⟨0x0030, 8, 3, 1024, false, fieldBits [(25, 0), (57, 32), (71, 64)]⟩,
   ⟨0x0040, 8, 31, 64, false, fieldBits [(26, 0), (51, 28), (76, 64), (92, 80), (95, 95)]⟩,
   ⟨0x0041, 2, 1, 256, false, fieldBits [(31, 0)]⟩,
   ⟨0x0050, 2, 7, 16, true, fieldBits [(5, 0), (7, 7)]⟩,
   ⟨0x0060, 8, 0, 8192, false, fieldBits [(12, 0), (28, 16), (35, 32), (57, 40), (70, 64)]⟩]

/-- The type of a code. -/
def sectType (ty : Nat) : Option SectTy := sectTypes.find? (·.ty == ty)

/-- A directory entry. -/
structure Sect where
  ty   : Nat
  idx  : Nat
  off  : Nat
  cnt  : Nat
  resv : Nat
  deriving DecidableEq, Repr

/-- The number of directory entries an image states. -/
def imgSects (ws : List Word) : Nat := pairOf ws 0x12

/-- The directory of an image. -/
def directory (ws : List Word) : List Sect :=
  (List.range (imgSects ws)).map (fun i =>
    let o := ofWords ((ws.drop (0x40 + 8 * i)).take 8)
    ⟨bits o 15 0, bits o 31 16, bits o 63 32, bits o 95 64, bits o 127 96⟩)

/-- Words an entry of a section takes. -/
def Sect.size (d : Sect) : Nat := ((sectType d.ty).map SectTy.words).getD 0

/-- The first word after a section. -/
def Sect.fin (d : Sect) : Nat := d.off + d.cnt * d.size

/-- The entries of a section, each as one number from bit 0 of its first word. -/
def Sect.entries (d : Sect) (ws : List Word) : List Nat :=
  (List.range d.cnt).map (fun j => ofWords ((ws.drop (d.off + j * d.size)).take d.size))

/-- The entries of the section of a type and index. -/
def sectOf (ws : List Word) (ty idx : Nat) : List Nat :=
  match (directory ws).find? (fun d => d.ty == ty && d.idx == idx) with
  | some d => d.entries ws
  | none => []

/-! ### Entries (R42 to R45, R307, R388) -/

/-- A PARTY entry. -/
def readParty (o : Nat) : PartyE := ⟨bits o 5 0, bitN o 6, bitN o 7⟩

/-- A PARTITION entry. -/
def readPart (o : Nat) : PartE := ⟨bits o 7 0, bits o 13 8, bits o 18 16, bits o 21 19⟩

/-- An OWNERSHIP entry. A tight-memory region is held as its 64-word units, numbered 1,024 to a core. -/
def readOwn (o : Nat) : OwnE :=
  if bits o 3 0 = 4 then
    let u := bits o 37 32 * 1024 + bits o 73 64
    ⟨4, bits o 9 4, u, u + bits o 89 80⟩
  else ⟨bits o 3 0, bits o 9 4, bits o 63 32, bits o 95 64⟩

/-- A CONTEXT entry. -/
def readCtx (o : Nat) : CtxE :=
  { part := bits o 7 0, open_ := bitN o 8, level := bits o 10 9, pred := bitN o 11, asid := bits o 43 32
    entrySel := bits o 79 64, entryOff := bits o 127 96, bound := bits o 153 128, l1i := bits o 163 160
    l1d := bits o 167 164, tmBase := bits o 201 192, tmSize := bits o 217 208 + 1, saveBase := bits o 233 224
    ssg := bits o 271 256, spInit := bits o 287 272 }

/-- A WINDOW entry. -/
def readWin (o : Nat) : WinE :=
  { start := bits o 25 0, length := bits o 57 32, open_ := bitN o 58, xl1i := bitN o 59, xl1d := bitN o 60
    xwb := bitN o 61, divm1 := bits o 75 64, phase := bits o 87 76, ctx := bits o 95 88, party := bits o 101 96
    entry := bits o 111 104, guard := bits o 127 112 }

/-- An ACCESS entry. -/
def readAcc (o : Nat) : AccE := ⟨bits o 11 0, bits o 13 12, bitN o 14, bits o 41 16, bits o 57 42⟩

/-- A SEAT entry. -/
def readSeat (o : Nat) : SeatE := ⟨bits o 4 0, bits o 9 5, bits o 11 10, bits o 17 12, bitN o 18⟩

/-- A QDRWIN entry. -/
def readQwin (o : Nat) : QwinE := ⟨bits o 25 0, bits o 57 32, bits o 69 64, bits o 71 70⟩

/-- An FPINST entry. -/
def readFpi (o : Nat) : FpiE :=
  ⟨bits o 25 0, bitN o 26, bits o 39 28, bits o 51 40, bits o 76 64, if bitN o 95 then some (bits o 92 80) else none⟩

/-- A gate control list: each entry begins where the intervals before it end. -/
def readGcl : Nat → List Nat → List GclE
  | _, [] => []
  | g, o :: os => ⟨g, bits o 7 0⟩ :: readGcl (g + bits o 31 8) os

/-- An L2MAP entry. -/
def readWay (o : Nat) : Option Nat := if bitN o 7 then some (bits o 5 0) else none

/-- A LANECONN entry: for a TRIGGER, `b` is the core and `aux` the window. -/
def readConn (o : Nat) : ConnE :=
  let k := bits o 35 32
  ⟨k, bits o 12 0, if k = 2 then bits o 45 40 else bits o 28 16, bits o 70 70, bits o 69 64, bits o 57 46⟩

/-! ### The whole image -/

/-- A table of the sections of a type by INDEX. -/
def readTbl {α : Type} [DecidableEq α] (ws : List Word) (ty : Nat) (f : List Nat → List α) : Tbl (List α) :=
  ((directory ws).filter (·.ty == ty)).foldl (fun t d => tset [] t d.idx (f (d.entries ws))) []

/-- The tables of an image. -/
def readPlan (ws : List Word) : Plan :=
  let one (ty : Nat) : List Nat := sectOf ws ty 0
  { planId := pairOf ws 0x04, seq := pairOf ws 0x06, length := ws.length, stroke := bits (pairOf ws 0x0A) 19 0 + 1
    epoch := pairOf ws 0x0C + pairOf ws 0x0E * 2 ^ 32, swing := bits (pairOf ws 0x10) 3 0
    paired := bitN (pairOf ws 0x10) 8, keyId := (trailerOf ws).1, digest := digestWords (watermark ws)
    parties := (one 1).map readParty, partitions := (one 2).map readPart, owns := (one 3).map readOwn
    ctxs := readTbl ws 0x10 (·.map readCtx), wins := readTbl ws 0x11 (·.map readWin)
    accs := readTbl ws 0x12 (·.map readAcc), seats := readTbl ws 0x20 (·.map readSeat)
    qwins := readTbl ws 0x30 (·.map readQwin), fpis := readTbl ws 0x40 (·.map readFpi)
    gcls := readTbl ws 0x41 (readGcl 0), l2map := readTbl ws 0x50 (·.map readWay), conns := (one 0x60).map readConn }

/-! ### Form (R39, R40, the structural part of BADFORMAT) -/

/-- Whether the header agrees with R21, R22 and R39. -/
def headerOk (ws : List Word) : Bool :=
  decide (0x40 + 50 ≤ ws.length) && pairOf ws 0 == 0x5354_524B && pairOf ws 2 == 0x0001_0000
  && pairOf ws 8 == ws.length && decide (pairOf ws 0x0A < 2 ^ 20) && decide (49 ≤ pairOf ws 0x0A)
  && (pairOf ws 0x0C + pairOf ws 0x0E * 2 ^ 32) % 20 == 0
  && pairOf ws 0x10 &&& 0x10F == pairOf ws 0x10
  && decide (1 ≤ imgSects ws) && decide (imgSects ws ≤ 1024) && decide (0x40 + 8 * imgSects ws ≤ ws.length - 50)
  && ((ws.drop 0x14).take 0x2C).all (· == 0)

/-- Whether a directory entry, with those before it, agrees with R40: a listed type, an INDEX in range and not repeated, its
section between the directory and the trailer, and overlapping no other. -/
def sectOk (ws : List Word) (before : List Sect) (d : Sect) : Bool :=
  match sectType d.ty with
  | none => false
  | some t =>
    d.resv == 0 && decide (d.idx ≤ t.maxIx) && decide (0x40 + 8 * imgSects ws ≤ d.off) && decide (d.fin ≤ ws.length - 50)
    && before.all (fun b => !(b.ty == d.ty && b.idx == d.idx)
        && (d.cnt == 0 || b.cnt == 0 || decide (b.fin ≤ d.off) || decide (d.fin ≤ b.off)))

/-- The first index that a test selects in a list, given its entry. -/
def firstIdx {α : Type} (l : List α) (f : Nat → α → Bool) : Option Nat :=
  ((List.range l.length).zip l).findSome? (fun q => if f q.1 q.2 then some q.1 else none)

/-- The first directory entry at fault. -/
def badSect (ws : List Word) : Option Nat :=
  let l := directory ws
  firstIdx l (fun i d => !sectOk ws (l.take i) d)

/-- The granules of the tail gap (R23). -/
def Plan.tailGap (p : Plan) : Nat := (p.stroke * 1000 + 199999) / 200000 + 2

/-- Whether two dividers and phases ever run in one stroke (R29). -/
def everMeet (d1 p1 d2 p2 : Nat) : Bool := p1 % Nat.gcd d1 d2 == p2 % Nat.gcd d1 d2

end Sys2Proof.Machine
end

