-- ==== Sys2Proof/Machine/Paths.lean ====
section
/-! DEFINITION. The worst case of a plan path: seat waits, ring transit, lane engine steps, QDR accesses and crossings, summed
component by component (R36 to R38, R265, R299, R310). Instants are in units of 0.01 ns after the catch. -/

namespace Sys2Proof.Machine

/-- Units of 0.01 ns in a granule. -/
def granUnits : Nat := 2000

/-- NCLK of a stroke of a plan. -/
def Plan.strokeCycles (p : Plan) : Nat := p.stroke * 1000

/-- The frame cycles of a source's seats on a ring, rising. -/
def Plan.seatCycles (p : Plan) (r src : Nat) : List Nat :=
  let l := p.seatsOf r
  ((List.range l.length).zip l).filterMap (fun q => if q.2.valid && q.2.src == src then some q.1 else none)

/-- The last cycle of the stroke at which a seat of a frame cycle stands: none stands in the last 44 NCLK (R299). -/
def Plan.lastSeat (p : Plan) (k : Nat) : Nat := k + (p.strokeCycles - 45 - k) / 512 * 512

/-- The largest cyclic gap between a source's seats on a ring, across the catch as R299 fixes; none without a seat. -/
def Plan.seatGap (p : Plan) (r src : Nat) : Option Nat :=
  match p.seatCycles r src with
  | [] => none
  | k :: ks =>
    let all := k :: ks
    let inFrame := ((all.zip ks).map (fun q => q.2 - q.1)).foldl Nat.max 0
    let frames := k + 512 - all.getLastD k
    let catch_ := p.strokeCycles + k - (all.map p.lastSeat).foldl Nat.max 0
    some (Nat.max inFrame (Nat.max frames catch_))

/-- The ring on which the seats of a key at a source stop lie (R296). -/
def Plan.keyRing (p : Plan) (src party dst vn : Nat) : Option Nat :=
  (List.range 4).find? (fun r => (p.seatsOf r).any (fun s =>
    s.valid && s.src == src && s.party == party && s.dst == dst && s.vn == vn))

/-- The seat wait and the ring transit from one stop to another; none where the key has no seat (R37). -/
def Plan.seatHop (p : Plan) (party src dst vn t : Nat) : Option Nat :=
  match p.keyRing src party dst vn with
  | none => none
  | some r => (p.seatGap r src).map (fun g => t + (g + 1) * 100 + (2 * hopCount r src dst + 4) * 100)

/-- The instant from which a party's QDR window on a channel is open, at or after an instant: the next stroke's windows count
(R37). -/
def Plan.qdrWait (p : Plan) (party ch t : Nat) : Option Nat :=
  let s := p.granules * granUnits
  let ws := (tget [] p.qwins ch).filter (fun q => q.party == party && q.ports != 0)
  let opens (n : Nat) : List Nat := ws.filterMap (fun q =>
    let a := (n * p.granules + q.start) * granUnits
    let b := a + q.length * granUnits
    if t < b then some (Nat.max a t) else none)
  ((opens (t / s) ++ opens (t / s + 1)).foldl (fun (m : Option Nat) x => some (match m with
    | none => x
    | some y => Nat.min x y)) none)

/-- The access of a flit at a memory stop: into its clock, and 24 QCLK inside the party's window on a QDR channel (R37). -/
def Plan.memAccess (p : Plan) (party stop t : Nat) : Option Nat :=
  let t := t + crossIn stop
  if 8 ≤ stop ∧ stop < 12 then (p.qdrWait party (stop - 8) t).map (· + cents (24 * Clk.qclk.period)) else some t

/-- The lane engine's descriptor step. -/
def laneWork (t : Nat) : Nat := t + 4800

/-- The lane engine reads an oct at a stop and has it: request, access and response. -/
def Plan.laneRead (p : Plan) (party m t : Nat) : Option Nat :=
  (p.seatHop party laneStop m 0 t).bind (fun t => (p.memAccess party m t).bind (fun t =>
    p.seatHop party m laneStop 1 (t + crossOut m)))

/-- A step of a pinned lane to a port: the read, the engine's work, and the flit to the port's stop (R310). -/
def Plan.stepOut (p : Plan) (party port m t : Nat) : Option Nat :=
  (p.laneRead party m t).bind (fun t => p.seatHop party laneStop (portStop port) 0 (laneWork t))

/-- The stops with memory that a party's seats reach from the lane engine. -/
def Plan.laneMems (p : Plan) (party : Nat) : List Nat :=
  (List.range 14).filter (fun m => (p.keyRing laneStop party m 0).isSome)

/-- The latest of some instants; none where one of them has no bound, or there is none. -/
def latest : List (Option Nat) → Option Nat
  | [] => none
  | [x] => x
  | x :: xs => x.bind (fun a => (latest xs).map (Nat.max a))

/-- The end of a guaranteed step from its cause: it starts within 4 NCLK and ends when its last flit is accepted. The memory a
descriptor names stands in no plan, so every stop the lane's seats reach counts (R310, R311). (DESIGN CHOICE, log entry 10) -/
def Plan.stepEnd (p : Plan) (party : Nat) (port : Option Nat) (t : Nat) : Option Nat :=
  latest ((p.laneMems party).map (fun m => match port with
    | some n => p.stepOut party n m (t + 400)
    | none => p.seatHop party laneStop m 0 (laneWork (t + 400))))

/-! ### Dependencies (R38) -/

/-- A value a window writes and a port transmits: the window by core and index, the pinned lane that its closing instant steps,
and the field port the lane is bound to (R38, R310). -/
structure Dep where
  core   : Nat
  window : Nat
  lane   : Nat
  port   : Nat
  deriving DecidableEq, Repr

/-- The dependencies a plan declares for a field port: the TRIGGER entries whose lane a PORT entry binds outbound to it.
(DEDUCED, log entry 63) -/
def Plan.depsOf (p : Plan) (port : Nat) : List Dep :=
  (p.conns.filter (fun q => q.kind == 2
      && p.conns.any (fun r => r.kind == 3 && r.a == q.a && r.dir == 1 && r.port == port))).map
    (fun q => ⟨q.b, q.aux, q.a, port⟩)

/-- The window of a dependency. -/
def Plan.depWin (p : Plan) (d : Dep) : WinE := (tget [] p.wins d.core).getD d.window {}

/-- The producing instant of a written value: the window's closing instant, in granules. -/
def WinE.closing (w : WinE) : Nat := w.start + w.length - w.guard

/-- The path of a written value from its producing instant to its port: the store to each QDR channel that the window's ACCESS
entries name for writing, or to its core's tight memory where they name none, and the outbound step of the lane. A producer in
swing takes two CCLK more (R37, R38, R265). (DEDUCED, log entry 63) -/
def Plan.depArrival (p : Plan) (d : Dep) : Option Nat :=
  let w := p.depWin d
  let t := w.closing * granUnits + (if p.swing.testBit (d.core / 16) then 2 * cents Clk.cclk.period else 0)
  let chans := ((tget [] p.accs d.core).filter (fun a => a.window == d.window && a.wr)).map AccE.ch
  let stop := coreStop d.core
  let deliver (m : Nat) (t : Nat) : Option Nat := (p.stepOut w.party d.port m t).map (· + crossIn (portStop d.port))
  if chans.isEmpty then deliver stop t
  else latest (chans.map (fun ch =>
    (p.seatHop w.party stop (qdrStop ch) 0 (t + crossOut stop)).bind (fun t =>
      (p.memAccess w.party (qdrStop ch) t).bind (deliver (qdrStop ch)))))

/-- The granules a dependency takes, its sum rounded up; none where a part of the path has no seat or window (R38). -/
def Plan.depGranules (p : Plan) (d : Dep) : Option Nat :=
  (p.depArrival d).map (fun t => (t - (p.depWin d).closing * granUnits + granUnits - 1) / granUnits)

/-- Something that happens at a granule of some strokes (R29). -/
structure PlanInst where
  at_   : Nat
  divm1 : Nat
  phase : Nat
  deriving DecidableEq, Repr

/-- A window's closing instant. -/
def WinE.closes (w : WinE) : PlanInst := ⟨w.closing, w.divm1, w.phase⟩

/-- The dependent instant of a value a window reads: START + ENTRY (R38). -/
def WinE.reads (w : WinE) : PlanInst := ⟨w.start + w.entry, w.divm1, w.phase⟩

/-- The instant of a field-port entry. -/
def FpiE.inst (e : FpiE) : PlanInst := ⟨e.instant, e.divm1, e.phase⟩

/-- Whether the dependent instant `b`, `m` catches later, comes sooner than the producing instant `a` plus a sum, in granules
(R29, R38). -/
def PlanInst.tooSoon (a b : PlanInst) (s n m : Nat) : Bool :=
  let t := m * s + b.at_
  decide (a.at_ ≤ t) && decide (t < a.at_ + n)
  && everMeet (a.divm1 + 1) a.phase (b.divm1 + 1) ((b.phase + m * b.divm1) % (b.divm1 + 1))

/-- Whether a dependency holds in every stroke: its sum in granules is bounded, and no dependent instant comes too soon. -/
def Plan.depHolds (p : Plan) (a b : PlanInst) (sum : Option Nat) : Bool :=
  match sum with
  | none => false
  | some n => !(List.range ((n + a.at_) / p.granules + 2)).any (a.tooSoon b p.granules n)

/-- A sum of a path that starts at a producing instant, rounded up to granules. -/
def sumGranules (a : PlanInst) (t : Option Nat) : Option Nat :=
  t.map (fun t => (t - a.at_ * granUnits + granUnits - 1) / granUnits)

/-- Whether a transmit entry of a port meets the dependencies of its lanes: no instant of it comes between a producing instant
and that instant plus the sum of its path. (DEDUCED, log entry 63) -/
def Plan.depsMet (p : Plan) (port : Nat) (e : FpiE) : Bool :=
  !e.tx || ((p.depsOf port).filter (fun d => d.lane == e.laneA || some d.lane == e.laneB)).all (fun d =>
    p.depHolds (p.depWin d).closes e.inst (p.depGranules d))

/-- The path of a sample from its instant into a party's QDR region on a channel (R37, R310). -/
def Plan.sampleArrival (p : Plan) (party ch : Nat) (e : FpiE) : Option Nat :=
  (p.seatHop party fieldStop laneStop 2 (e.instant * granUnits + cents Clk.fclk.period + crossOut fieldStop)).bind (fun t =>
    (p.seatHop party laneStop (qdrStop ch) 0 (laneWork t)).bind (p.memAccess party (qdrStop ch)))

/-- Whether the samples that a window reads from a channel have come: those of the lanes of its party, where the lane engine
has seats of the party to the channel. (DEDUCED, log entry 63) -/
def Plan.samplesMet (p : Plan) (w : WinE) (ch : Nat) : Bool :=
  (p.keyRing laneStop w.party (qdrStop ch) 0).isNone
  || (p.fpis.flatMap Prod.snd).all (fun e =>
    e.tx || !(e.laneA :: e.laneB.toList).any (fun l => p.ownerOf 1 l == some w.party)
    || p.depHolds e.inst w.reads (sumGranules e.inst (p.sampleArrival w.party ch e)))

/-- The path of a value that a window of a core stores to a channel, from its closing instant; a producer in swing takes two
CCLK more (R37, R265). -/
def Plan.storeArrival (p : Plan) (core ch : Nat) (w : WinE) : Option Nat :=
  let t := w.closing * granUnits + (if p.swing.testBit (core / 16) then 2 * cents Clk.cclk.period else 0)
  (p.seatHop w.party (coreStop core) (qdrStop ch) 0 (t + crossOut (coreStop core))).bind (p.memAccess w.party (qdrStop ch))

/-- Whether the values that other windows of the party write to a channel have come where a window reads from it. (DEDUCED, log
entry 63) -/
def Plan.valuesMet (p : Plan) (core win : Nat) (w : WinE) (ch : Nat) : Bool :=
  p.accs.all (fun t => t.2.all (fun b =>
    let v := (tget [] p.wins t.1).getD b.window {}
    !b.wr || b.ch != ch || v.party != w.party || (t.1 == core && b.window == win)
    || p.depHolds v.closes w.reads (sumGranules v.closes (p.storeArrival t.1 ch v))))

/-- Whether an ACCESS entry that reads meets its dependencies: samples, and the values of other windows (R38). (DEDUCED, log
entry 63) -/
def Plan.readsMet (p : Plan) (core : Nat) (a : AccE) : Bool :=
  let w := (tget [] p.wins core).getD a.window {}
  a.wr || (p.samplesMet w a.ch && p.valuesMet core a.window w a.ch)

end Sys2Proof.Machine
end

