-- ==== Sys2Proof/Machine/Checker.lean ====
section
/-! DEFINITION. The plan checker: the rules of R46 in the order of its table, then the codes PLAN_LOAD adds (R23, R29, R31, R33
to R35, R44, R46, R57, R270, R296, R298, R307, R311, R324, R326, R330, R343 to R345, R349, R379, R388, R443). -/

namespace Sys2Proof.Machine

/-- A refusal of the checker: its code, and the place at fault as SECTION and ENTRY. -/
abbrev PlanFault := Nat × Nat × Nat

/-- What the checker judges beside the image: the live plan, the chip and the image's words. -/
structure CheckIn where
  chip : Chip
  ws   : List Word
  p    : Plan
  dir  : List Sect
  deriving DecidableEq, Repr

/-- The first entry at fault of the sections of some types, in the order of the directory. -/
def CheckIn.first (k : CheckIn) (code : Nat) (tys : List Nat) (bad : Sect → Nat → Nat → Bool) : Option PlanFault :=
  (k.dir.filter (fun d => tys.contains d.ty)).findSome? (fun d =>
    (firstIdx (d.entries k.ws) (bad d)).map (fun j => (code, d.ty, j)))

/-! ### BADFORMAT (R42 to R46, R307, R349, R388) -/

/-- Whether a party is a valid one. -/
def Plan.hasParty (p : Plan) (q : Nat) : Bool := p.parties.any (fun e => e.party == q && e.valid)

/-- The lanes an FPINST entry names. -/
def FpiE.lanes (e : FpiE) : List Nat := e.laneA :: e.laneB.toList

/-- The PORT entry of a lane and port. -/
def Plan.portConn (p : Plan) (port l : Nat) : Option ConnE :=
  p.conns.find? (fun q => q.kind == 3 && q.a == l && q.port == port)

/-- Whether a field of an entry is malformed, beside its reserved bits. -/
def CheckIn.malformed (k : CheckIn) (d : Sect) (j o : Nat) : Bool :=
  let p := k.p
  match d.ty with
  | 0x0001 => let e := readParty o; e.valid && (p.parties.take j).any (fun q => q.valid && q.party == e.party)
  | 0x0002 =>
    let e := readPart o
    (p.partitions.take j).any (·.part == e.part) || !p.hasParty e.party || decide (4 < e.ovp) || decide (3 < e.rsp)
    || (e.rsp == 3 && !p.worldOf e.party)
  | 0x0003 =>
    let e := readOwn o
    decide (5 < e.kind) || !p.hasParty e.party || (e.kind != 4 && decide (e.last < e.first))
    || (e.kind == 4 && (bits o 63 38 != 0 || bits o 79 74 != 0 || bits o 95 90 != 0))
  | 0x0010 =>
    let e := readCtx o
    e.level == 3 || (!e.open_ && e.pred) || !p.partitions.any (·.part == e.part)
  | 0x0011 =>
    let e := readWin o
    decide (e.length < 4) || e.guard == 0 || decide (e.divm1 < e.phase) || (e.xl1d && e.xwb) || !p.hasParty e.party
    || (match (tget [] p.ctxs d.idx)[e.ctx]? with
        | none => true
        | some x => x.open_ != e.open_)
    || (decide (0 < j) && (match (tget [] p.wins d.idx)[j - 1]? with
        | none => false
        | some w => decide (e.start < w.start)))
  | 0x0012 => decide ((tget [] p.wins d.idx).length ≤ (readAcc o).window)
  | 0x0020 => let e := readSeat o; e.valid && (decide (20 < e.src) || decide (20 < e.dst) || !p.hasParty e.party)
  | 0x0030 => !p.hasParty (readQwin o).party
  | 0x0040 =>
    let e := readFpi o
    decide (e.divm1 < e.phase) || e.lanes.any (fun l => (p.portConn d.idx l).isNone)
    || (!e.tx && (match e.laneB with
        | none => false
        | some l => (p.portConn d.idx l).any (fun q => q.dir != 0)))
  | 0x0041 => bits o 31 8 == 0
  | 0x0050 => (match readWay o with
      | none => false
      | some q => !p.hasParty q)
  | 0x0060 =>
    let e := readConn o
    let before := p.conns.take j
    decide (3 < e.kind) || (e.kind == 3 && decide (34 < e.port))
    || (e.kind == 2 && decide ((tget [] p.wins e.b).length ≤ e.aux))
    || (e.kind != 2 && before.any (fun q => q.kind != 2 && q.a == e.a))
    || (decide (e.kind ≤ 1) && before.any (fun q => decide (q.kind ≤ 1) && q.b == e.b))
  | _ => false

/-- Reserved bits of an entry are 0. -/
def Sect.resvOk (d : Sect) (o : Nat) : Bool :=
  match sectType d.ty with
  | none => false
  | some t => o &&& t.used == o

/-- The exact sections that hold too few entries: the refusal reports their COUNT as its entry. (DESIGN CHOICE, log entry 95) -/
def CheckIn.tooFew (k : CheckIn) : Option PlanFault :=
  (k.dir.filter (fun d => (sectType d.ty).any (fun t => t.exact && decide (d.cnt < t.most)))).head?.map
    (fun d => (1, d.ty, d.cnt))

/-- BADFORMAT. -/
def CheckIn.badFormat (k : CheckIn) : Option PlanFault :=
  if !headerOk k.ws then some (1, 0xFFF0, 0)
  else match badSect k.ws with
    | some i => some (1, 0xFFF1, i)
    | none =>
      (k.first 1 (sectTypes.map SectTy.ty) (fun d j o => !d.resvOk o || k.malformed d j o)).or k.tooFew

/-! ### BADSIG, STALESEQ, LIMIT -/

/-- BADSIG: a fault in the trailer. -/
def CheckIn.badSig (k : CheckIn) : Option PlanFault := if k.chip.signedBy 2 k.ws then none else some (2, 0xFFF2, 0)

/-- STALESEQ: SEQ is a field of the header. -/
def CheckIn.staleSeq (k : CheckIn) : Option PlanFault :=
  match k.chip.livePlan with
  | some l => if k.p.seq ≤ l.seq then some (3, 0xFFF0, 0) else none
  | none => none

/-- LIMIT. -/
def CheckIn.limit (k : CheckIn) : Option PlanFault :=
  k.dir.findSome? (fun d => match sectType d.ty with
    | none => none
    | some t => if t.most < d.cnt then some (4, d.ty, t.most) else none)

/-! ### OVERLAP, BANDS, WCET -/

/-- Whether two windows of a core meet in time and in some stroke (R29). -/
def WinE.meets (a b : WinE) : Bool :=
  decide (a.start < b.start + b.length) && decide (b.start < a.start + a.length)
  && everMeet (a.divm1 + 1) a.phase (b.divm1 + 1) b.phase

/-- Whether two QDR windows of a channel meet in time on a port (R33). -/
def QwinE.meets (a b : QwinE) : Bool :=
  a.ports &&& b.ports != 0 && decide (a.start < b.start + b.length) && decide (b.start < a.start + a.length)

/-- OVERLAP. -/
def CheckIn.overlap (k : CheckIn) : Option PlanFault :=
  k.first 5 [0x0011, 0x0030] (fun d j o =>
    if d.ty = 0x0011 then ((tget [] k.p.wins d.idx).take j).any (readWin o).meets
    else ((tget [] k.p.qwins d.idx).take j).any (readQwin o).meets)

/-- The context a window names. -/
def Plan.winCtx (p : Plan) (core : Nat) (w : WinE) : CtxE := (tget [] p.ctxs core).getD w.ctx {}

/-- The cost of the exit actions of a window (R30). -/
def WinE.exitCost (w : WinE) : Nat := 2 * b2n w.xl1i + 2 * b2n w.xl1d + 136 * b2n w.xwb

/-- Items 1, 2 and 4 of R31. -/
def bandsOk (w : WinE) (x : CtxE) : Bool :=
  if x.open_ then
    decide (12 ≤ w.entry) && decide (x.bound + 12 + w.exitCost ≤ w.guard) && decide (w.entry + w.guard < w.length)
  else decide (2 ≤ w.entry) && decide (1 + w.exitCost ≤ w.guard)

/-- Item 3 of R31. -/
def wcetOk (w : WinE) (x : CtxE) : Bool := x.open_ || decide (w.entry + x.bound + w.guard ≤ w.length)

/-- Whether an ACCESS entry lies inside its window's room. -/
def roomOk (w : WinE) (a : AccE) : Bool :=
  decide (w.entry + a.first + w.guard < w.length) && decide (w.entry + a.first + a.span ≤ w.length)

/-- BANDS. -/
def CheckIn.bands (k : CheckIn) : Option PlanFault :=
  k.first 6 [0x0011] (fun d _ o => !bandsOk (readWin o) (k.p.winCtx d.idx (readWin o)))

/-- The window an ACCESS entry names. -/
def Plan.accWin (p : Plan) (core : Nat) (a : AccE) : WinE := (tget [] p.wins core).getD a.window {}

/-- WCET. -/
def CheckIn.wcet (k : CheckIn) : Option PlanFault :=
  k.first 0x12 [0x0011, 0x0012] (fun d _ o =>
    if d.ty = 0x0011 then !wcetOk (readWin o) (k.p.winCtx d.idx (readWin o))
    else !roomOk (k.p.accWin d.idx (readAcc o)) (readAcc o))

/-! ### SHARE -/

/-- Whether a context shares a way of L1I (or L1D) with a context of another party of its core. -/
def Plan.sharesL1 (p : Plan) (core : Nat) (x : CtxE) (i : Bool) : Bool :=
  (tget [] p.ctxs core).any (fun y => p.ctxParty y != p.ctxParty x
    && (if i then x.l1i &&& y.l1i else x.l1d &&& y.l1d) != 0)

/-- Whether two tight-memory regions meet. -/
def CtxE.regionMeets (x y : CtxE) : Bool :=
  decide (x.tmBase < y.tmBase + y.tmSize) && decide (y.tmBase < x.tmBase + x.tmSize)

/-- SHARE. -/
def CheckIn.share (k : CheckIn) : Option PlanFault :=
  let p := k.p
  k.first 7 [0x0010, 0x0011] (fun d j o =>
    if d.ty = 0x0010 then
      let x := readCtx o
      ((tget [] p.ctxs d.idx).take j).any (fun y => p.ctxParty y != p.ctxParty x && x.regionMeets y)
      || (x.open_ && !(decide (x.tmBase ≤ x.saveBase) && decide (x.saveBase + 8 ≤ x.tmBase + x.tmSize)))
    else
      let w := readWin o
      let x := p.winCtx d.idx w
      p.ctxParty x != some w.party || (p.sharesL1 d.idx x true && !w.xl1i)
      || (p.sharesL1 d.idx x false && !(w.xwb || w.xl1d)))

/-! ### CROSSING -/

/-- Hops of a seat on its ring (R288, R297). -/
def seatHops (ring : Nat) (s : SeatE) : Nat := hopCount ring s.src s.dst

/-- The instants in ns after the catch at which a party's seats bring octs to a channel's stop inside an interval (R324): no
seat stands in the last 44 NCLK of the stroke (R299). -/
def Plan.arrivals (p : Plan) (ch party lo hi : Nat) : List Nat :=
  (List.range (hi / 512 + 1 - (lo - 600) / 512)).flatMap (fun i =>
    let f := (lo - 600) / 512 + i
    (List.range 4).flatMap (fun ring =>
      let l := tget [] p.seats ring
      ((List.range l.length).zip l).filterMap (fun q =>
        let t := f * 512 + q.1
        let a := t + 2 * seatHops ring q.2 + 4
        if q.2.valid && q.2.dst == 8 + ch && q.2.party == party && decide (t + 44 < p.stroke * 1000)
          && decide (lo ≤ a) && decide (a < hi) then some a else none)))

/-- Whether the guaranteed arrivals at a QDR window keep the rate of R324: 4 octs in any 8 QCLK, or 8 with both ports. -/
def Plan.rateOk (p : Plan) (ch : Nat) (q : QwinE) : Bool :=
  let as := p.arrivals ch q.party (q.start * 20) ((q.start + q.length) * 20)
  q.ports == 0 || as.all (fun t =>
    decide ((as.filter (fun u => decide (t ≤ u) && decide (u < t + 8))).length ≤ (if q.ports = 3 then 8 else 4)))

/-- Whether an ACCESS entry lies in a QDR window of its party on its channel. -/
def Plan.accCovered (p : Plan) (core : Nat) (a : AccE) : Bool :=
  let w := p.accWin core a
  let s := w.start + w.entry + a.first
  (tget [] p.qwins a.ch).any (fun q => q.party == w.party && decide (q.start ≤ s) && decide (s + a.span ≤ q.start + q.length))

/-- CROSSING: dependencies, ACCESS entries and arrival rates, reported in the order of the directory. A dependency's place is
its transmit entry, or the ACCESS entry that reads. (DEDUCED, log entry 63) -/
def CheckIn.crossing (k : CheckIn) : Option PlanFault :=
  k.first 8 [0x0012, 0x0030, 0x0040] (fun d _ o =>
    if d.ty = 0x0012 then !k.p.accCovered d.idx (readAcc o) || !k.p.readsMet d.idx (readAcc o)
    else if d.ty = 0x0030 then !k.p.rateOk d.idx (readQwin o)
    else !k.p.depsMet d.idx (readFpi o))

/-! ### OWNERSHIP -/

/-- Pages a KIND 0 entry may name (R343). -/
def ownablePage (g : Nat) : Bool :=
  (decide (0x010 ≤ g) && decide (g ≤ 0x017)) || g == 0x0F1 || g == 0x0F2 || (decide (0x120 ≤ g) && decide (g ≤ 0x13F))

/-- The first granule of the launch region: the last 16 Mi words of populated logical LPDDR (R443). -/
def Chip.launchGranule (c : Chip) : Nat := (lpdBase + c.lpdWords - 0x100_0000) / 4096

/-- Whether an entry names only what a party may own: R343 for pages, the lanes there are, populated QDR (R321), logical LPDDR
below the launch region (R330, R443), one core's tight memory, and the sources of R270. -/
def Chip.ownable (c : Chip) (e : OwnE) : Bool :=
  match e.kind with
  | 0 => decide (e.last < 0x140) && (List.range (e.last + 1 - e.first)).all (fun i => ownablePage (e.first + i))
  | 1 => decide (e.last < 8192)
  | 2 => decide (e.last < qdrEnd / 4096) &&
    (List.range 4).all (fun ch =>
      decide (e.last < 0x2000 * ch) || decide (0x2000 * (ch + 1) ≤ e.first) ||
      decide ((Nat.min e.last (0x2000 * (ch + 1) - 1) - 0x2000 * ch + 1) * 4096 ≤ c.qdrWords ch))
  | 3 => decide (lpdBase / 4096 ≤ e.first) && decide (e.last < c.launchGranule)
  | 4 => e.first / 1024 == e.last / 1024
  | _ => decide (e.last < 0x080) || (decide (0x100 ≤ e.first) && decide (e.last < 0x300))

/-- Whether two entries give something to two parties. -/
def OwnE.clashes (a b : OwnE) : Bool := a.kind == b.kind && a.party != b.party && a.first ≤ b.last && b.first ≤ a.last

/-- Whether a party owns every index of a range of a kind by the plan. -/
def Plan.ownsAll (p : Plan) (kind party first n : Nat) : Bool :=
  (List.range n).all (fun i => p.ownerOf kind (first + i) == some party)

/-- The register page of a port of R307. -/
def connPage (port : Nat) : Nat := if port < 32 then 0x120 + port else 0x0F1 + port - 32

/-- Whether a lane is the second lane of a sample entry of a port, which another party may own (R34). -/
def Plan.sampleB (p : Plan) (port l : Nat) : Bool := (tget [] p.fpis port).any (fun e => !e.tx && e.laneB == some l)

/-- The owner rules of FPINST and LANECONN entries (R34, R307). -/
def Plan.bindingOk (p : Plan) (d : Sect) (o : Nat) : Bool :=
  if d.ty = 0x0040 then
    let e := readFpi o
    match p.ownerOf 0 (0x120 + d.idx) with
    | none => false
    | some q =>
      p.ownerOf 1 e.laneA == some q &&
      (match e.laneB with
       | none => true
       | some l => if e.tx then p.ownerOf 1 l == some q else (p.ownerOf 1 l).isSome)
  else
    let e := readConn o
    let a := p.ownerOf 1 e.a
    match e.kind with
    | 0 => a.isSome && (p.ownerOf 1 e.b).isSome
    | 1 => a.isSome && a == p.ownerOf 1 e.b
    | 2 => a == some ((tget [] p.wins e.b).getD e.aux {}).party
    | _ =>
      if e.port = 34 then a.isNone
      else if e.dir == 0 && decide (e.port < 32) && p.sampleB e.port e.a then a.isSome
      else a.isSome && a == p.ownerOf 0 (connPage e.port)

/-- The points at which owners of a kind can change in a plan. -/
def Plan.ownEdges (p : Plan) (kind : Nat) : List Nat :=
  (p.owns.filter (·.kind == kind)).flatMap (fun e => [e.first, e.last + 1])

/-- Insert a number into a rising list without repeats. -/
def insertEdge (x : Nat) : List Nat → List Nat
  | [] => [x]
  | y :: ys => if x < y then x :: y :: ys else if x = y then y :: ys else y :: insertEdge x ys

/-- Join stretches that follow one another with the same owners; a tight-memory stretch lies on one core. -/
def joinHands : List Hand → List Hand
  | [] => []
  | h :: hs =>
    match joinHands hs with
    | [] => [h]
    | g :: gs =>
      if h.last + 1 = g.first ∧ h.from_ = g.from_ ∧ h.to_ = g.to_ ∧ (h.kind ≠ 4 ∨ h.first / 1024 = g.last / 1024) then
        { h with last := g.last } :: gs
      else h :: g :: gs

/-- What changes owner, a world and a party, from one plan to another, of a kind, as stretches with one old and one new owner
(R12, R344). -/
def handSegs (old new : Plan) (kind : Nat) : List Hand :=
  let es := (old.ownEdges kind ++ new.ownEdges kind).foldl (fun l x => insertEdge x l) []
  joinHands ((es.zip (es.drop 1)).filterMap (fun q =>
    let a := old.ownerOf kind q.1
    let b := new.ownerOf kind q.1
    if a = b ∧ a.map old.worldOf = b.map new.worldOf then none else some ⟨kind, q.1, q.2 - 1, a, b, false⟩))

/-- Whether the switch from one plan to another clears an L2 way (R238). -/
def l2Changes (old new : Plan) : Bool :=
  (List.range 8).any (fun e => (List.range 16).any (fun w => (old.l2Of e).getD w none != (new.l2Of e).getD w none))

/-- Granules of a stretch on a QDR channel. -/
def Hand.onChannel (h : Hand) (ch : Nat) : Nat :=
  Nat.min (h.last + 1) (0x2000 * (ch + 1)) - Nat.max h.first (0x2000 * ch)

/-- The hand-over bound of a stretch in ns (R345). -/
def handBound (old new : Plan) (h : Hand) : Nat :=
  let cl := if l2Changes old new then 26000 else 0
  let n := h.last + 1 - h.first
  match h.kind with
  | 0 => if h.first < 0x020 then 1000 else if h.first < 0x120 then 50000 else 10000
  | 1 => 10000
  | 2 => cl + 2500 * ((List.range 4).map h.onChannel).foldl Nat.max 0
  | 3 => cl + 1000 * n
  | 4 => 1000 + 10 * n
  | _ => 0

/-- The largest bound among stretches that a test selects. -/
def boundOf (old new : Plan) (kind : Nat) (f : Hand → Bool) : Nat :=
  ((handSegs old new kind).filter f).foldl (fun m h => Nat.max m (handBound old new h)) 0

/-- The instant in ns after the catch at which an entry first uses what it uses, and the bound that must have passed by then
when the plan follows a live one. -/
def Plan.firstUse (p old : Plan) (d : Sect) (o : Nat) : Nat × Nat :=
  match d.ty with
  | 0x0011 =>
    let w := readWin o
    let x := p.winCtx d.idx w
    let u := d.idx * 1024 + x.tmBase
    (w.start, boundOf old p 4 (fun h => decide (h.first < u + x.tmSize) && decide (u ≤ h.last)))
  | 0x0012 =>
    let a := readAcc o
    let w := p.accWin d.idx a
    (w.start + w.entry + a.first, boundOf old p 2 (fun h => h.to_ == some w.party && h.onChannel a.ch != 0))
  | 0x0040 =>
    let e := readFpi o
    (e.instant, Nat.max (boundOf old p 0 (fun h => h.covers 0 (0x120 + d.idx)))
      (boundOf old p 1 (fun h => e.lanes.any (h.covers 1))))
  | 0x0041 => (0, boundOf old p 0 (fun h => h.covers 0 (0x0F1 + d.idx)))
  | _ =>
    let e := readConn o
    let w := (tget [] p.wins e.b).getD e.aux {}
    let ports := (p.conns.filter (fun q => q.kind == 3 && q.a == e.a)).map (fun q => connPage q.port)
    if e.kind = 2 then
      (w.closing, Nat.max (boundOf old p 1 (fun h => h.covers 1 e.a)) (boundOf old p 0 (fun h => ports.any (h.covers 0))))
    else (0, 0)

/-- OWNERSHIP. The port of a PLTGCL section must have an owner, and is used from its first gate entry, at the catch. (DEDUCED,
log entry 63) -/
def CheckIn.ownership (k : CheckIn) : Option PlanFault :=
  let p := k.p
  let own := k.first 9 [0x0003] (fun _ j o => !k.chip.ownable (readOwn o) || (p.owns.take j).any (readOwn o).clashes)
  let use := k.first 9 [0x0010, 0x0040, 0x0041, 0x0060] (fun d _ o =>
    if d.ty = 0x0010 then
      let x := readCtx o
      !(match p.ctxParty x with
        | none => false
        | some q => decide (x.tmBase + x.tmSize ≤ 1024) && p.ownsAll 4 q (d.idx * 1024 + x.tmBase) x.tmSize)
    else if d.ty = 0x0041 then (p.ownerOf 0 (0x0F1 + d.idx)).isNone
    else !p.bindingOk d o)
  let late := match k.chip.livePlan with
    | none => none
    | some old => k.first 9 [0x0011, 0x0012, 0x0040, 0x0041, 0x0060] (fun d _ o =>
        let u := p.firstUse old d o
        decide (u.1 * 20 < u.2))
  (own.or use).or late

/-! ### SWING, TAIL -/

/-- Whether an eight is active and unquarantined: every one of its cores has a pipeline and none is quarantined. -/
def Chip.eightWhole (c : Chip) (e : Nat) : Bool :=
  (c.eight e).quarCore.isEmpty && (c.eight e).map.all Option.isSome

/-- SWING. (DEDUCED, log entry 64) -/
def CheckIn.swing (k : CheckIn) : Option PlanFault :=
  let high := (k.dir.filter (fun d => [0x0010, 0x0011, 0x0012].contains d.ty && (d.idx / 8) % 2 == 1
    && k.p.swing.testBit (d.idx / 16))).head?
  match high with
  | some d => some (0x0A, d.ty, 0)
  | none =>
    if (List.range 8).any (fun e => k.p.swing.testBit (e / 2) && !k.chip.eightWhole e) then some (0x0A, 0xFFF0, 0) else none

/-- The granule after an entry's last. -/
def Plan.entryEnd (p : Plan) (d : Sect) (o : Nat) : Nat :=
  match d.ty with
  | 0x0011 => (readWin o).start + (readWin o).length
  | 0x0030 => (readQwin o).start + (readQwin o).length
  | 0x0012 =>
    let a := readAcc o
    let w := p.accWin d.idx a
    w.start + w.entry + a.first + a.span
  | _ => (readFpi o).instant + 1

/-- TAIL. -/
def CheckIn.tail (k : CheckIn) : Option PlanFault :=
  k.first 0x0B [0x0011, 0x0030, 0x0012, 0x0040] (fun d _ o => decide (k.p.granules < k.p.entryEnd d o + k.p.tailGap))

/-! ### The codes PLAN_LOAD adds -/

/-- The valid seats of the sections before a directory entry, and of its entries before `j`, with their rings. -/
def CheckIn.seatsBefore (k : CheckIn) (d : Sect) (j : Nat) : List (Nat × SeatE) :=
  let all := (k.dir.filter (·.ty == 0x0020)).flatMap (fun q =>
    let es := (q.entries k.ws).map readSeat
    (if q.idx = d.idx then es.take j else es).map (fun s => (q.idx, s)))
  let upto := ((k.dir.filter (·.ty == 0x0020)).map Sect.idx).takeWhile (· != d.idx)
  all.filter (fun q => q.2.valid && (q.1 == d.idx || upto.contains q.1))

/-- The key of a seat at its source stop (R295). -/
def SeatE.key (s : SeatE) : Nat × Nat × Nat := (s.party, s.dst, s.vn)

/-- ROUTES (R296). -/
def CheckIn.routes (k : CheckIn) : Option PlanFault :=
  k.first 0x15 [0x0020] (fun d j o =>
    let s := readSeat o
    let bs := (k.seatsBefore d j).filter (fun q => q.2.src == s.src)
    s.valid && (bs.any (fun q => q.2.key == s.key && q.1 != d.idx)
      || decide (256 < ((s.key :: bs.map (fun q => q.2.key)).eraseDups).length)))

/-- FLIGHT (R298). -/
def CheckIn.flight (k : CheckIn) : Option PlanFault :=
  k.first 0x16 [0x0020] (fun d i o =>
    let s := readSeat o
    let l := tget [] k.p.seats d.idx
    let h := seatHops d.idx s
    s.valid && (List.range (h - 1)).any (fun j0 =>
      let j := j0 + 1
      let at_ := if d.idx % 2 = 1 then (s.src + 21 - j) % 21 else (s.src + j) % 21
      match l[(i + 2 * j) % 512]? with
      | none => false
      | some q => q.valid && q.src == at_))

/-- A guaranteed step of the plan: its cause and its end in units of 0.01 ns after the catch, no end where nothing bounds it,
and the divider and phase it runs at. -/
structure PlanStep where
  at_   : Nat
  end_  : Option Nat
  divm1 : Nat
  phase : Nat
  deriving DecidableEq, Repr

/-- The port a pinned lane is bound outbound to. -/
def Plan.outPort (p : Plan) (l : Nat) : Nat :=
  ((p.conns.find? (fun q => q.kind == 3 && q.a == l && q.dir == 1)).map ConnE.port).getD 0

/-- The party a lane's steps act for. -/
def Plan.lanePartyOf (p : Plan) (l : Nat) : Nat := (p.ownerOf 1 l).getD 0

/-- The guaranteed steps of a stroke (R310): an inbound step is caused by the hand-off of a sample, once it is latched and has
reached the lane engine; an outbound step by its window's closing instant (R37). -/
def Plan.steps (p : Plan) : List PlanStep :=
  (p.fpis.flatMap (fun t => (t.2.filter (!·.tx)).flatMap (fun e =>
    e.lanes.map (fun l =>
      let q := p.lanePartyOf l
      let at_ := e.instant * granUnits
      let caused := p.seatHop q fieldStop laneStop 2 (at_ + cents Clk.fclk.period + crossOut fieldStop)
      ⟨caused.getD at_, caused.bind (p.stepEnd q none), e.divm1, e.phase⟩))))
  ++ (p.conns.filter (·.kind == 2)).map (fun q =>
    let w := (tget [] p.wins q.b).getD q.aux {}
    ⟨w.closing * granUnits, p.stepEnd (p.lanePartyOf q.a) (some (p.outPort q.a)) (w.closing * granUnits), w.divm1, w.phase⟩)

/-- How often a step, caused in a stroke or one of the two before, is in progress when another is caused in stroke `n` + 2: the
catch does not end it (R311). -/
def PlanStep.busyAt (a b : PlanStep) (s n : Nat) : Nat :=
  if !runsIn b.divm1 b.phase (n + 2) then 0
  else ((List.range 3).filter (fun j => runsIn a.divm1 a.phase (n + 2 - j) && decide (a.at_ ≤ b.at_ + j * s)
    && (match a.end_ with
        | some t => decide (b.at_ + j * s < t)
        | none => true))).length

/-- Whether more than 8 guaranteed steps can be in progress at once: one with no end stays in progress with each that follows
it (R311). -/
def Plan.stepsBusy (p : Plan) : Bool :=
  let ss := p.steps
  let period := ss.foldl (fun m s => Nat.lcm m (s.divm1 + 1)) 1
  let s := p.granules * granUnits
  ss.any (fun a => a.end_.isNone)
  || ss.any (fun b => (List.range period).any (fun n => decide (8 < (ss.map (fun a => a.busyAt b s n)).foldl (· + ·) 0)))

/-- The lanes a plan pins (R310). -/
def Plan.pinned (p : Plan) : List Nat :=
  ((p.fpis.flatMap (fun t => t.2.flatMap FpiE.lanes)) ++ (p.conns.filter (·.kind == 2)).map ConnE.a).eraseDups

/-- STEPS (R311). No place is stated for it; LANECONN is reported. (DEDUCED, log entry 64) -/
def CheckIn.stepsRule (k : CheckIn) : Option PlanFault :=
  if decide (1024 < k.p.pinned.length) || k.p.stepsBusy then some (0x17, 0x0060, 0) else none

/-- Whether a granule of a channel lies in a QDR window that reserves both ports together with another, by ports. -/
def coverPorts (qs : List QwinE) (g : Nat) : Nat :=
  (qs.filter (fun q => decide (q.start ≤ g) && decide (g < q.start + q.length))).foldl (fun m q => m ||| q.ports) 0

/-- The granules at which cover can change. -/
def qwinEdges (qs : List QwinE) : List Nat :=
  qs.foldl (fun l q => insertEdge q.start (insertEdge (q.start + q.length) l)) []

/-- Stretches of a stroke with one cover each: first granule, length, and a mark of the test. -/
def stretches (s : Nat) (qs : List QwinE) (f : Nat → Bool) : List (Nat × Nat × Bool) :=
  let es := (insertEdge 0 (insertEdge s (qwinEdges qs))).filter (· ≤ s)
  (es.zip (es.drop 1)).map (fun q => (q.1, q.2 - q.1, f q.1))

/-- A run of marked stretches of more than `n` granules, with the stroke taken twice so that it wraps: the granule that brings
it past `n`. -/
def runPast (s n : Nat) (l : List (Nat × Nat × Bool)) : Option Nat :=
  ((l ++ l).foldl (fun (r : Nat × Option Nat) q =>
    if q.2.2 then (r.1 + q.2.1, if r.2.isNone && decide (n < r.1 + q.2.1) then some ((q.1 + n - r.1) % s) else r.2)
    else (0, r.2)) (0, none)).2

/-- QDRGAP (R326). The entry reported is the first that reserves a port in the granule after 12 with both reserved, and where
no interval is free the section's first entry. (DEDUCED, log entry 64) -/
def CheckIn.qdrGap (k : CheckIn) : Option PlanFault :=
  (k.dir.filter (·.ty == 0x0030)).findSome? (fun d =>
    let qs := tget [] k.p.qwins d.idx
    let s := k.p.granules
    let inside (q : QwinE) (g : Nat) : Bool := decide (q.start ≤ g) && decide (g < q.start + q.length)
    let both := runPast s 12 (stretches s qs (fun g => coverPorts qs g == 3))
    let free := runPast s 3 (stretches s qs (fun g => !qs.any (fun q => inside q g)))
    if qs.isEmpty then none
    else match both with
      | some g => some (0x18, 0x0030, (firstIdx qs (fun _ q => q.ports != 0 && inside q g)).getD 0)
      | none => if free.isNone then some (0x18, 0x0030, 0) else none)

/-- Whether transmit instant `b` can follow `a` by less than 3,400 granules, `m` catches later (R379). -/
def txClose (s : Nat) (a b : FpiE) (m : Nat) (same : Bool) : Bool :=
  let t := m * s + b.instant
  !(same && m == 0) && decide (a.instant ≤ t) && decide (t < a.instant + 3400)
  && everMeet (a.divm1 + 1) a.phase (b.divm1 + 1) ((b.phase + m * b.divm1) % (b.divm1 + 1))

/-- PORTINST (R379). -/
def CheckIn.portInst (k : CheckIn) : Option PlanFault :=
  k.first 0x1E [0x0040] (fun d j o =>
    let b := readFpi o
    let l := tget [] k.p.fpis d.idx
    b.tx && ((List.range l.length).zip l).any (fun q => q.2.tx &&
      (List.range (3400 / k.p.granules + 2)).any (fun m => txClose k.p.granules q.2 b m (q.1 == j))))

/-! ### The verdict -/

/-- The first of a list of verdicts that refuses. -/
def firstFault : List (Unit → Option PlanFault) → Option PlanFault
  | [] => none
  | f :: fs => match f () with
    | some x => some x
    | none => firstFault fs

/-- The checker: none when every rule holds, otherwise the refusal of the first rule that fails. `boot` leaves out STALESEQ
(R443). -/
def Chip.planFault (c : Chip) (ws : List Word) (boot : Bool) : Option PlanFault :=
  let k : CheckIn := ⟨c, ws, readPlan ws, directory ws⟩
  firstFault [fun _ => k.badFormat, fun _ => k.badSig, fun _ => if boot then none else k.staleSeq, fun _ => k.limit,
    fun _ => k.overlap, fun _ => k.bands, fun _ => k.wcet, fun _ => k.share, fun _ => k.crossing, fun _ => k.ownership,
    fun _ => k.swing, fun _ => k.tail, fun _ => k.routes, fun _ => k.flight, fun _ => k.stepsRule, fun _ => k.qdrGap,
    fun _ => k.portInst]

end Sys2Proof.Machine
end

