-- ==== Sys2Proof/Machine/Catch.lean ====
section
/-! DEFINITION. The catch: the commit decision, the switch of plans, hand-over and clearing, overrun policies and yields (R22,
R48 to R58, R238, R344 to R347, R399, R478). -/

namespace Sys2Proof.Machine

/-! ### Hand-over (R344 to R347) -/

/-- The register pages of a block that an entry of KIND 0 names: an eight takes its CORE pages with it (R343). -/
def blockPages (page : Nat) : List Nat :=
  if 0x010 ≤ page ∧ page ≤ 0x017 then page :: (List.range 9).map (fun i => 0x020 + 9 * (page - 0x010) + i) else [page]

/-- The W1C and RC fields of a page are cleared (R345). -/
def Chip.clearFlags (c : Chip) (page : Nat) : Chip :=
  match pageBlk page with
  | none => c
  | some (b, _) =>
    let c := (c.setLive page 0x00E 0).setLive page 0x010 0
    ((regsOf b).flatMap (fun r => r.offs.map (fun o => (o, r.w1c ||| r.rc)))).foldl (fun c q =>
      if q.2 = 0 then c else c.setLive page q.1 (c.live page q.1 - (c.live page q.1 &&& q.2))) c

/-- The counters of a CORE page and their configuration take their reset values at the hand-over of the eight (R417). -/
def Chip.resetCounters (c : Chip) (page : Nat) : Chip :=
  if 0x020 ≤ page ∧ page < 0x068 then
    (List.range 8).foldl (fun c k =>
      ((c.setLive page (0x140 + 2 * k) (regReset page (0x140 + 2 * k))).setLive page (0x150 + 4 * k) 0).setLive
      page (0x152 + 4 * k) 0) c
  else c

/-- The logs of an eight are emptied: OVRLOG and its index, and MISA to MISC. -/
def Chip.emptyLogs (c : Chip) (page : Nat) : Chip :=
  let c := (List.range 64).foldl (fun c i => c.setLive page (0x200 + 2 * i) 0) c
  (((c.setFld page 0x106 3 0 0).setLive page 0x108 0).setLive page 0x10A 0).setLive page 0x10C 0

/-- The reset of a block at its release (R344, R345, R453). -/
def Chip.releasePage (c : Chip) (page : Nat) : Chip :=
  if 0x120 ≤ page ∧ page < 0x140 then c.fpReset (page - 0x120)
  else if page = 0x0F1 ∨ page = 0x0F2 then c.pltReset (page - 0x0F1)
  else ((blockPages page).foldl (fun c p => ((c.clearFlags p).resetCounters p).dropCaptures p) c).emptyLogs page

/-- The owner of a source: a party, in its world (R12). -/
def Chip.srcHolder (c : Chip) (s : Nat) : Option (Nat × Bool) := (c.srcOwner s).map (fun q => (q, c.worldOf q))

/-- Sources whose owner is not what it was are reset (R12, R271). -/
def Chip.resetMoved (c was : Chip) : Chip :=
  let ss := (List.range srcCount).filter (fun s => was.srcHolder s != c.srcHolder s)
  if ss.isEmpty then c else { c with hub := c.hub.resetSources (fun s => ss.contains s) }

/-- A range of quads is written whole in a controller. -/
def Lpd.healRange (l : Lpd) (q n : Nat) : Lpd :=
  if l.lost = 0 then { l with poison := tclear l.poison q n, bad := tclear l.bad q n }
  else ((List.range n).map (q + ·)).foldl Lpd.heal l

/-- Write zeros over words of external memory under a key: their marks of error go (R345). (DEDUCED, log entry 31) -/
def Chip.zeroWords (c : Chip) (key a n : Nat) : Chip :=
  let octs : Tbl Nat := if key = 0 then [] else (List.range (n / 8)).map (fun i => (a / 8 + i, key))
  let e := c.ext
  let c := { c with mem := tclear c.mem (2 * a) (2 * n) }
  if isLpdAddr a then
    let l0 := (tget {} e.lpd 0).healRange (a / 4) (n / 4)
    let l1 := (tget {} e.lpd 1).healRange (a / 4) (n / 4)
    { c with ext := { e with enc := tsplice e.enc (a / 8) (n / 8) octs, lpd := tset {} (tset {} e.lpd 0 l0) 1 l1 } }
  else
    { c with ext := { e with qpoison := tclear e.qpoison (a / 4) (n / 4), qbad := tclear e.qbad (a / 4) (n / 4) } }

/-- Whether every clearing of R238 has finished. -/
def Chip.cleared (c : Chip) : Bool :=
  (List.range 8).all (fun e => (c.eight e).clrL2 == 0 && (c.eight e).clrL1.isEmpty)

/-- The scrub of what a hand-over covers (R345). (DEDUCED, log entry 31) -/
def Chip.scrub (c : Chip) (h : Hand) : Chip :=
  let n := h.last + 1 - h.first
  match h.kind with
  | 2 => c.zeroWords 0 (h.first * 4096) (n * 4096)
  | 3 => c.zeroWords (match h.to_ with | some q => worldKey (c.worldOf q) | none => 0) (h.first * 4096) (n * 4096)
  | 4 => c.ringWrite (h.first / 1024) (h.first % 1024 * 64) (n * 64) 0
  | _ => c

/-- Write a context of the live plan afresh, from its world's image where that names it (R349, R478). -/
def Chip.freshCtx (c : Chip) (p : Plan) (core i : Nat) (x : CtxE) : Chip :=
  let w := ((p.ctxParty x).map p.worldOf).getD false
  c.writeFresh core i x w (imageArea (c.world w).img core i)

/-- An owner takes a stretch of LPDDR granules: what earlier claims say of them ends (R443). -/
def takeClaim (l : List OwnE) (x : OwnE) : List OwnE :=
  x :: l.flatMap (fun o =>
    (if o.first < x.first then [{ o with last := Nat.min o.last (x.first - 1) }] else [])
    ++ (if x.last < o.last then [{ o with first := Nat.max o.first (x.last + 1) }] else []))

/-- A completed claim of a region of logical LPDDR is kept with its owner and the owner's world (R366, R443). -/
def Chip.noteClaim (c : Chip) (h : Hand) : Chip :=
  match h.kind, h.to_ with
  | 3, some q => { c with power := { c.power with
      lastOwns := takeClaim c.power.lastOwns ⟨3, q + 2 ^ 6 * b2n (c.worldOf q), h.first, h.last⟩ } }
  | _, _ => c

/-- The record of a switch's hand-overs, once none is left incomplete (R347). (DESIGN CHOICE, log entry 68) -/
def Chip.handoversDone (c : Chip) : Chip :=
  if c.handN = 0 || c.hand.any (fun h => !h.done) then c
  else
    let seq := (c.livePlan.map Plan.seq).getD 0
    let status := if c.hand.isEmpty then stDone else stScrubEcc
    let n := c.handN
    let c := { c with handN := 0 }
    let c := if c.hand.isEmpty then c else c.deviceRecord .handOver
    match c.armRec with
    | none => c
    | some (party, lane) =>
      { (c.complete party lane 0xFFFF 0x0040 (toWords 2 seq ++ [BitVec.ofNat 16 n, BitVec.ofNat 16 status])) with armRec := none }

/-- The open contexts of the live plan in a region that has been scrubbed are written (R478). -/
def Chip.freshAfter (c : Chip) (h : Hand) : Chip :=
  match c.livePlan with
  | none => c
  | some p => (p.allCtxs.filter (fun q => q.2.2.open_ && h.touches q.1 q.2.2)).foldl (fun c q =>
      c.freshCtx p q.1 q.2.1 q.2.2) c

/-- The claim of one hand-over whose scrub is done: lanes and sources are reset (R271, R314, R344). -/
def Chip.claimOne (c : Chip) (h : Hand) : Chip :=
  let was := c
  let c := (c.scrub h).freshAfter h
  let c := ({ c with hand := c.hand.filter (· != h) }).noteClaim h
  let ls := if h.kind = 1 then (c.lane.lanes.map Prod.fst).filter (fun l => h.first ≤ l && l ≤ h.last) else []
  let c := ls.foldl (fun c l => c.resetLane l h.from_) c
  (c.resetMoved was).handoversDone

/-- HAND_OVER_CLAIM: the scrub of a block or region is done and its new owner takes it, or it failed (R344, R347). A memory
region is scrubbed after the clearing of R238. -/
def Chip.claim (c : Chip) (kind first : Nat) (ok : Bool) : Chip :=
  match c.hand.find? (fun h => h.kind == kind && h.first == first && !h.done) with
  | none => c
  | some h =>
    if (kind == 2 || kind == 3) && !c.cleared then c
    else if ok then c.claimOne h
    else ({ c with hand := c.hand.filter (· != h) ++ [{ h with done := true }] }).handoversDone

/-! ### Clearing (R238) -/

/-- The parties that use an L1 way of a core. -/
def Plan.wayParties (p : Plan) (core : Nat) (i : Bool) (way : Nat) : List (Option Nat) :=
  ((p.ctxsOf core).filter (fun x => bitN (if i then x.l1i else x.l1d) way)).map p.ctxParty

/-- Whether an L1 way's lockability or using parties differ between two plans. -/
def wayDiffers (old new : Plan) (core : Nat) (i : Bool) (way : Nat) : Bool :=
  let a := old.wayParties core i way
  let b := new.wayParties core i way
  a.any (fun q => !b.contains q) || b.any (fun q => !a.contains q)

/-- The L1 ways of a core to clear: L1I in bits 3:0, L1D in bits 7:4. -/
def clearMask (old new : Plan) (core : Nat) : Nat :=
  (List.range 8).foldl (fun m k => if wayDiffers old new core (decide (k < 4)) (k % 4) then m + 2 ^ k else m) 0

/-- What an eight has to clear at a switch. -/
def Chip.startClearing (c : Chip) (old new : Plan) (e : Nat) : Chip :=
  let x := c.eight e
  let l2 := (List.range 16).foldl (fun m w =>
    if (old.l2Of e).getD w none != (new.l2Of e).getD w none then m + 2 ^ w else m) 0
  let l1 := (List.range 8).foldl (fun t k => tset 0 t k (tget 0 x.clrL1 k ||| clearMask old new (8 * e + k))) x.clrL1
  c.setEight e { x with clrL2 := x.clrL2 ||| BitVec.ofNat 16 l2, clrL1 := l1 }

/-- CLEARING_COMPLETE of a way of an L2 or of an L1: its dirty lines are written back and it may be used again. -/
def Chip.clearingDone (c : Chip) (w : ClearAt) : Chip :=
  match w with
  | .l2 e way =>
    if (c.eight e).clrL2.getLsbD way then
      let c := c.clearL2 e [way]
      let x := c.eight e
      c.setEight e { x with clrL2 := x.clrL2 &&& ~~~(BitVec.ofNat 16 (2 ^ way.val)) }
    else c
  | .l1 core code way =>
    let e := core.val / 8
    let k := core.val % 8
    let b := way.val + (if code then 0 else 4)
    if (tget 0 (c.eight e).clrL1 k).testBit b then
      let c := c.clearL1 core (if code then [way.val] else []) (if code then [] else [way.val])
      let x := c.eight e
      c.setEight e { x with clrL1 := tset 0 x.clrL1 k (clrBit (tget 0 x.clrL1 k) b) }
    else c

/-! ### The switch (R52, R478) -/

/-- Whether an open context of the new plan continues one of the old (R478). (DEDUCED, log entry 27) -/
def continues (old new : Plan) (segs : List Hand) (core i : Nat) (x : CtxE) : Bool :=
  old.tableCore core == core && new.tableCore core == core
  && (match (old.ctxsOf core)[i]? with
      | some y => y == x
      | none => false)
  && (old.ctxParty x).isSome && old.ctxParty x == new.ctxParty x && !segs.any (fun h => h.touches core x)

/-- The contexts of the old plan that end at the switch: the sources their slices had acknowledged are cleared. -/
def Chip.endContexts (c : Chip) (old new : Plan) (segs : List Hand) : Chip :=
  (old.allCtxs.filter (fun q => q.2.2.open_)).foldl (fun c q =>
    let stays := match (new.ctxsOf q.1)[q.2.1]? with
      | some x => continues old new segs q.1 q.2.1 x
      | none => false
    if stays then c
    else
      let c := if (c.savedCtx q.1 q.2.1).have_ then c.dropSavedStack q.1 q.2.1 q.2.2.area else c
      (old.twins q.1).foldl (fun c a => c.setSaved a q.2.1 {}) c) c

/-- The open contexts of the new plan: those that continue take a fresh key, the others are written afresh. (DEDUCED, log entry
27) -/
def Chip.startContexts (c : Chip) (old new : Plan) (segs : List Hand) : Chip :=
  (new.allCtxs.filter (fun q => q.2.2.open_)).foldl (fun c q =>
    if continues old new segs q.1 q.2.1 q.2.2 then
      (new.twins q.1).foldl (fun c a => c.setSaved a q.2.1 { c.savedCtx a q.2.1 with keyNew := true }) c
    else c.freshCtx new q.1 q.2.1 q.2.2) c

/-- The inactive bank becomes live, and the live one ADMITTED; the stroke number is the new plan's (R22, R52). (DEDUCED, log
entry 54) -/
def Chip.swapBanks (c : Chip) (new : Plan) : Chip :=
  let a := c.bankA
  let b := c.bankB
  let toB := c.isLive && !c.liveB
  let c := { c with
    bankA := if toB then { a with st := if c.isLive then .admitted else a.st } else { a with st := .live }
    bankB := if toB then { b with st := .live } else { b with st := if c.isLive then .admitted else b.st }
    liveB := toB, isLive := true, armedAt := none, committed := false
    stroke := (c.catchAt - new.epoch) / (new.stroke * 1000) }
  { c with power := { c.power with retained := (if c.liveB then c.bankB else c.bankA).img } }

/-- Power of the eights at a switch: those the new plan does not use go down (R253). -/
def Chip.powerCatch (c : Chip) (new : Plan) : Chip :=
  (List.range 8).foldl (fun c e =>
    let x := c.eight e
    if new.usesEight e || x.pwr == .gated then c else c.setEight e { x with pwr := .down }) c

/-- Hand-overs start: release, reset and, for event sources, the claim (R344). (DEDUCED, log entry 43) -/
def Chip.release (c was : Chip) (segs : List Hand) : Chip :=
  let pages := segs.flatMap (fun h =>
    if h.kind = 0 then (List.range (h.last + 1 - h.first)).map (fun i => { h with first := h.first + i, last := h.first + i })
    else [h])
  let c := { c with hand := pages.filter (fun h => h.kind != 5), handN := pages.length }
  let c := (pages.filter (fun h => h.kind == 0)).foldl (fun c h => c.releasePage h.first) c
  let ls := (c.lane.lanes.map Prod.fst).filter (fun l => was.laneOwner l != c.laneOwner l)
  let c := ls.foldl (fun c l => c.resetLane l (was.laneOwner l)) c
  (c.resetMoved was).handoversDone

/-- The two eights of each pair that a switch newly puts in swing start equal (R263). (DESIGN CHOICE, log entry 84) -/
def Chip.newSwing (c : Chip) (old new : Nat) : Chip :=
  (List.range 4).foldl (fun c k => if new.testBit k && !old.testBit k then c.equalize (2 * k) else c) c

/-- The switch from the live plan to the armed one. (DEDUCED, log entry 43) -/
def Chip.switchPlan (c : Chip) (old new : Plan) : Chip :=
  let was := c
  let moved := (List.range 6).flatMap (handSegs old new)
  -- what a failed scrub left with the launch controller is handed over again
  let segs := moved ++ (c.hand.flatMap (fun h => h.without moved)).map
    (fun h => { h with from_ := none, to_ := new.ownerOf h.kind h.first, done := false })
  let c := c.endContexts old new segs
  let c := c.swapBanks new
  let c := (List.range 8).foldl (fun c e => c.startClearing old new e) c
  let c := c.powerCatch new
  let c := { c with hand := [] }
  let c := c.release was segs
  let c := (List.range 72).foldl Chip.dropPredictor c
  let c := (c.startContexts old new segs).newSwing old.swing new.swing
  c.finishAll 0x0011 0 stDone (List.replicate 3 0)

/-! ### The commit catch (R50, R51) -/

/-- Whether the partner's decision is that it holds this chip's armed plan, by PLANID, SEQ and digest (R51). -/
def Chip.partnerAgrees (c : Chip) (p : Plan) : Bool :=
  match c.pair.peer with
  | some m => m.armed && p.planId == m.planId.toNat && p.seq == m.seq.toNat && ofWords p.digest == m.digest.toNat
  | none => false

/-- Go or no-go for an armed plan at its commit catch (R51): this chip holds it armed, and in a pair the link is in GO and the
partner has decided for the same plan. -/
def Chip.planGo (c : Chip) (p : Plan) : Bool := !p.paired || (c.inGo && c.partnerAgrees p)

/-- A decision of the partner that the pair link brings at the catch itself, in GO (R51). -/
def Chip.hears (c : Chip) (go : Option PlanMark) : Chip :=
  if go.isSome && c.inGo then { c with pair := { c.pair with peer := go } } else c

/-- What a chip sends as its decision on a plan: whether it holds it armed (R51). -/
def Plan.mark (p : Plan) (armed : Bool) : PlanMark :=
  ⟨armed, BitVec.ofNat 32 p.planId, BitVec.ofNat 32 p.seq, BitVec.ofNat 384 (ofWords p.digest)⟩

/-- What PLAN_ARM and PAIR_MIRROR wait for at their commit catch (R50, R51, R403); a no-go is told to the partner, whose mark
of this chip's plan ends with it. -/
def Chip.commitCatch (c : Chip) : Chip :=
  let next := c.catchAt + c.strokeNs
  let c :=
    if c.armedAt == some next && !c.committed then
      match c.altBank.plan with
      | none => c
      | some p =>
        let go := c.planGo p
        let c := { c with pair := { c.pair with peer := none } }
        if go then
          (List.range 8).foldl (fun c e => if p.usesEight e then c.powerUp e else c) { c with committed := true }
        else (({ (c.setAlt { c.altBank with st := .admitted }) with armedAt := none }).pairSend [.decision
          (p.mark false)]).finishAll
          0x0011 0 stPartner (List.replicate 3 0)
    else c
  if c.pair.swAt == some next then
    let go := c.inGo && c.pair.peerMir == some true
    let c := { c with pair := { c.pair with peerMir := none } }
    if go then c
    else
      let c := { c with pair := { c.pair with swAt := none }, captured := c.captured.filter (fun e => e.1 / 0x800 != 0x0F3) }
      (c.pairSend [.mirrorDecision false]).finishAll 0x0082 0 stPartner (List.replicate 3 0)
  else c

/-- PAIR_MIRROR completes at its switch catch. -/
def Chip.mirrorSwitch (c : Chip) : Chip :=
  if c.pair.swAt == some c.catchAt then
    ({ c with pair := { c.pair with swAt := none } }).finishAll 0x0082 0 stDone (List.replicate 3 0)
  else c

/-! ### Policies and yields (R15, R57, R58, R356, R396, R397, R399) -/

/-- The overrun policy due on a partition acts; `switched` drops a SKIP, which names a window of the old plan (R54). A SKIP
that acted at an earlier catch and still waits for its window is dropped at a switch without a record. (DESIGN CHOICE, log
entry 86) -/
def Chip.policyCatch (c : Chip) (switched : Bool) (k : Nat) : Chip :=
  let x := c.part k
  let y := { x with policy := 0, skips := [], skipOn := if switched then [] else x.skipOn }
  match c.partEntry k with
  | none =>
    let c := { c with parts := terase c.parts k }
    if x.policy = 0 && !x.restart && !x.start then c else c.deviceRecord .dropped
  | some _ =>
    let hold := if y.st == .restarting then { y with hold := true } else { y with st := .stopped }
    match x.policy with
    | 0 => c.setPart k y
    | 1 =>
      if switched then (c.setPart k y).deviceRecord .dropped
      else c.setPart k { y with skipOn := y.skipOn ++ x.skips }
    | 2 => c.setPart k hold
    | 3 => (c.setPart k y).callRestart k
    | _ => if c.inGo then c.setPart k y else c.setPart k hold

/-- Whether a core that is quarantined with its windows unrun has windows in the live plan (R15). -/
def Chip.cannotRun (c : Chip) : Bool :=
  (List.range 8).any (fun e => (c.eight e).stuck.any (fun a => !((c.livePlan.map (·.winsOf a)).getD []).isEmpty))

/-- Whether this chip owes a yield as a stroke begins: a core it cannot run, or the Deckle world (R15, R356). -/
def Chip.yieldNow (c : Chip) : Bool :=
  c.cannotRun || ((c.deckle.st == .restarting || c.deckle.st == .failed) && c.fld 0x006 0x020 16 16 == 1)

/-- A change of role is journaled (R396). -/
def Chip.setActive (c : Chip) (a : Bool) : Chip :=
  if c.pair.active == a then c
  else ({ c with pair := { c.pair with active := a, actAt := if a then c.now else c.pair.actAt } }).deviceRecord .roleChange

/-- The roles of the pair at a catch: GO begins, a standby gives way, yields, and a loss (R396, R397, R399). A yield that fell
due in the stroke has been sent, so both chips change roles at this catch; where both fell due neither yields. -/
def Chip.roleCatch (c : Chip) : Chip :=
  let p := c.pair
  let mine := c.yieldDue && c.inGo
  let got := p.yieldGot && c.inGo
  let c := if p.goAt == some c.catchAt && p.st == .attention then
      { c with pair := { p with st := .go, since := c.catchAt, goAt := none } } else c
  let c := if c.inGo && p.standbyAt then ({ c with pair := { c.pair with standbyAt := false } }).setActive false else c
  let c := { c with yieldDue := false, pair := { c.pair with yieldGot := false } }
  let c := if mine && got then c.deviceRecord .dropped
    else if mine then c.setActive false
    else if got then c.setActive true else c
  match c.pair.loss with
  | some t =>
    if t + 20 ≤ c.catchAt then
      let c := { c with pair := { c.pair with loss := none } }
      if c.pair.active then c else (c.setActive true).raise 0x30A
    else c
  | none => c

/-! ### CATCH -/

/-- Pipelines that a mismatch had stopped are feathered from the catch on (R266). -/
def Chip.endMismatch (c : Chip) : Chip :=
  (List.range 72).foldl (fun c pi =>
    let p := c.pipe pi
    if p.run == .mismatched then c.setPipe pi { p with run := .feathered } else c) c

/-- The numbers of the partitions that hold anything. -/
def Chip.partKeys (c : Chip) : List Nat := c.parts.map Prod.fst

/-- What every catch does once the stroke's plan stands. The mirror is copied by the table it was sent by, before a new one is
loaded (R401, R403); what is owed to the partner at its end falls due at the next catch. -/
def Chip.catchWork (c : Chip) (prev : Nat) (switched : Bool) : Chip :=
  let c := c.notifyWaiting.snapCatch.endMismatch.blockCut
  let c := c.mirrorCatch prev
  let c := (c.loadCatch).mirrorSwitch
  let c := c.partKeys.foldl (fun c k => c.policyCatch switched k) c
  let c := c.roleCatch
  let c := c.partKeys.foldl Chip.partCatch c
  let c := (c.worldCatch false).worldCatch true
  let c := (List.range 8).foldl (fun c e => (c.substCatch e).moveCatch e) c
  let c := { c with hub := { c.hub with ntDue := c.untargeted } }
  let c := (List.range 32).foldl Chip.profileCatch c
  let c := ((c.pltCatch 0).pltCatch 1).setMode
  if c.yieldNow then c.fallDue else c

/-- Every block passes from the launch controller to its owner: the lanes and sources of an owner are reset (R271, R314, R344,
R443). -/
def Chip.claimFirst (c was : Chip) : Chip :=
  let ls := (c.lane.lanes.map Prod.fst).filter (fun l => was.laneOwner l != c.laneOwner l)
  (ls.foldl (fun c l => c.resetLane l (was.laneOwner l)) c).resetMoved was

/-- The first catch: the plan becomes live and the claims take effect, worlds run, and start-up ends (R428, R441, R443, R444).
(DEDUCED, log entry 42) -/
def Chip.firstCatch (c : Chip) (t : Nat) (p : Plan) : Chip :=
  let c := c.reach t
  let was := c
  let c := ((({ c with catchAt := t, strokeOn := true, blk := [], blkAt := t }).swapBanks p).claimFirst was).newSwing 0 p.swing
  let run (w : WorldS) : WorldS := if w.st == .starting then { w with st := .run } else w
  let c := { c with web := run c.web, deckle := run c.deckle, power := { c.power with st := .run, releasing := false } }
  (c.wdLoad).catchWork t true

/-- The catch that ends a stroke of a live plan. (DEDUCED, log entry 41) -/
def Chip.nextStroke (c : Chip) (old : Plan) : Chip :=
  let prev := c.catchAt
  let t := c.nextCatch
  let c := c.reach t
  let c := { c with catchAt := t, stroke := c.stroke + 1 }
  let c := c.commitCatch
  match c.armedAt, c.altBank.plan with
  | some u, some new =>
    if u = t && c.committed then (c.switchPlan old new).catchWork prev true else c.catchWork prev false
  | _, _ => c.catchWork prev false

/-- CATCH: a new stroke begins at the next catch instant (R22). (DEDUCED, log entry 41) -/
def Chip.catch_ (c : Chip) : Chip :=
  match c.livePlan with
  | none =>
    (match c.armedAt, c.altBank.plan with
     | some t, some p => if c.power.releasing && c.altBank.st == .armed then (c.firstCatch t p).bootEnd else c
     | _, _ => c)
  | some old => if c.strokeOn then c.nextStroke old else c

end Sys2Proof.Machine
end

