-- ==== Sys2Proof/Machine/PlanCmd.lean ====
section
/-! DEFINITION. The plan commands, the mirror table and CHIP_RESET (R47 to R51, R346, R403, R436). -/

namespace Sys2Proof.Machine

/-- SECTION and ENTRY of a record that names no place (R49). -/
def noPlace : List Word := [0, 0, 0]

/-- SECTION and ENTRY of a record (R46, R49). -/
def placeOf (section_ entry : Nat) : List Word := BitVec.ofNat 16 section_ :: toWords 2 entry

/-- Whether every word of a range is populated QDR or logical LPDDR (R48). -/
def Chip.populated (c : Chip) (a n : Nat) : Bool :=
  (List.range ((a + n - 1) / 4096 + 1 - a / 4096)).all (fun i =>
    c.inQdr ((a / 4096 + i) * 4096) || c.inLpd ((a / 4096 + i) * 4096))

/-- The verdict on an image: the bank it leaves, and the record's STATUS and place (R46, R48). (DESIGN CHOICE, log entry 36) -/
def Chip.admitPlan (c : Chip) (ws : List Word) (boot : Bool) : Bank × Nat × List Word :=
  match c.planFault ws boot with
  | some (code, s, e) => ({}, code, placeOf s e)
  | none => ({ st := .admitted, plan := some (readPlan ws), img := ws }, stDone, noPlace)

/-- PLAN_LOAD: the image is copied into the inactive bank and checked. (DESIGN CHOICE, log entry 36) -/
def Chip.planLoad (c : Chip) (q : Req) (addr len : Nat) : Chip :=
  c.roleCmd q 0x0010 (toWords 4 addr ++ toWords 2 len) installer (fun c =>
    if c.altSt == .loading || c.altSt == .armed then (c, .now stBusy noPlace)
    else if len = 0 || !c.populated addr len then (c.setAlt {}, .now stBadFormat (placeOf 0xFFF0 0))
    else
      let ws := toWords len (c.physRead (c.partyKey (some q.party.val)) addr len)
      if pairOf ws 8 ≠ len then (c.setAlt {}, .now stBadFormat (placeOf 0xFFF0 0))
      else
        let v := c.admitPlan ws false
        (c.setAlt v.1, .now v.2.1 v.2.2))

/-- The refusal of a switch catch, if there is one: ALIGN, LATE, PARTNER (R50). `epoch` and `ns` are those of what is armed. A
catch of both plans that has passed is LATE. -/
def Chip.armFault (c : Chip) (t epoch ns : Nat) (paired : Bool) : Option Nat :=
  let live := (c.livePlan.map Plan.epoch).getD 0
  if !c.isLive || t < live || (t - live) % c.strokeNs != 0 || t < epoch || (t - epoch) % ns != 0 then some stAlign
  else if t < c.now + 10000 + c.strokeNs || t < c.nextCatch then some stLate
  else if c.inGo != paired then some stPartner
  else none

/-- PLAN_ARM: the admitted bank is armed for a switch catch; in GO the partner is told (R51). -/
def Chip.planArm (c : Chip) (q : Req) (t : Nat) : Chip :=
  c.roleCmd q 0x0011 (toWords 4 t) installer (fun c =>
    let b := c.altBank
    match b.st, b.plan with
    | .admitted, some p =>
      if c.hand.any (fun h => !h.done) then (c, .now stBusy noPlace)
      else match c.armFault t p.epoch (p.stroke * 1000) p.paired with
        | some code => (c, .now code noPlace)
        | none =>
          ((({ c with armedAt := some t, committed := false, armRec := some (q.party.val, q.lane.val) }).setAlt
            { b with st := .armed }).pairSend [.decision (p.mark true)], .later 0)
    | .loading, _ | .armed, _ => (c, .now stBusy noPlace)
    | _, _ => (c, .now stState noPlace))

/-- PLAN_DISARM: the armed bank is ADMITTED again. The PLAN_ARM it ends completes with a STATUS no rule gives. (DESIGN CHOICE,
log entry 37) -/
def Chip.planDisarm (c : Chip) (q : Req) : Chip :=
  c.roleCmd q 0x0012 [] installer (fun c =>
    if c.altSt != .armed then (c, .now stState noPlace)
    else if c.committed then (c, .now stLate noPlace)
    else
      let c := ({ c with armedAt := none }).setAlt { c.altBank with st := .admitted }
      let c := match c.altBank.plan with
        | some p => c.pairSend [.decision (p.mark false)]
        | none => c
      let (c, v) := c.draw
      (c.finishAll 0x0011 0 (v % 256) noPlace, .now stDone noPlace))

/-- PLAN_DISCARD: the inactive bank becomes EMPTY. (DEDUCED, log entry 38) -/
def Chip.planDiscard (c : Chip) (q : Req) : Chip :=
  c.roleCmd q 0x0013 [] installer (fun c =>
    if c.altSt == .armed || c.altSt == .loading then (c, .now stBusy noPlace)
    else (c.setAlt {}, .now stDone noPlace))

/-- The words of the operands of PAIR_MIRROR. -/
def mirrorOps (t cfg mstart apply : Nat) (mirs : List Pair) : List Word :=
  toWords 4 t ++ toWords 2 cfg ++ toWords 2 mstart ++ toWords 2 apply ++ [BitVec.ofNat 16 mirs.length]
  ++ mirs.flatMap (fun m => toWords 2 m.toNat)

/-- The staged set of the pair link takes the values of PAIR_MIRROR and is captured. -/
def Chip.stageMirror (c : Chip) (cfg mstart apply : Nat) (mirs : List Pair) : Chip :=
  let pg := 0x0F3
  let c := ((c.setStaged pg 0x020 (cfg % 2 ^ 25)).setStaged pg 0x022 (mstart % 2 ^ 26)).setStaged pg 0x024 (apply % 2 ^ 26)
  let c := (List.range 64).foldl (fun c k => c.setStaged pg (0x200 + 2 * k) ((mirs.getD k 0).toNat &&& 0xBFFF_FFFF)) c
  c.commitGo pg launchRq

/-- PAIR_MIRROR: stages the mirror table; in GO both chips switch to it at a catch, as plans do (R403). The refusals of
PLAN_ARM hold in GO and outside it. (DEDUCED, log entry 38) -/
def Chip.pairMirror (c : Chip) (q : Req) (t cfg mstart apply : Nat) (mirs : List Pair) : Chip :=
  c.roleCmd q 0x0082 (mirrorOps t cfg mstart apply mirs) installer (fun c =>
    if 64 < mirs.length then (c, .now stBadFormat noPlace)
    else if c.pair.swAt.isSome || c.hand.any (fun h => !h.done) then (c, .now stBusy noPlace)
    else match c.armFault t 0 1 c.inGo with
      | some code => (c, .now code noPlace)
      | none =>
        if !c.inGo then (c.stageMirror cfg mstart apply mirs, .now stDone noPlace) else
        let c := c.stageMirror cfg mstart apply mirs
        (({ c with pair := { c.pair with swAt := some t } }).pairSend [.mirrorDecision true], .later 0))

/-- CHIP_RESET: once journaled, a WARM reset begins 1 ms later; no record is posted (R436). -/
def Chip.chipReset (c : Chip) (q : Req) : Chip :=
  c.roleCmd q 0x00A0 [0] installer (fun c =>
    ({ c with power := { c.power with resetDue := some (c.now + 1000000) } }, .silent))

end Sys2Proof.Machine
end

