-- ==== Sys2Proof/Machine/RowsPair.lean ====
section
/-! DEFINITION. What each command does: time and the pair link (R368 to R373, R392 to R403). -/

namespace Sys2Proof.Machine

/-- PAIR_BIND (R403). -/
def execPairBind (q : Req) (uid : Quad) (s : State) : Result :=
  s.does fun c => c.pairBind q uid.toNat

/-- PAIR_MIRROR (R403). -/
def execPairMirror (q : Req) (t : Quad) (cfg : Pair) (mstart : Pair) (apply : Pair) (mirs : List Pair) (s : State) : Result :=
  s.does fun c => c.pairMirror q t.toNat cfg.toNat mstart.toNat apply.toNat mirs

/-- GPTP_MESSAGE (R371). -/
def execGptpMessage (m : GptpMsg) (s : State) : Result :=
  s.does fun c => c.gptp m

/-- TIME_SOURCE_LOST (R371). -/
def execTimeSourceLost (s : State) : Result :=
  s.does fun c => c.timeLost

/-- TB_ALARM (R368). -/
def execTbAlarm (k : Fin 4) (s : State) : Result :=
  s.does fun c => c.tbAlarm k.val

/-- TB_STEP (R370). -/
def execTbStep (t : Quad) (s : State) : Result :=
  s.does fun c => c.tbStep t.toNat

/-- TBNOWL_READ (R373). -/
def execTbnowlRead (unit : Fin 67) (s : State) : Result :=
  s.does fun c => c.readBy unit.val 0x004 0x180

/-- ALIGN (R394). -/
def execAlign (e : AlignEnd) (s : State) : Result :=
  s.does fun c => c.pairAlign e

/-- ATTENTION (R395). -/
def execAttention (x : Partner) (s : State) : Result :=
  s.does fun c => c.attention x

/-- PAIR_FLIT (R397). -/
def execPairFlit (f : PairFlit) (s : State) : Result :=
  s.does fun c => c.pairFlit f

/-- LINK_LOSS (R397). -/
def execLinkLoss (s : State) : Result :=
  s.does fun c => c.linkLoss

/-- LANE_FAILURE (R398). -/
def execLaneFailure (x : LaneFault) (s : State) : Result :=
  s.does fun c => c.laneFail x

/-- PAIR_LANE_RETRAINED (R398). -/
def execPairLaneRetrained (k : Fin 5) (s : State) : Result :=
  s.does fun c => c.laneRetrained k.val

/-- YIELD (R399). -/
def execYieldMessage (s : State) : Result :=
  s.does fun c => c.yieldMsg

/-- MIRROR_START (R400). -/
def execMirrorStart (s : State) : Result :=
  s.does fun c => c.mirrorStart

end Sys2Proof.Machine
end

