-- ==== Sys2Proof/Machine/RowsPlan.lean ====
section
/-! DEFINITION. What each command does: the cox, the plan banks and the eights (R22 to R61, R238, R253 to R268). -/

namespace Sys2Proof.Machine

/-- CATCH (R22). -/
def execCatchInstant (go : Option PlanMark) (s : State) : Result :=
  s.does fun c => (c.hears go).catch_

/-- WINDOW_START (R25). -/
def execWindowStart (core : Fin 64) (i : Fin 4096) (s : State) : Result :=
  s.does fun c => c.onCore core.val (fun a c => c.windowStart a i.val)

/-- CLOSING_INSTANT (R56). -/
def execClosingInstant (core : Fin 64) (s : State) : Result :=
  s.does fun c => c.onCore core.val (fun a c => c.closingInstant a)

/-- NISTALL (R56). -/
def execNistall (core : Fin 64) (s : State) : Result :=
  s.does fun c => c.onCore core.val (fun a c => c.nistall a)

/-- PLAN_LOAD (R48). -/
def execPlanLoad (q : Req) (addr : Quad) (len : Pair) (s : State) : Result :=
  s.does fun c => c.planLoad q addr.toNat len.toNat

/-- PLAN_ARM (R50). -/
def execPlanArm (q : Req) (t : Quad) (s : State) : Result :=
  s.does fun c => c.planArm q t.toNat

/-- PLAN_DISARM (R48). -/
def execPlanDisarm (q : Req) (s : State) : Result :=
  s.does fun c => c.planDisarm q

/-- PLAN_DISCARD (R48). -/
def execPlanDiscard (q : Req) (s : State) : Result :=
  s.does fun c => c.planDiscard q

/-- CLEARING_COMPLETE (R238). -/
def execClearingComplete (way : ClearAt) (s : State) : Result :=
  s.does fun c => c.clearingDone way

/-- EIGHT_POWER_DOWN (R253). -/
def execEightPowerDown (e : Fin 8) (s : State) : Result :=
  s.does fun c => c.poweredDown e.val

/-- CORE_SELF_TEST_COMPLETE (R259). -/
def execCoreSelfTestComplete (pi : Fin 72) (pass : Bool) (s : State) : Result :=
  s.does fun c => c.selfTest pi.val pass

/-- ARRAY_MOVE (R260). -/
def execArrayMove (q : Req) (core : Fin 64) (s : State) : Result :=
  s.does fun c => c.arrayMove q core.val

/-- ARRAY_COPY_COMPLETE (R260). -/
def execArrayCopyComplete (e : Fin 8) (s : State) : Result :=
  s.does fun c => c.arrayCopied e.val

/-- CORE_SUBST (R268). -/
def execCoreSubst (q : Req) (core : Fin 64) (s : State) : Result :=
  s.does fun c => c.coreSubst q core.val

/-- CORE_TEST (R268). -/
def execCoreTest (q : Req) (pi : Fin 72) (s : State) : Result :=
  s.does fun c => c.coreTest q pi.val

/-- AGING_SAMPLE (R261). -/
def execAgingSample (pi : Fin 72) (margin : BitVec 10) (s : State) : Result :=
  s.does fun c => c.agingSample pi.val margin.toNat

/-- LOCKSTEP_MISMATCH (R266). -/
def execLockstepMismatch (core : Fin 64) (kind : Fin 5) (item : Pair) (s : State) : Result :=
  s.does fun c => c.mismatch core.val kind.val item.toNat

/-- EIGHT_POWER_UP_COMPLETE (R253). -/
def execEightPowerUpComplete (e : Fin 8) (s : State) : Result :=
  s.does fun c => c.poweredUp e.val

end Sys2Proof.Machine
end

