-- ==== Sys2Proof/Machine/RowsPorts.lean ====
section
/-! DEFINITION. What each command does: the field ports and the plant ports (R374 to R391). -/

namespace Sys2Proof.Machine

/-- SAMPLE_INSTANT (R376). -/
def execSampleInstant (n : Fin 32) (i : Fin 64) (s : State) : Result :=
  s.does fun c => c.sampleInstant n.val i.val

/-- TRANSMIT_INSTANT (R378). -/
def execTransmitInstant (n : Fin 32) (i : Fin 64) (s : State) : Result :=
  s.does fun c => c.transmitInstant n.val i.val

/-- FIELD_FRAME_RECEIVED (R376). -/
def execFieldFrameReceived (n : Fin 32) (bytes : List Byte) (fcsOk : Bool) (stamp : Quad) (s : State) : Result :=
  s.does fun c => c.fieldFrame n.val bytes fcsOk stamp.toNat

/-- SUPERVISOR_CONVERSION (R381). -/
def execSupervisorConversion (n : Fin 32) (vs : Word) (is : Word) (fast : Bool) (checkOk : Bool) (s : State) : Result :=
  s.does fun c => c.supervise n.val vs.toNat is.toNat fast checkOk

/-- REARM (R383). -/
def execRearm (unit : Fin 67) (n : Fin 32) (s : State) : Result :=
  s.does fun c => c.writeBy unit.val (0x120 + n.val) 0x102 1

/-- SOFT_START_END (R383). -/
def execSoftStartEnd (n : Fin 32) (s : State) : Result :=
  s.does fun c => c.softEnd n.val

/-- FIELD_LINK_CHANGE (R375). -/
def execFieldLinkChange (n : Fin 32) (up : Bool) (p24 : Bool) (req24 : Bool) (insist : Bool) (leader : Bool) (s : State) : Result :=
  s.does fun c => c.fieldLink n.val up p24 req24 insist leader

/-- PORT_PROFILE (R403). -/
def execPortProfile (q : Req) (n : Fin 32) (p0 : Pair) (p1 : Pair) (p2 : Pair) (s : State) : Result :=
  s.does fun c => c.portProfile q n.val p0.toNat p1.toNat p2.toNat

/-- GATE_CONTROL_ENTRY (R388). -/
def execGateControlEntry (k : Fin 2) (i : Fin 256) (s : State) : Result :=
  s.does fun c => c.gateEntry k.val i.val

/-- PLANT_FRAME_RECEIVED (R390). -/
def execPlantFrameReceived (k : Fin 2) (bytes : List Byte) (fcsOk : Bool) (stamp : Quad) (s : State) : Result :=
  s.does fun c => c.plantFrame k.val bytes fcsOk stamp.toNat

/-- TRAINING_TIMEOUT (R387). -/
def execTrainingTimeout (k : Fin 2) (s : State) : Result :=
  s.does fun c => c.trainTimeout k.val

/-- PLANT_LINK_CHANGE (R387). -/
def execPlantLinkChange (k : Fin 2) (up : Bool) (s : State) : Result :=
  s.does fun c => c.plantLink k.val up

/-- STREAM_RECOVERY_RESET (R389). -/
def execStreamRecoveryReset (k : Fin 2) (i : Fin 64) (s : State) : Result :=
  s.does fun c => c.recoveryReset k.val i.val

end Sys2Proof.Machine
end

