-- ==== Sys2Proof/Machine/Power.lean ====
section
/-! DEFINITION. Resets, clock faults and holdover (R425 to R437, R461, R462). -/

namespace Sys2Proof.Machine

/-! ### What a reset keeps (R434, R435) -/

/-- Pages whose registers WARM and HOLDOVER EXIT keep: CHIP, PWR, RST, TB and ROLE. (DEDUCED, log entry 48) -/
def keptPage (page : Nat) : Bool := [0x000, 0x002, 0x003, 0x004, 0x007].contains page

/-- Registers that power-on reset keeps: the fused UID and lifecycle (R359, R360). (DEDUCED, log entry 47) -/
def keptReg (key : Nat) : Bool := [regKey 0 0x100, regKey 0 0x102, regKey 0 0x104].contains key

/-- A world after a reset: its watermark stands. -/
def WorldS.down (w : WorldS) : WorldS := { wm := w.wm }

/-- An LPDDR controller after a reset other than power-on: in self-refresh or DOWN, with what its devices hold. -/
def Lpd.down (l : Lpd) : Lpd :=
  { st := if l.st == .hold then .hold else .down, lost := l.lost, segQ := l.segQ, poison := l.poison, bad := l.bad }

/-- Everything a WARM reset or a holdover clears: cores, arrays, QDR, rings, lanes, ports, plan banks, worlds, trace and
counters, and every register but those of the kept pages. What stays is the always-on domain and the contents of LPDDR.
(DEDUCED, log entry 48) -/
def Chip.clearMain (c : Chip) : Chip :=
  { mem := tclear (tclear c.mem 0 (2 * qdrEnd)) (2 * tightBase) (2 * 72 * 0x1_0000)
    ext := { lpd := c.ext.lpd.map (fun e => (e.1, e.2.down)) |>.filter (fun e => e.2 != {})
             keyGen := c.ext.keyGen, enc := c.ext.enc }
    free := c.free
    roles := { c.roles with ops := [] }
    web := c.web.down, deckle := c.deckle.down
    pair := { since := c.now }
    power := { c.power with releasing := false, resetDue := none, faultDue := false }
    regs := c.regs.filter (fun e => keptPage (e.1 / 0x800))
    staged := c.staged.filter (fun e => keptPage (e.1 / 0x800))
    caps := c.caps.filter (fun e => keptPage e.1)
    banked := c.banked.filter (fun e => keptPage (e.1 / 128 / 0x800))
    lockAt := c.lockAt, now := c.now, nowFrac := c.nowFrac }

/-- POR: everything but the fuses, the credential store, the anchor, the journal, the boot flash and the retired pipelines; a
pending LIFECYCLE target is entered, and RETURN erases the credential store (R360, R434). The registers that show the store
read their reset values until it is loaded (R7). (DEDUCED, log entry 47) (DEDUCED, log entry 53) -/
def Chip.por (c : Chip) : Chip :=
  let target := c.fld 0x000 0x104 5 3
  let erase := target == 3
  let p := c.power
  let r := { c.roles with ops := [], loaded := false }
  let c' : Chip :=
    { free := c.free
      roles := if erase then { r with creds := [], oppol := 0, roleCfg := 3 } else r
      power := { fused := p.fused, secret := p.secret, dirRead := p.dirRead, credsRead := p.credsRead, fw := p.fw
                 fwActive := p.fwActive, fwPend := p.fwPend
                 retired := p.retired, pfail := p.pfail, pgCore := p.pgCore, pgSer := p.pgSer, pgIo := p.pgIo, tap := p.tap }
      regs := c.regs.filter (fun e => keptReg e.1) }
  if target = 7 then c' else (c'.setFld 0x000 0x104 2 0 target).setFld 0x000 0x104 5 3 7

/-! ### Steps 1 to 3 of holdover entry (R429) -/

/-- A controller enters self-refresh, stays in it, or becomes DOWN where it was neither LIVE nor in it, or is left unpowered
(R337, R340, R432). -/
def Lpd.hold (l : Lpd) (powered : Bool) : Lpd :=
  { l with st := if (l.st == .live || l.st == .hold) && powered then .hold else .down }

/-- Issue stops on every core, every switch opens, every link drops, and the controllers hold their contents. -/
def Chip.stopAll (c : Chip) (both : Bool) : Chip :=
  let c := { c with pipes := [], strokeOn := false }
  let c := (List.range 32).foldl (fun c n => if (c.fport n).closed then c.trip n 0 else c.linkDown n) c
  let c := (List.range 2).foldl Chip.pltDown c
  let c := if c.pair.st == .silent then c else c.pairDrop 6
  (c.setLp 0 ((c.lp 0).hold true)).setLp 1 ((c.lp 1).hold both)

/-! ### WARM (R433 to R436) -/

/-- Start-up resumes after the steps of a list, with the cause of the reset. -/
def Chip.resume (c : Chip) (ended : List Nat) (cause : Nat) : Chip :=
  let c := { c with power := { c.power with st := .startup, ended := ended } }
  let c := (c.setFld 0x003 0x100 2 0 cause).bumpFld 0x003 0x102 31 0
  c.setLive 0x005 0x110 c.runningStep

/-- A WARM reset of a cause; a request during holdover, and one before start-up begins, is ignored (R432). (DEDUCED, log entry
52) -/
def Chip.warmReset (c : Chip) (cause : Nat) : Chip :=
  match c.power.st with
  | .startup | .run | .safe => ((c.stopAll true).clearMain).resume [0] cause
  | _ => c

/-- The WARM reset of a CHIP_RESET: its journal entry takes DONE (R362, R436). (DEDUCED, log entry 32) -/
def Chip.resetWarm (c : Chip) (t : Nat) : Chip :=
  let c := c.reach t
  ((c.roles.ops.filter (fun o => o.code == 0x00A0)).foldl (fun c o => match o.jseq with
    | some n => c.journalEnd n stDone
    | none => c) c).warmReset 2

/-- WARM: SYSRST_N, or a reset that is due by a clock fault or CHIP_RESET. While one is due the row does not say which of the
two comes first, and a value no rule gives decides; a CHIP_RESET whose instant has passed has come (R427, R433, R436). (DESIGN
CHOICE, log entry 100) -/
def Chip.warm (c : Chip) : Chip :=
  if !(c.power.faultDue || c.power.resetDue.isSome) then c.warmReset 1
  else
    let d := c.draw
    match c.power.faultDue, c.power.resetDue with
    | true, _ => d.1.warmReset (if d.2 % 2 = 0 then 1 else 4)
    | false, some t => if c.now < t && d.2 % 2 == 0 then d.1.warmReset 1 else d.1.resetWarm t
    | false, none => c

/-- FIRMWARE_WATCHDOG_EXPIRY. -/
def Chip.fwWatchdog (c : Chip) : Chip := c.warmReset 3

/-- SAFE_RETRY: start-up runs again from FLASH (R428). -/
def Chip.safeRetry (c : Chip) : Chip :=
  if c.power.st == .safe then
    let c := { c with power := { c.power with st := .startup, ended := [0] } }
    c.setFld 0x005 0x110 3 0 c.runningStep
  else c

/-! ### Clocks (R427) -/

/-- The first fault since CLKFLT.VALID was cleared is recorded, and every fault counted. -/
def Chip.clkRecord (c : Chip) (clk : Nat) : Chip :=
  let c := if c.fld 0x001 0x102 3 3 = 1 then c else c.setFld 0x001 0x102 3 0 (clk + 8)
  c.bumpFld 0x001 0x102 31 16

/-- A chip fault: steps 1 to 3 of holdover entry and an alarm record. -/
def Chip.chipFault (c : Chip) : Chip := (c.stopAll true).alarmRecord .clock

/-- Whether the clock monitors are armed: step CLOCKS has ended with its core-domain PLLs locked (R427, R440). -/
def Chip.monitored (c : Chip) : Bool :=
  c.power.ended.contains 4 && c.live 0x005 0x164 % 2 ^ 16 != stFailed
  && (c.power.st == .startup || c.power.st == .run || c.power.st == .safe)

/-- CLOCK_FAULT of REF_CLK (0), a core-domain PLL (1 to 4), the plant SerDes PLL (5) or the pair-link one (6), in every state
in which the monitors are armed. -/
def Chip.clockFault (c : Chip) (clk : Nat) : Chip :=
  if c.monitored then
    let c := c.clkRecord clk
    match clk with
    | 0 =>
      let c := (c.setFld 0x001 0x100 1 0 2).chipFault
      { c with power := { c.power with faultDue := true } }
    | 5 =>
      let c := c.setFld 0x001 0x100 6 6 0
      (List.range 2).foldl (fun c k =>
        (c.pltDown k).setFld (pltPage k) 0x100 2 1 3) c
    | 6 =>
      let c := c.setFld 0x001 0x100 7 7 0
      if c.inGo then c.pairLoss else c
    | k => ((c.setFld 0x001 0x100 (k + 1) (k + 1) 0).chipFault).warmReset 4
  else c

/-- SERDES_PLL_RELOCK: a try 10 ms after the last; the plant ports then train, or the pair link may (R427). -/
def Chip.relock (c : Chip) (pair ok : Bool) : Chip :=
  let b := if pair then 7 else 6
  if c.fld 0x001 0x100 b b = 1 || !ok || !c.monitored then c
  else
    let c := c.setFld 0x001 0x100 b b 1
    if pair then c
    else (List.range 2).foldl (fun c k =>
      if c.fld (pltPage k) 0x100 2 1 = 3 then c.pltTrain k else c) c

/-! ### Holdover (R429 to R432, R461, R462) -/

/-- The segments of a controller that a holdover does not keep. -/
def Chip.lostSegs (c : Chip) (k : Nat) : BitVec 8 := ~~~(BitVec.ofNat 8 (c.fld (lpdPage k) 0x02A 7 0))

/-- A controller marks the segments that were not kept: every quad of them reads poisoned (R340). -/
def Lpd.lose (l : Lpd) (segs : BitVec 8) (segQ : Nat) : Lpd :=
  let gone (q : Nat) : Bool := segQ != 0 && segs.getLsbD ((q - lpdBase / 4) / segQ)
  { l with
    lost := l.lost ||| segs, segQ := segQ
    poison := l.poison.filter (fun e => !gone e.1), bad := l.bad.filter (fun e => !gone e.1) }

/-- HOLDOVER_ENTRY: PWRFAIL_N has been low for PFDEB; the entry takes 100 µs (R429). -/
def Chip.holdEntry (c : Chip) : Chip :=
  match c.power.st with
  | .startup | .run =>
    let t := c.now
    let both := c.fld 0x0E8 0x02A 8 8 == 1
    let segs0 := c.lostSegs 0
    let segs1 := c.lostSegs 1
    let segQ := c.lpdWords / 32
    let kept := c.power.retained
    let c := c.holdPackets.stopAll both
    let c := (c.setLp 0 ((c.lp 0).lose segs0 segQ)).setLp 1 ((c.lp 1).lose segs1 segQ)
    let held := (c.setFld 0x004 0x100 4 4 1).bumpFld 0x002 0x100 31 16
    let c := { held.clearMain with
      ext := { held.ext with qdr := [], qpoison := [], qbad := [], turn := [], keys := 0 }, roles := held.roles }
    let c := (c.setLive 0x002 0x102 (t % 2 ^ 32)).setLive 0x002 0x104 (t / 2 ^ 32 % 2 ^ 32)
    let c := c.reach (t + 100000)
    { c with power := { c.power with
      st := .holdover, ended := [], pfail := true, retained := if segs0.getLsbD 7 then [] else kept } }
  | _ => c

/-- The role commands that the holdover cut short: their entries are completed with INTERRUPTED (R432). -/
def Chip.interruptOps (c : Chip) : Chip :=
  (c.roles.ops.filterMap LongOp.jseq).foldl (fun c s => c.journalEnd s stInterrupted) c

/-- The end of a holdover: start-up resumes at CLOCKS, what it cut short is INTERRUPTED, and its record, whose data are the
entry TB and the duration, is journaled (R431, R432). (DESIGN CHOICE, log entry 51) -/
def Chip.holdEnd (c : Chip) : Chip :=
  let t := c.live 0x002 0x102 + c.live 0x002 0x104 * 2 ^ 32
  let ms := Nat.min 0xFFFF_FFFF ((c.now - t) / 1000000)
  let e := c.ext
  let c := { c.interruptOps.clearMain with ext := e }
  let c := (c.setLive 0x002 0x106 ms).dataRecord .holdover stDone (toWords 4 t ++ toWords 2 ms)
  c.resume [0, 1, 2, 3] 5

/-- HOLDOVER_EXIT: PWRFAIL_N has been high for PFDEB and every power-good input is asserted. -/
def Chip.holdExit (c : Chip) : Chip :=
  if c.power.st == .holdover then
    ({ c with power := { c.power with pfail := false, pgCore := true, pgSer := true, pgIo := true } }).holdEnd
  else c

/-- POWER_GOOD_FALL of PG_CORE (0), PG_SER (1) or PG_IO (2) acts as PWRFAIL_N low (R461). (DEDUCED, log entry 52) -/
def Chip.powerGoodFall (c : Chip) (k : Nat) : Chip :=
  let p := c.power
  let p := match k with | 0 => { p with pgCore := false } | 1 => { p with pgSer := false } | _ => { p with pgIo := false }
  ({ c with power := p }).holdEntry

/-- BACKUP_RAIL_LOSS during holdover: a POR, or the end of the holdover with every line of LPDDR lost (R462). -/
def Chip.railLoss (c : Chip) (resets : Bool) : Chip :=
  if c.power.st != .holdover then c
  else if resets then c.por
  else
    let segQ := (c.lp 0).segQ
    let c := (c.setLp 0 ((c.lp 0).lose 0xFF segQ)).setLp 1 ((c.lp 1).lose 0xFF segQ)
    ({ c with power := { c.power with retained := [] } }).holdEnd

end Sys2Proof.Machine
end

