-- ==== Sys2Proof/Machine/Boot.lean ====
section
/-! DEFINITION. The start-up steps (R438 to R444). What the boot flash and the fuses hold, and whether hardware trains, are
operands of the steps. -/

namespace Sys2Proof.Machine

/-- Whether start-up follows a power-on reset. -/
def Chip.afterPor (c : Chip) : Bool := c.fld 0x003 0x100 2 0 == 0

/-- ROM: the fuses are read the first time, and lifecycle SCRAP goes no further. (DEDUCED, log entry 46) -/
def Chip.stepRom (c : Chip) (ok : Bool) (f : Fuses) : Chip :=
  if !c.stepRuns 0 then c
  else
    let c := if c.power.fused then c
      else
        let c := ((c.setLive 0 0x100 (f.uid.toNat % 2 ^ 32)).setLive 0 0x102 (f.uid.toNat / 2 ^ 32)).setFld 0 0x104 2 0 f.lifecycle.val
        { c with
          roles := { c.roles with maker := ⟨3, f.makerKey.toNat, f.makerX.toNat, f.makerY.toNat, 0⟩ }
          power := { c.power with fused := true, secret := f.secret.toNat } }
    if ok && c.lifecycle != 4 then
      ({ c with power := { c.power with st := .startup } }).stepEndFree 0 stDone 0
    else (c.stepEndFree 0 (if ok then stDone else stFailed) 0).setFld 0x005 0x110 3 0 0xF

/-- The copy of the directory that is used: the one with valid CRC-32 and the higher SEQ; of two with one SEQ the first (R439).
(DEDUCED, log entry 46) -/
def FlashRead.copy (d : FlashRead) : Option DirCopy :=
  match d.copy0.crcOk, d.copy1.crcOk with
  | true, true => some (if d.copy0.seq.toNat < d.copy1.seq.toNat then d.copy1 else d.copy0)
  | true, false => some d.copy0
  | false, true => some d.copy1
  | false, false => none

/-- FLASH: xSPI is set up and the directory read; the first time its flags give the active and the pending slot of launch
firmware, and FW_UPDATE changes them from then on (R438 to R440). (DEDUCED, log entry 46) -/
def Chip.stepFlash (c : Chip) (d : FlashRead) : Chip :=
  if !c.stepRuns 1 then c
  else match d.copy with
    | some x =>
      if !d.ok then c.stepSafe 1 0
      else
        let c := if c.power.dirRead then c else { c with power := { c.power with
          dirRead := true, fwActive := x.active.val, fwPend := x.pending.map Fin.val } }
        c.stepEndFree 1 stDone 0
    | none => c.stepSafe 1 0

/-- What a firmware slot holds: what FW_UPDATE wrote, else what the flash came with. -/
def Chip.fwSlot (c : Chip) (k : Nat) (a b : List Word) : List Word :=
  if c.power.fw.any (fun e => e.1 == k) then tget [] c.power.fw k else if k = 0 then a else b

/-- After POR the pending slot is loaded, else the active one, and the step fails when both slots do, so the slot that is
neither is tried last; keys are made anew (R353, R434, R440). In lifecycle RETURN the device key stays erased (R360). (DEDUCED,
log entry 53) -/
def Chip.fwPor (c : Chip) (a b : List Word) : Chip :=
  let p := c.power
  match (p.fwPend.toList ++ [p.fwActive, 1 - p.fwActive]).find? (fun k => c.signedBy 3 (c.fwSlot k a b)) with
  | none => c.stepSafe 2 0
  | some k =>
    let (c, g) := c.draw
    let wm := watermark (c.fwSlot k a b)
    ({ c with
      power := { p with fwActive := k, fwPend := none, wmLaunch := wm
                        devKey := if c.lifecycle = 3 then 0 else Config.deviceKey p.secret wm }
      ext := { c.ext with keyGen := g } }).stepEndFree 2 stDone 0

/-- FIRMWARE: the images of slots A and B as the flash came with them. -/
def Chip.stepFirmware (c : Chip) (a b : List Word) : Chip :=
  if !c.stepRuns 2 then c
  else if c.afterPor then c.fwPor a b
  else
    let ws := c.fwSlot c.power.fwActive a b
    if c.signedBy 3 ws && watermark ws == c.power.wmLaunch then c.stepEndFree 2 stDone 0 else c.stepSafe 2 0

/-- A register of a port takes a value from a signed region, live and staged. -/
def Chip.setBoth (c : Chip) (page off v : Nat) : Chip :=
  { (c.setLive page off v) with staged := tset (heldReset page off) c.staged (regKey page off) v }

/-- What BOOTPARM sets, where the region verifies as signed by an installer (R439). (DEDUCED, log entry 46) -/
def Chip.applyParm (c : Chip) (b : BootCreds) : Chip :=
  if !c.signedBy 2 b.parm then c
  else
    let c := (c.setLive 0x005 0x112 (b.twait.toNat + b.pwait.toNat * 2 ^ 16)).setFld 0x005 0x114 0 0 (b2n b.pairen)
    let c := (c.setBoth (pltPage 0) 0x020 (b.plt0.toNat % 4)).setBoth (pltPage 1) 0x020 (b.plt1.toNat % 4)
    (c.pltEnabled 0).pltEnabled 1

/-- CREDENTIALS: the credential store and the partner are read the first time, BOOTPARM every time; the records of steps 0 to 2
go to the journal, and a broken chain begins anew with an alarm record. (DEDUCED, log entry 46) -/
def Chip.stepCredentials (c : Chip) (b : BootCreds) : Chip :=
  if !c.stepRuns 3 then c
  else
    let c := if c.power.credsRead then c
      else
        let creds := ((List.range 16).zip b.slots).foldl (fun t q =>
          tset {} t q.1 ⟨q.2.role.val, q.2.keyId.toNat, q.2.x.toNat, q.2.y.toNat, 0⟩) []
        { c with roles := { c.roles with creds := creds, partner := b.partner.toNat }
                 power := { c.power with credsRead := true } }
    let c := (({ c with roles := { c.roles with loaded := true } }).showPolicy).applyParm b
    let c := ([0, 1, 2].filter (fun k => c.live 0x005 (0x140 + 8 * k) != 0)).foldl Chip.bootJournal c
    if b.chainOk then c.stepEndFree 3 stDone 0
    else (({ c with roles := { c.roles with newest := none } }).alarmRecord .chain).stepEndFree 3 stPartial 0

/-- CLOCKS: the PLLs in the order of CLKSTAT, from CCLK; the maps of the eights are those of R259 from its end. -/
def Chip.stepClocks (c : Chip) (ok : BitVec 6) : Chip :=
  if !c.stepRuns 4 then c
  else
    let c := c.setFld 0x001 0x100 7 0 (1 + ok.toNat * 4)
    match (List.range 4).find? (fun i => !ok.getLsbD i) with
    | some i => c.stepSafe 4 i
    | none =>
      let c := (List.range 8).foldl (fun c e => c.setEight e (c.freshMaps e { c.eight e with pwr := .gated })) c
      match [4, 5].find? (fun i => !ok.getLsbD i) with
      | some i => c.stepEndFree 4 stPartial i
      | none => c.stepEndFree 4 stDone 0

/-- QDR: the four channels train and every quad is zeroed. -/
def Chip.stepQdr (c : Chip) (ok : BitVec 4) : Chip :=
  if !c.stepRuns 5 then c
  else
    let c := (List.range 4).foldl (fun c ch =>
      (c.loadTraining (qdrPage ch)).setQd ch { st := if ok.getLsbD ch then .live else .failed, calAt := c.now }) c
    let c := { c with mem := tclear c.mem 0 (2 * qdrEnd), ext := { c.ext with qpoison := [], qbad := [] } }
    match (List.range 4).find? (fun i => !ok.getLsbD i) with
    | some i => c.stepSafe 5 i
    | none => c.stepEndFree 5 stDone 0

/-- The LPDDR devices after POR: every line holds the ciphertext of zeros. -/
def Chip.zeroLpd (c : Chip) : Chip :=
  { c with mem := tclear c.mem (2 * lpdBase) (2 * (devBase - lpdBase))
           ext := { c.ext with enc := [], lpd := [] } }

/-- A controller trains: LIVE, or DOWN; after a reset that kept the devices of a controller alive only one in self-refresh is
LIVE, and where no devices were kept alive every quad is lost (R340). The training of LPD1 is refused while its masks differ
from those of LPD0 (R331). (DESIGN CHOICE, log entry 97) -/
def Chip.trainLpd (c : Chip) (ok : BitVec 2) (held : Bool) (k : Nat) : Chip :=
  let up := ok.getLsbD k && (!held || (c.lp k).st == .hold)
  if c.masksDiffer k then c.setLp k { c.lp k with st := .down }
  else
    let c := c.lpdTrain k
    let l := if held || c.afterPor then c.lp k else (c.lp k).lose 0xFF (c.lpdWords / 32)
    c.setLp k { l with st := if up then .live else .down }

/-- LPDDR: both controllers train, the keys are loaded, and a controller that missed writes is remirrored (R340, R434). (DESIGN
CHOICE, log entry 11) -/
def Chip.stepLpddr (c : Chip) (ok : BitVec 2) : Chip :=
  if !c.stepRuns 6 then c
  else
    let c := if c.afterPor then c.zeroLpd else c
    let held := [0, 1].any (fun k => (c.lp k).st == .hold)
    let c := [0, 1].foldl (fun c k => c.trainLpd ok held k) c
    let c := { c with ext := { c.ext with keys := 7 } }
    let c := [0, 1].foldl (fun c k =>
      if ok.getLsbD k && (c.lp k).st == .down && (c.lp (1 - k)).st == .live && !c.masksDiffer k then c.remirror k else c) c
    match (c.lp 0).st == .down, (c.lp 1).st == .down with
    | false, false => c.stepEndFree 6 stDone 0
    | false, true => c.stepEndFree 6 stPartial 1
    | true, false => c.stepEndFree 6 stPartial 0
    | true, true => c.stepSafe 6 0

/-- One world image is verified and measured; after POR its digest becomes the watermark (R352, R434). -/
def Chip.measureWorld (c : Chip) (w : Bool) (ws : List Word) : Chip :=
  let x := c.world w
  let x := if c.afterPor then { x with wm := watermark ws } else x
  let ok := imageForm w ws && c.signedBy 2 ws && watermark ws == x.wm
  let c := c.setWorld w { x with st := if ok then .starting else .failed, img := if ok then ws else [] }
  if w && !ok then (({ c with dfail := true }).alarmRecord .deckleFailed).raise 0x32B else c

/-- WORLDS. -/
def Chip.stepWorlds (c : Chip) (web deckle : List Word) : Chip :=
  if !c.stepRuns 7 then c
  else
    let c := (c.measureWorld false web).measureWorld true deckle
    if c.web.st == .failed then c.stepEndFree 7 stPartial 0
    else if c.deckle.st == .failed then c.stepEndFree 7 stPartial 1
    else c.stepEndFree 7 stDone 0

/-- The switch of a port closes as by REARM, in step FIELD (R383, R428). -/
def Chip.autoClose (c : Chip) (n : Nat) : Chip :=
  let p := c.fport n
  if p.closed || !c.rearmOk n then c else c.closeSwitch n

/-- The profile and FPCFG of a field port as PORTTAB holds them. -/
def Chip.applyPort (c : Chip) (f : FieldSet) : Chip :=
  let pg := fpPage f.port.val
  let cfg := f.cfg.toNat &&& ((regD pg 0x020).map RegD.rw).getD 0
  let c := (((c.setBoth pg 0x030 (f.p0.toNat % 2 ^ 26)).setBoth pg 0x032 f.p1.toNat).setBoth pg 0x034 f.p2.toNat).setBoth pg
    0x020 cfg
  if f.autoOn then c.autoClose f.port.val else c

/-- FIELD: PORTTAB is applied where the region verifies as signed by an installer; the record holds the link bit of each port
(R439, R440). (DEDUCED, log entry 46) -/
def Chip.stepField (c : Chip) (tab : PortTab) : Chip :=
  if !c.stepRuns 8 then c
  else
    let c := if c.signedBy 2 tab.words then tab.ports.foldl Chip.applyPort c else c
    c.stepEnd 8 stDone 0 c.fpxLink

/-- PLANT: TB is stepped to the source that was found, the pair link where the step ends at ATTENTION (R371, R440); PARTIAL
with an enabled port untrained or TB free-running. -/
def Chip.stepPlant (c : Chip) (tb : Quad) : Chip :=
  if !c.stepRuns 9 then c
  else
    let met := c.pair.st == .attention || c.inGo
    let now := c.fld 0x004 0x100 1 0
    let src := if now = 0 && met then 2 else now
    let c := if src = 0 then c else c.tbStep tb.toNat
    let free := c.fld 0x004 0x100 3 3 == 0 && !met
    match [0, 1].find? (fun k => c.fld (pltPage k) 0x020 1 1 == 1 && !c.pltLink k) with
    | some k => c.stepEnd 9 stPartial k src
    | none => c.stepEnd 9 (if free then stPartial else stDone) 0 src

/-- The owners a plan gives regions of logical LPDDR, each party with its world at bit 6. -/
def Plan.lpdClaims (p : Plan) : List OwnE :=
  (p.owns.filter (fun o => o.kind == 3)).map (fun o => { o with party := o.party + 2 ^ 6 * b2n (p.worldOf o.party) })

/-- The regions of logical LPDDR whose owner, a party in its world, is not that of their last completed claim are scrubbed, and
claimed; what the plan gives to no party keeps its last claim (R366, R443). -/
def Chip.firstScrub (c : Chip) (p : Plan) : Chip :=
  (handSegs { owns := c.power.lastOwns } { owns := p.lpdClaims } 3).foldl (fun c h =>
    match h.to_ with
    | some q =>
      let c := c.zeroWords (worldKey (decide (2 ^ 6 ≤ q))) (h.first * 4096) ((h.last + 1 - h.first) * 4096)
      { c with power := { c.power with lastOwns := takeClaim c.power.lastOwns ⟨3, q, h.first, h.last⟩ } }
    | none => c) c

/-- The image step ADMIT takes: the retained one after WARM and HOLDOVER EXIT where the checker admits it, else BOOTPLAN. -/
def Chip.firstImage (c : Chip) (boot : List Word) : List Word × Nat :=
  let r := c.power.retained
  if !c.afterPor && !r.isEmpty && (c.planFault r true).isNone then (r, 1) else (boot, 0)

/-- With PAIREN the pair link is enabled, from the start of step PAIR on. -/
def Chip.enablePair (c : Chip) : Chip :=
  if c.fld 0x005 0x114 0 0 == 1 then c.setBoth 0x0F3 0x020 (setBits (c.live 0x0F3 0x020) 0 0 1) else c

/-- The first plan is admitted, from BOOTPLAN (0) or the retained image (1). -/
def Chip.takeFirst (c : Chip) (ws : List Word) (src : Nat) : Chip :=
  let p := readPlan ws
  let c := ({ c with bankA := ⟨.admitted, some p, ws⟩ }).setFld 0x005 0x114 1 1 src
  let c := (List.range 8).foldl (fun c e => if p.usesEight e then c.powerUp e else c) c
  (c.firstScrub p).enablePair.stepEndFree 10 stDone 0

/-- ADMIT: the first plan is chosen and admitted, its eights power up and LPDDR is scrubbed (R443). -/
def Chip.stepAdmit (c : Chip) (boot : List Word) : Chip :=
  if !c.stepRuns 10 then c
  else
    let q := c.firstImage boot
    match c.planFault q.1 true with
    | some (code, _, _) => c.stepSafe 10 code
    | none => c.takeFirst q.1 q.2

/-- PAIR: DONE once ATTENTION has passed, or with PAIREN 0 (R444). -/
def Chip.stepPair (c : Chip) : Chip :=
  if !c.stepRuns 11 then c
  else if c.fld 0x005 0x114 0 0 = 0 || c.pair.goAt.isSome || c.inGo then c.stepEndFree 11 stDone 0
  else c.stepEndFree 11 stPartial 0

/-- The world images' writes, made against the first plan's owner map (R351, R443). (DEDUCED, log entry 50) -/
def Chip.applyImages (c : Chip) : Chip :=
  let live := { c with isLive := true, liveB := false }
  let one (c : Chip) (w : Bool) : Chip := if (c.world w).st == .starting then c.applyImage w (c.world w).img else c
  { (one (one live false) true) with isLive := c.isLive, liveB := c.liveB }

/-- RELEASE: once every eight of the first plan is on, the images are written and the first catch is armed: the one the partner
named, or the earliest at least 1 ms ahead; without ATTENTION the chip is active (R441, R443, R444). (DEDUCED, log entry 50) -/
def Chip.stepRelease (c : Chip) : Chip :=
  match c.bankA.plan with
  | none => c
  | some p =>
    if !c.stepRuns 12 || c.power.releasing || (List.range 8).any (fun e => p.usesEight e && (c.eight e).pwr != .on) then c
    else
      let c := c.applyImages
      let c := { c with power := { c.power with releasing := true }, bankA := { c.bankA with st := .armed } }
      if c.pair.goAt.isSome then
        -- the chip that names the first catch names one at least 1 ms after this step begins
        if c.pair.active && c.armedAt.any (fun t => decide (t < c.now + 1000000)) then
          let t := some (p.catchFrom (c.now + 1000000))
          { c with armedAt := t, pair := { c.pair with goAt := t } }
        else c
      else { c with armedAt := some (p.catchFrom (c.now + 1000000)), pair := { c.pair with active := true, actAt := c.now } }

end Sys2Proof.Machine
end

