-- ==== Sys2Proof/Machine/Tap.lean ====
section
/-! DEFINITION. The IEEE 1149.1 test access port: its instruction, the scan registers, and the test modes that hold the power
switches off (R433, R466, R467). -/

namespace Sys2Proof.Machine

/-- The test access port. -/
def Chip.tap (c : Chip) : Tap := c.power.tap

/-- The chip with it replaced. -/
def Chip.setTap (c : Chip) (t : Tap) : Chip := { c with power := { c.power with tap := t } }

/-- IDCODE (R466). -/
def idcode : BitVec 32 := 0xB640_0F9D

/-- The instruction that acts: in SERVICE and SCRAP every one but IDCODE acts as BYPASS (R467). -/
def Chip.tapActs (c : Chip) : TapInstr :=
  if (c.lifecycle == 2 || c.lifecycle == 4) && c.tap.ir != .idcode then .bypass else c.tap.ir

/-- Whether a test mode is active: the pins are not those of the chip's own function. -/
def Chip.testMode (c : Chip) : Bool := c.tapActs == .extest || c.tapActs == .clamp || c.tapActs == .highz

/-- The level of FPn_PSW, true for on: off in every test mode (R466), and outside RUN but for the switches that step FIELD of
start-up closes (R428). -/
def Chip.psw (c : Chip) (n : Nat) : Bool :=
  (c.fport n).closed && (c.power.st == .run || c.power.st == .startup) && !c.testMode

/-- A scan register after some bits from TDI, and the bits it gave to TDO, each first bit first. -/
def scanThrough (reg bits : List Bool) : List Bool × List Bool :=
  ((reg ++ bits).drop bits.length, (reg ++ bits).take bits.length)

/-- The bits of a number, lowest first. -/
def bitList (n x : Nat) : List Bool := (List.range n).map (bitN x)

/-- What the boundary chain captures: the pins it covers, whose levels and order the spec does not give. (DESIGN CHOICE, log
entry 71) -/
def Chip.pins (c : Chip) : Chip × List Bool :=
  let (c, v) := c.draw
  (c, bitList Config.chainLen v)

/-- One scan: an instruction is loaded, or bits pass through the register it selects; SAMPLE/PRELOAD and EXTEST leave what was
shifted in the chain's latches (R466). -/
def Chip.tapScan (c : Chip) : TapScan → Chip
  | .ir i => c.setTap { c.tap with ir := i }
  | .dr bits =>
    match c.tapActs with
    | .idcode => c.setTap { c.tap with tdo := (scanThrough (bitList 32 idcode.toNat) bits).2 }
    | .sample | .extest =>
      let (c, pins) := c.pins
      let (reg, out) := scanThrough pins bits
      c.setTap { c.tap with chain := reg, tdo := out }
    | .bypass | .clamp | .highz => c.setTap { c.tap with tdo := (scanThrough [false] bits).2 }

/-- The port takes a scan, or none: no row of the table carries one, so what a tester does is a constant without a body.
(DESIGN CHOICE, log entry 71) -/
def Chip.tester (c : Chip) : Chip :=
  let d := { c with free := c.free + 1 }
  match Config.testerScan c.free with
  | none => d
  | some x => d.tapScan x

end Sys2Proof.Machine
end

