-- ==== Sys2Proof/Machine/RowsPower.lean ====
section
/-! DEFINITION. What each command does: power, reset and start-up (R425 to R445, R457 to R462). -/

namespace Sys2Proof.Machine

/-- POR (R433). -/
def execPorReset (s : State) : Result :=
  s.does fun c => c.por

/-- WARM (R433). -/
def execWarmReset (s : State) : Result :=
  s.does fun c => c.warm

/-- CHIP_RESET (R436). -/
def execChipReset (q : Req) (s : State) : Result :=
  s.does fun c => c.chipReset q

/-- FIRMWARE_WATCHDOG_EXPIRY (R433). -/
def execFirmwareWatchdogExpiry (s : State) : Result :=
  s.does fun c => c.fwWatchdog

/-- TAP_RESET (R433). -/
def execTapReset (s : State) : Result :=
  s.does fun c => c.setTap {}

/-- CLOCK_FAULT (R427). -/
def execClockFault (clk : Fin 7) (s : State) : Result :=
  s.does fun c => c.clockFault clk.val

/-- SERDES_PLL_RELOCK (R427). -/
def execSerdesPllRelock (pair : Bool) (ok : Bool) (s : State) : Result :=
  s.does fun c => c.relock pair ok

/-- HOLDOVER_ENTRY (R429). -/
def execHoldoverEntry (s : State) : Result :=
  s.does fun c => c.holdEntry

/-- HOLDOVER_EXIT (R431). -/
def execHoldoverExit (s : State) : Result :=
  s.does fun c => c.holdExit

/-- POWER_GOOD_FALL (R461). -/
def execPowerGoodFall (k : Fin 3) (s : State) : Result :=
  s.does fun c => c.powerGoodFall k.val

/-- BACKUP_RAIL_LOSS (R462). -/
def execBackupRailLoss (resets : Bool) (s : State) : Result :=
  s.does fun c => c.railLoss resets

/-- SAFE_RETRY (R428). -/
def execSafeRetry (s : State) : Result :=
  s.does fun c => c.safeRetry

/-- ROM (R440). -/
def execStepRom (ok : Bool) (f : Fuses) (s : State) : Result :=
  s.does fun c => c.stepRom ok f

/-- FLASH (R440). -/
def execStepFlash (d : FlashRead) (s : State) : Result :=
  s.does fun c => c.stepFlash d

/-- FIRMWARE (R440). -/
def execStepFirmware (a : List Word) (b : List Word) (s : State) : Result :=
  s.does fun c => c.stepFirmware a b

/-- CREDENTIALS (R440). -/
def execStepCredentials (b : BootCreds) (s : State) : Result :=
  s.does fun c => c.stepCredentials b

/-- CLOCKS (R440). -/
def execStepClocks (ok : BitVec 6) (s : State) : Result :=
  s.does fun c => c.stepClocks ok

/-- QDR (R440). -/
def execStepQdr (ok : BitVec 4) (s : State) : Result :=
  s.does fun c => c.stepQdr ok

/-- LPDDR (R440). -/
def execStepLpddr (ok : BitVec 2) (s : State) : Result :=
  s.does fun c => c.stepLpddr ok

/-- WORLDS (R440). -/
def execStepWorlds (web : List Word) (deckle : List Word) (s : State) : Result :=
  s.does fun c => c.stepWorlds web deckle

/-- FIELD (R440). -/
def execStepField (tab : PortTab) (s : State) : Result :=
  s.does fun c => c.stepField tab

/-- PLANT (R440). -/
def execStepPlant (tb : Quad) (s : State) : Result :=
  s.does fun c => c.stepPlant tb

/-- ADMIT (R443). -/
def execStepAdmit (image : List Word) (s : State) : Result :=
  s.does fun c => c.stepAdmit image

/-- PAIR (R444). -/
def execStepPair (s : State) : Result :=
  s.does fun c => c.stepPair

/-- RELEASE (R440). -/
def execStepRelease (s : State) : Result :=
  s.does fun c => c.stepRelease

end Sys2Proof.Machine
end

