-- ==== Sys2Proof/Machine/RowsRegs.lean ====
section
/-! DEFINITION. What each command does: accesses of register space with no row of their own (R4 to R6, R447 to R456). -/

namespace Sys2Proof.Machine

/-- COMMIT_GO (R451). -/
def execCommitGo (unit : Fin 67) (page : Fin 512) (s : State) : Result :=
  s.does fun c => c.writeBy unit.val page.val 0x00C 1

/-- SAFE_POINT_LOAD (R452). -/
def execSafePointLoad (page : Fin 512) (sp : SafePt) (s : State) : Result :=
  s.does fun c => c.loadPoint page.val sp

/-- ERRINJ_ARM (R360). -/
def execErrinjArm (unit : Fin 67) (page : Fin 512) (kind : Fin 4) (s : State) : Result :=
  s.does fun c => c.writeBy unit.val page.val 0x012 (1 + 2 * kind.val)

/-- RC_READ (R4). -/
def execRcRead (unit : Fin 67) (page : Fin 512) (off : Fin 2048) (s : State) : Result :=
  s.does fun c => c.readBy unit.val page.val off.val

/-- REGISTER_WRITE (R454). -/
def execRegisterWrite (unit : Fin 67) (page : Fin 512) (off : Fin 2048) (x : Pair) (s : State) : Result :=
  s.does fun c => c.writeBy unit.val page.val off.val x.toNat

end Sys2Proof.Machine
end

