-- ==== Sys2Proof/Machine/RowsRings.lean ====
section
/-! DEFINITION. What each command does: the rings and the lane engine (R288 to R318). -/

namespace Sys2Proof.Machine

/-- The network of the request a waiter sent, from which its response comes (R291): the launch controller's traffic is
management. -/
def Waiter.vn : Waiter → Nat
  | .other (.unit u) => if u.val = 64 then 3 else 0
  | _ => 0

/-- The far operation of a core that waits for a QDR channel gets an error: its bundle takes FAROP (R322, R447). (DESIGN
CHOICE, log entry 97) -/
def Chip.farLost (c : Chip) (core ch : Nat) : Chip :=
  match c.env? core with
  | none => c
  | some e =>
    let mine (f : FarOp) : Bool := f.qaddr / 2 ^ 25 == ch
    match e.p.far.find? mine with
    | none => c
    | some f => (c.setPipe e.pi { e.p with far := dropFirst mine e.p.far }).farFail core f

/-- The access of a waiter to a stop ends as a bus error (R303): of a core that does not stall, a far operation. -/
def Chip.endWait (c : Chip) (dst : Nat) : Waiter → Chip
  | .core a n => c.onCore a.val (fun a c =>
      if (c.pipe ((c.pipeOf a).getD 0)).stall.isSome then c.busError a n.toNat else c.farLost a (dst - 8))
  | .lane l => c.laneBus l.val
  | .other _ => c

/-- RESPONSE_TIMEOUT: the key is logged, the access ends as a bus error at the requester, and a response that comes later is
discarded (R303). -/
def Chip.responseTimeout (c : Chip) (o : TimeoutArg) : Chip :=
  let c := c.ringLog o.ring.val o.who.stop o.dst.val o.who.vn o.party.val false true
  let c := { c with rings := { c.rings with late := c.rings.late ++ [(o.who.stop, o.dst.val, o.tag.toNat)] } }
  c.endWait o.dst.val o.who

/-- The consumer of a poisoned response meets the error (R290): a core that waits for it, or the step of a lane, whose status
is ECC. (DESIGN CHOICE, log entry 90) -/
def Chip.poisoned (c : Chip) (src : Nat) : Waiter → Chip
  | .core a n => c.onCore a.val (fun a c =>
      if (c.pipe ((c.pipeOf a).getD 0)).stall.isSome then c.poisonFill a n.toNat else c.farLost a (src - 8))
  | .lane l => c.laneEnd l.val 3 true
  | .other _ => c

/-- A poisoned write reaches memory: the quads of its oct read as uncorrectable (R290). (DESIGN CHOICE, log entry 90) -/
def Chip.poisonStore (c : Chip) (a : Nat) : Chip :=
  let o := a / 8 * 8
  match tightOf o with
  | some (core, off) =>
    { c with tmBad := (List.range 8).foldl (fun t i => tset false t (c.tmAddr core off + i) true) c.tmBad }
  | none => if c.inQdr o || c.inLpd o then (c.poisonQuad (o / 4)).poisonQuad (o / 4 + 1) else c

/-- What the consumer of a poisoned flit does with it: of a response, who waits for it; of a write, the memory; of a sample
handed to the lane engine, the lane's step (R290, R291). (DESIGN CHOICE, log entry 90) -/
def Chip.consumePoison (c : Chip) (f : Flit) (who : Waiter) (store : Option (BitVec 36)) : Chip :=
  if f.vn == 1 then (if f.dst == who.stop then c.poisoned f.src who else c)
  else if f.vn == 0 then (store.map (fun a => c.poisonStore a.toNat)).getD c
  else match who with
    | .lane l => if f.vn == 2 && f.dst == laneStop then c.dropStep l.val else c
    | _ => c

/-- FLIT_ARRIVAL (R290, R301). -/
def execFlitArrival (ring : Fin 4) (src : Fin 21) (t : Quad) (err : FlitErr) (s : State) : Result :=
  s.does fun c =>
    let d := c.flitArrival ring.val src.val t.toNat err
    match err, c.flightOf ring.val src.val t.toNat with
    | .data who store, some f =>
      let kept := (d.flightOf ring.val src.val t.toNat).any (fun g => g.taken == some true)
      if f.taken.isNone && kept then d.consumePoison f.flit who store else d
    | _, _ => d

/-- FLIT_PLACEMENT (R300). -/
def execFlitPlacement (ring : Fin 4) (dt : BitVec 32) (f : Placing) (s : State) : Result :=
  s.does fun c => c.placeFlit ring.val f.stop.val dt.toNat f.flit

/-- ACCEPTANCE_MARK (R301). -/
def execAcceptanceMark (ring : Fin 4) (src : Fin 21) (t : Quad) (s : State) : Result :=
  s.does fun c => c.flitMark ring.val src.val t.toNat

/-- RESPONSE_TIMEOUT (R303). -/
def execResponseTimeout (o : TimeoutArg) (s : State) : Result :=
  s.does fun c => c.responseTimeout o

/-- LSTAT_WRITE (R305). -/
def execLstatWrite (unit : Fin 67) (lane : Fin 8192) (x : Pair) (s : State) : Result :=
  s.does fun c => c.writeBy unit.val (0x100 + lane.val / 256) (lane.val % 256 * 8 + 6) x.toNat

/-- DOORBELL (R306). -/
def execDoorbell (unit : Fin 67) (lane : Fin 8192) (x : Pair) (s : State) : Result :=
  s.does fun c => c.writeBy unit.val (0x100 + lane.val / 256) (lane.val % 256 * 8 + 4) x.toNat

/-- MESSAGE_COPY (R308). -/
def execMessageCopy (lane : Fin 8192) (s : State) : Result :=
  s.does fun c => c.laneStep lane.val

/-- LNRD (R312). -/
def execLnrd (unit : Fin 67) (s : State) : Result :=
  s.does fun c => c.readBy unit.val 0x090 0x182

/-- PINNED_INBOUND_STEP (R310). -/
def execPinnedInboundStep (lane : Fin 8192) (s : State) : Result :=
  s.does fun c => c.inboundStep lane.val

/-- PINNED_OUTBOUND_STEP (R310). -/
def execPinnedOutboundStep (lane : Fin 8192) (s : State) : Result :=
  s.does fun c => c.outboundStep lane.val

/-- COMMAND_SUBMISSION (R315). -/
def execCommandSubmission (lane : Fin 8192) (s : State) : Result :=
  s.does fun c => c.submit lane.val

/-- COMPLETION_RECORD (R317). -/
def execCompletionRecord (lane : Fin 8192) (s : State) : Result :=
  s.does fun c => c.writeRecord lane.val

end Sys2Proof.Machine
end

