-- ==== Sys2Proof/Machine/RowsWorlds.lean ====
section
/-! DEFINITION. What each command does: worlds, parties and roles (R342 to R367). -/

namespace Sys2Proof.Machine

/-- HAND_OVER_CLAIM (R344). -/
def execHandOverClaim (kind : Fin 6) (first : Fin 0x1000000) (ok : Bool) (s : State) : Result :=
  s.does fun c => c.claim kind.val first.val ok

/-- RESTART_WORK_COMPLETE (R350). -/
def execRestartWorkComplete (k : Fin 256) (s : State) : Result :=
  s.does fun c => c.restartWork k.val

/-- PART_START (R348). -/
def execPartStart (q : Req) (k : Word) (s : State) : Result :=
  s.does fun c => c.partCmd q 0x50 k.toNat

/-- PART_STOP (R348). -/
def execPartStop (q : Req) (k : Word) (s : State) : Result :=
  s.does fun c => c.partCmd q 0x51 k.toNat

/-- PART_RESTART (R350). -/
def execPartRestart (q : Req) (k : Word) (s : State) : Result :=
  s.does fun c => c.partCmd q 0x52 k.toNat

/-- WORLD_RESTART (R355). -/
def execWorldRestart (q : Req) (deckle : Bool) (s : State) : Result :=
  s.does fun c => c.worldRestart q deckle

/-- DWKICK (R354). -/
def execDwkick (unit : Fin 67) (s : State) : Result :=
  s.does fun c => c.writeBy unit.val 0x006 0x102 1

/-- DECKLE_WATCHDOG_EXPIRY (R354). -/
def execDeckleWatchdogExpiry (s : State) : Result :=
  s.does fun c => c.wdExpire

/-- DECKLE_WORLD_RESTART (R355). -/
def execDeckleWorldRestart (deckle : Bool) (image : List Word) (s : State) : Result :=
  s.does fun c => c.worldReload deckle image

/-- GATEREQ (R357). -/
def execGatereq (unit : Fin 67) (x : Pair) (s : State) : Result :=
  s.does fun c => c.writeBy unit.val 0x006 0x180 x.toNat

/-- ATTEST (R353). -/
def execAttest (q : Req) (nonce : Quad) (addr : Quad) (s : State) : Result :=
  s.does fun c => c.attest q nonce.toNat addr.toNat

/-- EVENT_ACK (R365). -/
def execEventAck (q : Req) (seq : Quad) (s : State) : Result :=
  s.does fun c => c.eventAck q seq.toNat

/-- JOURNAL_READ (R367). -/
def execJournalRead (q : Req) (first : Quad) (count : Pair) (addr : Quad) (s : State) : Result :=
  s.does fun c => c.journalRead q first.toNat count.toNat addr.toNat

/-- CRED_ENROL (R359). -/
def execCredEnrol (q : Req) (slot : Word) (role : Word) (x : BitVec 384) (y : BitVec 384) (keyId : Pair) (s : State) : Result :=
  s.does fun c => c.credEnrol q slot.toNat role.toNat x.toNat y.toNat keyId.toNat

/-- CRED_REVOKE (R359). -/
def execCredRevoke (q : Req) (slot : Word) (s : State) : Result :=
  s.does fun c => c.credRevoke q slot.toNat

/-- POLICY_SET (R367). -/
def execPolicySet (q : Req) (oppol : Quad) (cfg : Pair) (s : State) : Result :=
  s.does fun c => c.policySet q oppol.toNat cfg.toNat

/-- FW_UPDATE (R439). -/
def execFwUpdate (q : Req) (addr : Quad) (len : Pair) (s : State) : Result :=
  s.does fun c => c.fwUpdate q addr.toNat len.toNat

/-- LIFECYCLE (R360). -/
def execLifecycle (q : Req) (target : Word) (s : State) : Result :=
  s.does fun c => c.lifecycleCmd q target.toNat

/-- ANCHOR_RENEW (R364). -/
def execAnchorRenew (q : Req) (s : State) : Result :=
  s.does fun c => c.anchorRenew q

end Sys2Proof.Machine
end

