-- ==== Sys2Proof/Machine/Dispatch.lean ====
section
/-! DEFINITION. Which meaning each command has. -/

namespace Sys2Proof.Machine

/-- The effect of a command on everything but the queue. -/
def exec (i : Instr) (s : State) : Host.Outcome State Fault Refusal :=
  match i with
  | .bundleIssue core => Sys2Proof.Machine.execBundleIssue core s
  | .resultLanding core => Sys2Proof.Machine.execResultLanding core s
  | .aluOperation core onB o => Sys2Proof.Machine.execAluOperation core onB o s
  | .immediateOperation core onB o => Sys2Proof.Machine.execImmediateOperation core onB o s
  | .movi core onB o => Sys2Proof.Machine.execMovi core onB o s
  | .br core disp => Sys2Proof.Machine.execBr core disp s
  | .bc core cond disp => Sys2Proof.Machine.execBc core cond disp s
  | .bz core wt disp => Sys2Proof.Machine.execBz core wt disp s
  | .bnz core wt disp => Sys2Proof.Machine.execBnz core wt disp s
  | .call core disp => Sys2Proof.Machine.execCall core disp s
  | .bri core xt => Sys2Proof.Machine.execBri core xt s
  | .calli core xt => Sys2Proof.Machine.execCalli core xt s
  | .ret core => Sys2Proof.Machine.execRet core s
  | .load core o => Sys2Proof.Machine.execLoad core o s
  | .store core o => Sys2Proof.Machine.execStore core o s
  | .movo core o => Sys2Proof.Machine.execMovo core o s
  | .fld core o => Sys2Proof.Machine.execFld core o s
  | .fst core o => Sys2Proof.Machine.execFst core o s
  | .farOperationComplete core => Sys2Proof.Machine.execFarOperationComplete core s
  | .lseg core sg ws => Sys2Proof.Machine.execLseg core sg ws s
  | .mfs core sg ws => Sys2Proof.Machine.execMfs core sg ws s
  | .casp core o => Sys2Proof.Machine.execCasp core o s
  | .mul core o => Sys2Proof.Machine.execMul core o s
  | .div core o => Sys2Proof.Machine.execDiv core o s
  | .mulq15 core o => Sys2Proof.Machine.execMulq15 core o s
  | .fadd core o => Sys2Proof.Machine.execFadd core o s
  | .fsub core o => Sys2Proof.Machine.execFsub core o s
  | .fmul core o => Sys2Proof.Machine.execFmul core o s
  | .fma core o => Sys2Proof.Machine.execFma core o s
  | .fmsb core o => Sys2Proof.Machine.execFmsb core o s
  | .fmin core o => Sys2Proof.Machine.execFmin core o s
  | .fmax core o => Sys2Proof.Machine.execFmax core o s
  | .fneg core o => Sys2Proof.Machine.execFneg core o s
  | .fabs core o => Sys2Proof.Machine.execFabs core o s
  | .fcmp core o => Sys2Proof.Machine.execFcmp core o s
  | .fcmps core o => Sys2Proof.Machine.execFcmps core o s
  | .fclass core o => Sys2Proof.Machine.execFclass core o s
  | .frec core o => Sys2Proof.Machine.execFrec core o s
  | .frsq core o => Sys2Proof.Machine.execFrsq core o s
  | .fcvt core o => Sys2Proof.Machine.execFcvt core o s
  | .vmac core o => Sys2Proof.Machine.execVmac core o s
  | .vfma core o => Sys2Proof.Machine.execVfma core o s
  | .sweepLaneOperation core o => Sys2Proof.Machine.execSweepLaneOperation core o s
  | .vext core o => Sys2Proof.Machine.execVext core o s
  | .vaput core o => Sys2Proof.Machine.execVaput core o s
  | .mfc core creg xr => Sys2Proof.Machine.execMfc core creg xr s
  | .mtc core creg xr => Sys2Proof.Machine.execMtc core creg xr s
  | .mtcSelector core which xr => Sys2Proof.Machine.execMtcSelector core which xr s
  | .pkeyhWrite core xr => Sys2Proof.Machine.execPkeyhWrite core xr s
  | .tlbrdWrite core xr => Sys2Proof.Machine.execTlbrdWrite core xr s
  | .wcctlInv core xr => Sys2Proof.Machine.execWcctlInv core xr s
  | .rep core k => Sys2Proof.Machine.execRep core k s
  | .repi core => Sys2Proof.Machine.execRepi core s
  | .syse core lv code => Sys2Proof.Machine.execSyse core lv code s
  | .sysr core => Sys2Proof.Machine.execSysr core s
  | .eret core => Sys2Proof.Machine.execEret core s
  | .wend core => Sys2Proof.Machine.execWend core s
  | .tlbw core wr => Sys2Proof.Machine.execTlbw core wr s
  | .tlbi core o => Sys2Proof.Machine.execTlbi core o s
  | .twalk core o => Sys2Proof.Machine.execTwalk core o s
  | .prefd core o => Sys2Proof.Machine.execPrefd core o s
  | .prefi core o => Sys2Proof.Machine.execPrefi core o s
  | .pref2 core o => Sys2Proof.Machine.execPref2 core o s
  | .dcwb core o => Sys2Proof.Machine.execDcwb core o s
  | .dcinv core o => Sys2Proof.Machine.execDcinv core o s
  | .dcwbi core o => Sys2Proof.Machine.execDcwbi core o s
  | .icinv core o => Sys2Proof.Machine.execIcinv core o s
  | .dlock core o => Sys2Proof.Machine.execDlock core o s
  | .dunlk core o => Sys2Proof.Machine.execDunlk core o s
  | .ilock core o => Sys2Proof.Machine.execIlock core o s
  | .iunlk core o => Sys2Proof.Machine.execIunlk core o s
  | .mbar core kind => Sys2Proof.Machine.execMbar core kind s
  | .pflush core scope => Sys2Proof.Machine.execPflush core scope s
  | .pbar core => Sys2Proof.Machine.execPbar core s
  | .predictorUpdate core => Sys2Proof.Machine.execPredictorUpdate core s
  | .fetchAhead core => Sys2Proof.Machine.execFetchAhead core s
  | .fillArrival core cycles => Sys2Proof.Machine.execFillArrival core cycles s
  | .uncachedReply core err cycles => Sys2Proof.Machine.execUncachedReply core err cycles s
  | .exceptionEntry core => Sys2Proof.Machine.execExceptionEntry core s
  | .coreWake core => Sys2Proof.Machine.execCoreWake core s
  | .catchInstant go => Sys2Proof.Machine.execCatchInstant go s
  | .windowStart core window => Sys2Proof.Machine.execWindowStart core window s
  | .closingInstant core => Sys2Proof.Machine.execClosingInstant core s
  | .nistall core => Sys2Proof.Machine.execNistall core s
  | .planLoad q addr len => Sys2Proof.Machine.execPlanLoad q addr len s
  | .planArm q t => Sys2Proof.Machine.execPlanArm q t s
  | .planDisarm q => Sys2Proof.Machine.execPlanDisarm q s
  | .planDiscard q => Sys2Proof.Machine.execPlanDiscard q s
  | .clearingComplete way => Sys2Proof.Machine.execClearingComplete way s
  | .eightPowerDown e => Sys2Proof.Machine.execEightPowerDown e s
  | .coreSelfTestComplete pi pass => Sys2Proof.Machine.execCoreSelfTestComplete pi pass s
  | .arrayMove q core => Sys2Proof.Machine.execArrayMove q core s
  | .arrayCopyComplete e => Sys2Proof.Machine.execArrayCopyComplete e s
  | .coreSubst q core => Sys2Proof.Machine.execCoreSubst q core s
  | .coreTest q pi => Sys2Proof.Machine.execCoreTest q pi s
  | .agingSample pi margin => Sys2Proof.Machine.execAgingSample pi margin s
  | .lockstepMismatch core kind item => Sys2Proof.Machine.execLockstepMismatch core kind item s
  | .eventOccurrence source => Sys2Proof.Machine.execEventOccurrence source s
  | .hubEvaluation => Sys2Proof.Machine.execHubEvaluation s
  | .moderationTimerExpiry target => Sys2Proof.Machine.execModerationTimerExpiry target s
  | .iack unit => Sys2Proof.Machine.execIack unit s
  | .ieoi unit x => Sys2Proof.Machine.execIeoi unit x s
  | .cfgw unit x => Sys2Proof.Machine.execCfgw unit x s
  | .swset unit x => Sys2Proof.Machine.execSwset unit x s
  | .groupWrite unit group x => Sys2Proof.Machine.execGroupWrite unit group x s
  | .flitArrival ring src t err => Sys2Proof.Machine.execFlitArrival ring src t err s
  | .flitPlacement ring dt f => Sys2Proof.Machine.execFlitPlacement ring dt f s
  | .acceptanceMark ring src t => Sys2Proof.Machine.execAcceptanceMark ring src t s
  | .responseTimeout o => Sys2Proof.Machine.execResponseTimeout o s
  | .lstatWrite unit lane x => Sys2Proof.Machine.execLstatWrite unit lane x s
  | .doorbell unit lane x => Sys2Proof.Machine.execDoorbell unit lane x s
  | .messageCopy lane => Sys2Proof.Machine.execMessageCopy lane s
  | .lnrd unit => Sys2Proof.Machine.execLnrd unit s
  | .pinnedInboundStep lane => Sys2Proof.Machine.execPinnedInboundStep lane s
  | .pinnedOutboundStep lane => Sys2Proof.Machine.execPinnedOutboundStep lane s
  | .commandSubmission lane => Sys2Proof.Machine.execCommandSubmission lane s
  | .completionRecord lane => Sys2Proof.Machine.execCompletionRecord lane s
  | .qdrAccess r => Sys2Proof.Machine.execQdrAccess r s
  | .qdrWindowStart ch window => Sys2Proof.Machine.execQdrWindowStart ch window s
  | .qdrRecalibration ch => Sys2Proof.Machine.execQdrRecalibration ch s
  | .qdrPatrolScrub ch find => Sys2Proof.Machine.execQdrPatrolScrub ch find s
  | .lpddrRead r => Sys2Proof.Machine.execLpddrRead r s
  | .lpddrWrite r => Sys2Proof.Machine.execLpddrWrite r s
  | .mr4Reading k code => Sys2Proof.Machine.execMr4Reading k code s
  | .lpddrRefresh k chan rank bank => Sys2Proof.Machine.execLpddrRefresh k chan rank bank s
  | .memDiag q k result count => Sys2Proof.Machine.execMemDiag q k result count s
  | .memRemirror q k => Sys2Proof.Machine.execMemRemirror q k s
  | .remirrorComplete k => Sys2Proof.Machine.execRemirrorComplete k s
  | .arrayScrub place find => Sys2Proof.Machine.execArrayScrub place find s
  | .handOverClaim kind first ok => Sys2Proof.Machine.execHandOverClaim kind first ok s
  | .restartWorkComplete k => Sys2Proof.Machine.execRestartWorkComplete k s
  | .partStart q k => Sys2Proof.Machine.execPartStart q k s
  | .partStop q k => Sys2Proof.Machine.execPartStop q k s
  | .partRestart q k => Sys2Proof.Machine.execPartRestart q k s
  | .worldRestart q deckle => Sys2Proof.Machine.execWorldRestart q deckle s
  | .dwkick unit => Sys2Proof.Machine.execDwkick unit s
  | .deckleWatchdogExpiry => Sys2Proof.Machine.execDeckleWatchdogExpiry s
  | .deckleWorldRestart deckle image => Sys2Proof.Machine.execDeckleWorldRestart deckle image s
  | .gatereq unit x => Sys2Proof.Machine.execGatereq unit x s
  | .attest q nonce addr => Sys2Proof.Machine.execAttest q nonce addr s
  | .eventAck q seq => Sys2Proof.Machine.execEventAck q seq s
  | .journalRead q first count addr => Sys2Proof.Machine.execJournalRead q first count addr s
  | .credEnrol q slot role x y keyId => Sys2Proof.Machine.execCredEnrol q slot role x y keyId s
  | .credRevoke q slot => Sys2Proof.Machine.execCredRevoke q slot s
  | .policySet q oppol cfg => Sys2Proof.Machine.execPolicySet q oppol cfg s
  | .fwUpdate q addr len => Sys2Proof.Machine.execFwUpdate q addr len s
  | .lifecycle q target => Sys2Proof.Machine.execLifecycle q target s
  | .anchorRenew q => Sys2Proof.Machine.execAnchorRenew q s
  | .sampleInstant n entry => Sys2Proof.Machine.execSampleInstant n entry s
  | .transmitInstant n entry => Sys2Proof.Machine.execTransmitInstant n entry s
  | .fieldFrameReceived n bytes fcsOk stamp => Sys2Proof.Machine.execFieldFrameReceived n bytes fcsOk stamp s
  | .supervisorConversion n vs is fast checkOk => Sys2Proof.Machine.execSupervisorConversion n vs is fast checkOk s
  | .rearm unit n => Sys2Proof.Machine.execRearm unit n s
  | .softStartEnd n => Sys2Proof.Machine.execSoftStartEnd n s
  | .fieldLinkChange n up p24 req24 insist leader => Sys2Proof.Machine.execFieldLinkChange n up p24 req24 insist leader s
  | .portProfile q n p0 p1 p2 => Sys2Proof.Machine.execPortProfile q n p0 p1 p2 s
  | .pairBind q uid => Sys2Proof.Machine.execPairBind q uid s
  | .pairMirror q t cfg mstart apply mirs => Sys2Proof.Machine.execPairMirror q t cfg mstart apply mirs s
  | .gateControlEntry k entry => Sys2Proof.Machine.execGateControlEntry k entry s
  | .plantFrameReceived k bytes fcsOk stamp => Sys2Proof.Machine.execPlantFrameReceived k bytes fcsOk stamp s
  | .trainingTimeout k => Sys2Proof.Machine.execTrainingTimeout k s
  | .streamRecoveryReset k entry => Sys2Proof.Machine.execStreamRecoveryReset k entry s
  | .gptpMessage m => Sys2Proof.Machine.execGptpMessage m s
  | .tbAlarm k => Sys2Proof.Machine.execTbAlarm k s
  | .tbStep t => Sys2Proof.Machine.execTbStep t s
  | .tbnowlRead unit => Sys2Proof.Machine.execTbnowlRead unit s
  | .align e => Sys2Proof.Machine.execAlign e s
  | .attention x => Sys2Proof.Machine.execAttention x s
  | .pairFlit f => Sys2Proof.Machine.execPairFlit f s
  | .linkLoss => Sys2Proof.Machine.execLinkLoss s
  | .laneFailure x => Sys2Proof.Machine.execLaneFailure x s
  | .yieldMessage => Sys2Proof.Machine.execYieldMessage s
  | .mirrorStart => Sys2Proof.Machine.execMirrorStart s
  | .trigger src => Sys2Proof.Machine.execTrigger src s
  | .wakeEnd => Sys2Proof.Machine.execWakeEnd s
  | .traceFire unit x => Sys2Proof.Machine.execTraceFire unit x s
  | .traceOverflow core => Sys2Proof.Machine.execTraceOverflow core s
  | .frameSend core => Sys2Proof.Machine.execFrameSend core s
  | .diagWrite q page off x => Sys2Proof.Machine.execDiagWrite q page off x s
  | .diagRead q src first count addr => Sys2Proof.Machine.execDiagRead q src first count addr s
  | .counterOverflow pi k => Sys2Proof.Machine.execCounterOverflow pi k s
  | .pmcntRead unit pi k => Sys2Proof.Machine.execPmcntRead unit pi k s
  | .pmcntWrite unit pi k lo hi => Sys2Proof.Machine.execPmcntWrite unit pi k lo hi s
  | .blockCounterWindowEnd => Sys2Proof.Machine.execBlockCounterWindowEnd s
  | .snapshotArm unit freeze => Sys2Proof.Machine.execSnapshotArm unit freeze s
  | .finishSnapshot => Sys2Proof.Machine.execFinishSnapshot s
  | .thaw unit => Sys2Proof.Machine.execThaw unit s
  | .porReset => Sys2Proof.Machine.execPorReset s
  | .warmReset => Sys2Proof.Machine.execWarmReset s
  | .chipReset q => Sys2Proof.Machine.execChipReset q s
  | .firmwareWatchdogExpiry => Sys2Proof.Machine.execFirmwareWatchdogExpiry s
  | .tapReset => Sys2Proof.Machine.execTapReset s
  | .clockFault clk => Sys2Proof.Machine.execClockFault clk s
  | .holdoverEntry => Sys2Proof.Machine.execHoldoverEntry s
  | .holdoverExit => Sys2Proof.Machine.execHoldoverExit s
  | .powerGoodFall k => Sys2Proof.Machine.execPowerGoodFall k s
  | .safeRetry => Sys2Proof.Machine.execSafeRetry s
  | .stepRom ok f => Sys2Proof.Machine.execStepRom ok f s
  | .stepFlash d => Sys2Proof.Machine.execStepFlash d s
  | .stepFirmware a b => Sys2Proof.Machine.execStepFirmware a b s
  | .stepCredentials b => Sys2Proof.Machine.execStepCredentials b s
  | .stepClocks ok => Sys2Proof.Machine.execStepClocks ok s
  | .stepQdr ok => Sys2Proof.Machine.execStepQdr ok s
  | .stepLpddr ok => Sys2Proof.Machine.execStepLpddr ok s
  | .stepWorlds web deckle => Sys2Proof.Machine.execStepWorlds web deckle s
  | .stepField tab => Sys2Proof.Machine.execStepField tab s
  | .stepPlant tb => Sys2Proof.Machine.execStepPlant tb s
  | .stepAdmit image => Sys2Proof.Machine.execStepAdmit image s
  | .stepPair => Sys2Proof.Machine.execStepPair s
  | .stepRelease => Sys2Proof.Machine.execStepRelease s
  | .commitGo unit page => Sys2Proof.Machine.execCommitGo unit page s
  | .safePointLoad page sp => Sys2Proof.Machine.execSafePointLoad page sp s
  | .errinjArm unit page kind => Sys2Proof.Machine.execErrinjArm unit page kind s
  | .rcRead unit page off => Sys2Proof.Machine.execRcRead unit page off s
  | .registerWrite unit page off x => Sys2Proof.Machine.execRegisterWrite unit page off x s
  | .lpddrPatrolScrub k find => Sys2Proof.Machine.execLpddrPatrolScrub k find s
  | .qdrWindowEnd ch => Sys2Proof.Machine.execQdrWindowEnd ch s
  | .plantLinkChange k up => Sys2Proof.Machine.execPlantLinkChange k up s
  | .serdesPllRelock pair ok => Sys2Proof.Machine.execSerdesPllRelock pair ok s
  | .pairLaneRetrained k => Sys2Proof.Machine.execPairLaneRetrained k s
  | .eightPowerUpComplete e => Sys2Proof.Machine.execEightPowerUpComplete e s
  | .timeSourceLost => Sys2Proof.Machine.execTimeSourceLost s
  | .backupRailLoss resets => Sys2Proof.Machine.execBackupRailLoss resets s

end Sys2Proof.Machine
end

