-- ==== Sys2Proof/Machine/Step.lean ====
section
/-! DEFINITION. One step of the block: the command at the front of the queue runs. -/

namespace Sys2Proof.Machine

/-- The command at the front of the queue runs on the state with the queue's rest. On an empty queue one edge of ACLK passes
(R368), an idle flit goes to the partner when one is due (R397), and a tester may make a scan (R466). (DESIGN CHOICE, log
entries 1, 2 and 71) -/
def step (s : State) : Host.Outcome State Fault Refusal :=
  match s.pending with
  | [] => s.does fun c => c.tick.keepAlive.tester
  | i :: rest => exec i { s with pending := rest }

/-- A state with the command a word spells at the front of its queue; the table gives no row bits, so no word spells one. -/
def State.withFetchWord (s : State) (nbits w : Nat) : State :=
  match decodeTableWord nbits w with
  | some i => { s with pending := i :: s.pending }
  | none => s

end Sys2Proof.Machine
end

