-- ==== Sys2Proof/Safety.lean ====
section
/-! DEFINITION. The terms in which claims about the chip are stated: what a command completes with, what it leaves as it was,
and when an operation of a core issues. -/

namespace Sys2Proof.Machine

/-! ### Completion -/

/-- A command completes: it answers a next state with the queue as it stood and a chip of which `P` holds. -/
def Completes (i : Instr) (s : State) (P : Chip → Prop) : Prop :=
  ∃ t, exec i s = .next t ∧ t.pending = s.pending ∧ P t.chip

/-! ### What stays as it was -/

/-- Beside one pipeline, only what observes it may differ: TB at the instant its code begins, the status registers of trace and
the page of the pipeline's counters, the pending bits of events, and the trace stream; other pipelines stay. While trace is in
STREAM mode a frame may also be drained to its sink in LPDDR (R412). -/
def Chip.Frame (c d : Chip) (pi : Nat) : Prop :=
  (c.trStream = false →
    d = { c with pipes := d.pipes, regs := d.regs, hub := { c.hub with pend := d.hub.pend }, trace := d.trace
                 now := d.now, nowFrac := d.nowFrac })
  ∧ (∀ k, k ≠ pi → d.pipe k = c.pipe k)
  ∧ (∀ pg off, off < 0x800 → (off < 0x100 ∨ pg ≠ 0x020 + pi ∧ pg ≠ 0x0F4) → d.live pg off = c.live pg off)

/-- The same, but the arrays of L1 and L2 may also differ in the order of use of their lines. -/
def Chip.FrameUse (c d : Chip) (pi : Nat) : Prop :=
  (c.trStream = false →
    d = { c with pipes := d.pipes, sets := d.sets, regs := d.regs, hub := { c.hub with pend := d.hub.pend }
                 trace := d.trace, now := d.now, nowFrac := d.nowFrac })
  ∧ (∀ k, k ≠ pi → d.pipe k = c.pipe k)

/-! ### Registers, events and completion records -/

/-- A requester reaches a register: it may make accesses now, passes the owner check, and the page answers (R209, R454). -/
abbrev Chip.Reaches (c : Chip) (unit page off : Nat) (r : Requester) : Prop :=
  c.requester unit = some r ∧ c.passes r page off = true ∧ c.pageUp page = true

/-- Between two chips a source has occurred: it is pending where it is enabled (R272). -/
abbrev Chip.Raises (c d : Chip) (src : Nat) : Prop := c.hub.ena.testBit src = true → d.hub.pend.testBit src = true

/-- The requester may also write: MLOCK of the page does not keep it out, and a party owns the page (R209, R449). -/
abbrev Chip.MayWrite (c : Chip) (unit page off : Nat) (r : Requester) : Prop :=
  c.Reaches unit page off r ∧ (c.fld page 0x006 8 8 = 0 ∨ r.party = none ∨ 2 ≤ r.level) ∧ c.windowOnly r page = false

/-- A step of start-up ends: with its STATUS and the place it names in its boot log entry (R440, R442). -/
abbrev Chip.StepEnded (c d : Chip) (k status detail : Nat) : Prop :=
  d.power.ended = k :: c.power.ended ∧ d.live 0x005 (0x144 + 8 * k) = status + detail % 2 ^ 16 * 2 ^ 16
  ∧ bits (d.live 0x005 (0x140 + 8 * k)) 31 16 = 0x00B0 + k

/-- Everything the chip holds of its cores, arrays, plan and rings is as after power-on (R433 to R435). -/
def Chip.Cleared (d : Chip) : Prop :=
  d.pipes = [] ∧ d.sets = [] ∧ d.eights = [] ∧ d.isLive = false ∧ d.bankA = {} ∧ d.bankB = {} ∧ d.rings = {} ∧ d.lane = {}
  ∧ d.hub = {} ∧ d.fp = [] ∧ d.plt = [] ∧ d.parts = [] ∧ d.hand = [] ∧ d.strokeOn = false ∧ d.trace = {}
  ∧ (∀ a, a < 2 * qdrEnd → readByte d.mem a = 0)

/-- Between two chips a record stands next in the overrun log of an eight, counted, and its event has occurred (R57). -/
def Chip.Overran (c d : Chip) (core : Nat) (x : RunCtx) (cause excode off at_ : Nat) : Prop :=
  let pg := 0x010 + core / 8
  let i := c.fld pg 0x106 3 0
  let b := 0x200 + 8 * i
  d.live pg b = core + x.win % 2 ^ 12 * 2 ^ 6 + x.ctx % 2 ^ 8 * 2 ^ 18 + cause * 2 ^ 26
  ∧ d.live pg (b + 2) = c.stroke % 2 ^ 16 + excode * 2 ^ 16 ∧ d.live pg (b + 4) = off
  ∧ d.live pg (b + 6) = (Nat.max c.now at_ - c.catchAt) / 20 % 2 ^ 26
  ∧ d.fld pg 0x106 3 0 = (i + 1) % 16 ∧ d.fld pg 0x106 31 16 = Nat.min 0xFFFF (c.fld pg 0x106 31 16 + 1)
  ∧ c.Raises d (eightSrc (core / 8) 0)

/-- A pipeline is feathered and its window over (R252). -/
abbrev Chip.Feathered (d : Chip) (pi : Nat) : Prop := (d.pipe pi).run = .feathered ∧ (d.pipe pi).ctx = none

/-- The set of sources a kind of group shows (R285). -/
def Hub.group (h : Hub) : GroupKind → Nat
  | .pend => h.pend
  | .ena => h.ena
  | .mask => h.mask

/-- A command posts its completion record, with STATUS and the rest, after those that wait (R317). A record whose lane was
taken from its party since the submission is dropped (R314). -/
abbrev Chip.Posts (c d : Chip) (q : Req) (code status : Nat) (rest : List Word) : Prop :=
  c.lane.lost.contains (q.party.val, q.lane.val, q.handle.toNat) = false →
    d.lane.recs = c.lane.recs
      ++ [⟨q.party.val, q.lane.val, q.handle.toNat, code, c.now % 2 ^ 32, BitVec.ofNat 16 status :: rest⟩]

/-- Memory outside `n` words from a word address reads as before. -/
def Chip.KeepsBut (c d : Chip) (a n : Nat) : Prop :=
  ∀ b, b < 2 * a ∨ 2 * (a + n) ≤ b → readByte d.mem b = readByte c.mem b

/-! ### Commands of the launch controller -/

/-- A command is next in the order of the mailboxes, is authorized by the credential of a slot, and can be journaled (R358,
R362, R437). -/
abbrev Chip.Authorized (c : Chip) (q : Req) (code : Nat) (ops : List Word) (right : Nat → Bool) (slot : Nat) : Prop :=
  c.takesUp q = true ∧ c.authorize q code ops right = some slot ∧ c.anchorOut = false ∧ q.flash = true

/-- The chip on which an authorized command acts: the credential's NONCE and the anchor are advanced and the command is
journaled (R359, R361, R362). -/
def Chip.accepted (c : Chip) (q : Req) (slot code : Nat) (ops : List Word) : Chip :=
  ((c.setCred slot { c.cred slot with nonce := q.nonce.toNat }).anchorStep).journalNew 0 (c.cred slot).role q.keyId.toNat
    code 0xFF (sha384 ops)

/-- The sequence number under which an authorized command is journaled (R361): an alarm of the anchor may come before it. -/
def Chip.acceptedSeq (c : Chip) (q : Req) (slot : Nat) : Nat :=
  ((c.setCred slot { c.cred slot with nonce := q.nonce.toNat }).anchorStep).roles.jseq

/-- A command that a role must authorize and that is journaled: who sends it, its code, the words its signature covers, and the
roles that may (R358, R359, R362). -/
def Instr.roleOf (c : Chip) : Instr → Option (Req × Nat × List Word × (Nat → Bool))
  | .planLoad q addr len => some (q, 0x10, toWords 4 addr.toNat ++ toWords 2 len.toNat, installer)
  | .planArm q t => some (q, 0x11, toWords 4 t.toNat, installer)
  | .planDisarm q => some (q, 0x12, [], installer)
  | .planDiscard q => some (q, 0x13, [], installer)
  | .coreSubst q core => some (q, 0x20, [BitVec.ofNat 16 core], installer)
  | .coreTest q pi => some (q, 0x21, [BitVec.ofNat 16 pi], installer)
  | .arrayMove q core => some (q, 0x22, [BitVec.ofNat 16 core], installer)
  | .memDiag q k _ _ => some (q, 0x30, [BitVec.ofNat 16 k], installer)
  | .memRemirror q k => some (q, 0x31, [BitVec.ofNat 16 k], installer)
  | .partStart q k => some (q, 0x50, [k], c.partRight k.toNat)
  | .partStop q k => some (q, 0x51, [k], c.partRight k.toNat)
  | .partRestart q k => some (q, 0x52, [k], c.partRight k.toNat)
  | .worldRestart q w => some (q, 0x53, [BitVec.ofNat 16 (b2n w)], installer)
  | .eventAck q seq =>
    some (q, 0x54, toWords 4 seq.toNat, fun r => r == 2 || r == 3 || (r == 1 && c.fld 0x007 0x106 0 0 == 1))
  | .credEnrol q slot role x y keyId =>
    some (q, 0x60, [slot, role] ++ toWords 24 x.toNat ++ toWords 24 y.toNat ++ toWords 2 keyId.toNat,
      fun r => (r == 2 && (role.toNat == 1 || role.toNat == 2)) || (r == 3 && role.toNat == 2))
  | .credRevoke q slot =>
    let target := (tget {} c.roles.creds slot.toNat).role
    some (q, 0x61, [slot], fun r => (r == 2 && (target == 1 || target == 2)) || (r == 3 && target == 2))
  | .policySet q oppol cfg => some (q, 0x62, toWords 4 oppol.toNat ++ toWords 2 cfg.toNat, installer)
  | .fwUpdate q addr len => some (q, 0x70, toWords 4 addr.toNat ++ toWords 2 len.toNat, makerOnly)
  | .lifecycle q target => some (q, 0x71, [target], makerOnly)
  | .portProfile q n p0 p1 p2 =>
    some (q, 0x80, BitVec.ofNat 16 n :: (toWords 2 p0.toNat ++ toWords 2 p1.toNat ++ toWords 2 p2.toNat), installer)
  | .pairBind q uid => some (q, 0x81, toWords 4 uid.toNat, installer)
  | .chipReset q => some (q, 0xA0, [0], installer)
  | _ => none

/-! ### An operation of a core issues -/

/-- A core that runs a context by itself: its eight is not one of a pair in swing, where two pipelines step together (R263). -/
abbrev Chip.Alone (c : Chip) (core : Nat) (e : Env) : Prop := c.env? core = some e ∧ c.inSwing (core / 8) = false

/-- The pipeline of an architectural core whose next bundle or operation can issue: it runs a context in a window, no exit work
is due, and it does not wait (R25, R56, R61, R80). With `adv` no bundle has issued in this cycle yet. -/
abbrev Chip.Ready (c : Chip) (core : Nat) (e : Env) (adv : Bool) : Prop :=
  c.Alone core e ∧ (e.p.closing && e.p.atBoundary) = false ∧ e.p.canIssue adv = true

/-- Between bundles: no delay slot, repetition or reissue is outstanding (R72, R81, R128). -/
abbrev Env.Straight (e : Env) : Prop := e.a.br = none ∧ e.a.rep = none ∧ e.a.reissue = none

/-- No injection armed on a core's page strikes an array that an operation reads (R360). -/
abbrev Chip.Unstruck (c : Chip) (e : Env) (o : CoreOp) : Prop :=
  c.armed (0x020 + e.pi) = none ∨ ((opWants e.a o).any fun q => q.rd && !q.line) = false

/-- An operation meets none of the causes of R179, its lines are in L1D, no reply is to be waited for (R80, R477), and no armed
injection strikes it. -/
abbrev Chip.Clear (c : Chip) (e : Env) (s : Slot) (o : CoreOp) : Prop :=
  c.opCauses e [(s, o)] s o = [] ∧ c.opLines e o = [] ∧ c.opUncached e o = false ∧ c.Unstruck e o

/-- Results in flight once the trace packets of loads that have landed are out (R406). -/
def Pipe.held (p : Pipe) : List Landing :=
  p.fly.filter (fun l => !(decide (l.at_ ≤ p.cycle) && (match l.wr with
    | .tdata _ _ _ _ _ => true
    | _ => false)))

/-- Results of latency `L` that an operation issued now in a slot puts in flight: they land at the end of cycle c + L - 1
(R64). -/
def Pipe.landings (p : Pipe) (s : Slot) (L : Nat) (ws : List LWrite) : List Landing :=
  ws.map (fun w => ⟨p.cycle + L - 1, p.cycle, s.pri, w⟩)

/-- A pipeline after one operation issued: its unit is occupied and its results are in flight (R64, R66). -/
def Pipe.afterOp (p : Pipe) (s : Slot) (o : CoreOp) (ls : List Landing) : Pipe :=
  { p.occupy s o with fly := p.held ++ ls }

/-- The same for results of several latencies. -/
def Pipe.landingsMany (p : Pipe) (s : Slot) (ws : List (Nat × List LWrite)) : List Landing :=
  ws.flatMap (fun w => p.landings s w.1 w.2)

/-- A cache line operation passes its checks and goes to a place (R234). -/
abbrev Chip.LineOp (c : Chip) (e : Env) (fn : CacheFn) (o : CacheArg) (t : Target) : Prop :=
  c.Clear e .b (.cache fn o) ∧ (c.emitLanded e).check e.core e.p e.x e.done (cacheWant e.a fn o) = .ok t

/-- An operation has left the chip as `r`, its unit occupied. -/
abbrev Chip.Leaves (r d : Chip) (e : Env) (o : CoreOp) : Prop := r.Frame d e.pi ∧ d.pipe e.pi = e.p.afterOp .b o []

/-- A command issues an operation that acts on its pipeline alone: legal in its slot, with its operands, in its window and at
its level, and with its unit free, it completes and leaves the pipeline as `p'`; nothing else of the chip changes. -/
def OpCompletes (s : State) (e : Env) (sl : Slot) (o : CoreOp) (p' : Pipe) (i : Instr) : Prop :=
  opLegal sl o = true → (!e.x.open_ && o.timedIllegal) = false → operandIllegal e o = false → opPriv e o = false →
    opConflict e sl o = false → Completes i s (fun d => s.chip.Frame d e.pi ∧ d.pipe e.pi = p')

/-- The same where the operation puts results `ws` of latency `L` in flight and does nothing else. -/
def RegisterOp (s : State) (e : Env) (sl : Slot) (o : CoreOp) (L : Nat) (ws : List LWrite) (i : Instr) : Prop :=
  OpCompletes s e sl o (e.p.afterOp sl o (e.p.landings sl L ws)) i

/-- The pipeline after a branch issued: it is pending with its two delay slots, and the link and the predictor's update are
under way (R72, R74, R167). -/
def Env.afterBranch (e : Env) (o : CoreOp) (r : Resolved) : Pipe :=
  { e.p.afterOp .b o (match r.lk with
      | some l => e.p.landings .b 1 [.lk l]
      | none => []) with
    arch := { e.a with pc := e.a.pc + 8, br := some ⟨r.next e.pc, 2, r.gap e⟩ }
    issued := true
    pred := if e.x.predOn then { e.p.pred with
      upd := e.p.pred.upd ++ [
        ⟨e.p.cycle + 3, e.p.tag e.x, BitVec.ofNat 32 e.pc, r.kind, r.taken, r.target, r.lk, r.ret⟩] } else e.p.pred }

/-- A branch completes: its pipeline is as `afterBranch` says but for what it leaves of fetch-ahead (R176). -/
def BranchCompletes (s : State) (e : Env) (o : CoreOp) (r : Resolved) (i : Instr) : Prop :=
  targetIllegal e o = false → opConflict e .b o = false → Completes i s (fun d => s.chip.Frame d e.pi
    ∧ { d.pipe e.pi with
          fab := e.p.fab, fapath := e.p.fapath, fapc := e.p.fapc, faBr := e.p.faBr, faStop := e.p.faStop, got := e.p.got }
      = e.afterBranch o r)

/-! ### Integer results by the tables of the spec -/

/-- A value does not fit in a signed width: the signed overflow of R131. -/
def overflows (w : Nat) (t : Int) : Bool := decide (t < -2 ^ (w - 1)) || decide (2 ^ (w - 1) ≤ t)

/-- The table of R132: what a shift of `x` by `n` returns, and C. -/
def shiftTable (fn : AluFn) (w : Nat) (x : BitVec w) (n : Nat) : BitVec w × Bool :=
  if n = 0 then (x, false)
  else match fn with
    | .shl => if n < w then (x <<< n, x.getLsbD (w - n)) else (0, decide (n = w) && x.getLsbD 0)
    | .shr => if n < w then (x >>> n, x.getLsbD (n - 1)) else (0, decide (n = w) && x.msb)
    | .sar => if n < w then (x.sshiftRight n, x.getLsbD (n - 1)) else (if x.msb then BitVec.allOnes w else 0, x.msb)
    | .rol => let r := x.rotateLeft (n % w); (r, decide (n % w ≠ 0) && r.getLsbD 0)
    | _ => (x, false)

/-- The flags C, V, N and Z of a result (R131): N is its top bit, and Z is 1 when it is 0. -/
def flagsOf {w : Nat} (c v : Bool) (r : BitVec w) : LWrite := .flags c v r.msb (decide (r = 0))

end Sys2Proof.Machine
end

