-- ==== Sys2Proof/Certificates/Slice0/Obligations.lean ====
section
/-! DEFINITION. The statements about the chip that are to be proved: the general ones, then command family by command family in
the table's order. -/

open Sys2Proof Sys2Proof.Machine

/-! ### The block -/

/-- A step runs the command at the front of the queue on the state with the queue's rest: the form this model gives the
commands the spec lets into the chip (log entry 1). -/
def Obligations.StepRunsTheFrontCommand : Prop :=
  ∀ (i : Instr) (rest : List Instr) (s : State),
    step { s with pending := i :: rest } = exec i { s with pending := rest }

/-- Every command completes in every state and leaves the queue; on an empty queue a step is one edge of ACLK, which carries TB
forward by TBRATE, and a scan of the test access port or none (the model's choice, log entries 2 and 71; the edge itself is
R368, the port R466). -/
def Obligations.EveryStepAnswers : Prop :=
  (∀ (i : Instr) (s : State), Completes i s (fun _ => True))
  ∧ (∀ s : State, s.pending = [] → ∃ t, step s = .next t ∧ t.pending = []
    ∧ t.chip.pipes = s.chip.pipes ∧ t.chip.mem = s.chip.mem
      ∧ t.chip.tap = (match Config.testerScan s.chip.free with
          | none => s.chip.tap
          | some x => ({ s.chip with free := s.chip.free + 1 }.tapScan x).tap)
      ∧ t.chip.nowFrac < 2 ^ 32 ∧ (t.chip.now * 2 ^ 32 + t.chip.nowFrac : Int)
          = s.chip.now * 2 ^ 32 + s.chip.nowFrac + 10 * (2 ^ 32 + s.chip.tbRate))

/-- Every step keeps memory in its one canonical form: addresses rise, and no byte listed equals what an unlisted one reads as.
The model's choices it rests on: log entry 4. -/
def Obligations.MemoryStaysCanonical : Prop :=
  ∀ s t : State, memWf s.chip.mem = true → step s = .next t → memWf t.chip.mem = true

/-- Memory has its canonical form at reset. The model's choices it rests on: log entry 4. -/
def Obligations.ResetMemoryIsCanonical : Prop := memWf State.reset.chip.mem = true

/-! ### Integer results (chapter "Integer, Fixed-Point and Floating Arithmetic") -/

/-- R131: the flags each operation that writes flags gives, by the rows of the table; CMPI's are those of SUB. -/
def Obligations.IntegerFlagsFollowTheTable : Prop :=
  (∀ (a : Arch) (o : AluOp), (o.sf = true ∨ o.fn = .cmp) →
    let w := o.sz.width
    let x := BitVec.ofNat w (a.rd o.sz o.s1)
    let y := BitVec.ofNat w (a.rd o.sz o.s2)
    let cin := b2n a.flC
    let has := fun f : LWrite => f ∈ aluWrites a o ∧ ∀ c v n z, .flags c v n z ∈ aluWrites a o → .flags c v n z = f
    let sat := fun (lo hi t : Int) => let r := max lo (min hi t)
      has (flagsOf false (decide (r ≠ t)) (BitVec.ofInt w r))
    (o.fn = .add → has (flagsOf (decide (2 ^ w ≤ x.toNat + y.toNat)) (overflows w (x.toInt + y.toInt)) (x + y)))
    ∧ (o.fn = .addc → let r := x + y + BitVec.ofNat w cin
        has (.flags (decide (2 ^ w ≤ x.toNat + y.toNat + cin)) (overflows w (x.toInt + y.toInt + cin)) r.msb
          (a.flZ && decide (r = 0))))
    ∧ ((o.fn = .sub ∨ o.fn = .cmp) → has (flagsOf (decide (x < y)) (overflows w (x.toInt - y.toInt)) (x - y)))
    ∧ (o.fn = .cmp → ∃ f, aluWrites a o = [f])
    ∧ (o.fn = .subb → let r := x - y - BitVec.ofNat w cin
        has (.flags (decide (x.toNat < y.toNat + cin)) (overflows w (x.toInt - y.toInt - cin)) r.msb
          (a.flZ && decide (r = 0))))
    ∧ (o.fn = .neg → has (flagsOf (decide (x ≠ 0)) (decide (x.toInt = -2 ^ (w - 1))) (-x)))
    ∧ (o.fn = .adds → sat (-2 ^ (w - 1)) (2 ^ (w - 1) - 1) (x.toInt + y.toInt))
    ∧ (o.fn = .subs → sat (-2 ^ (w - 1)) (2 ^ (w - 1) - 1) (x.toInt - y.toInt))
    ∧ (o.fn = .addus → sat 0 (2 ^ w - 1) ((x.toNat : Int) + y.toNat))
    ∧ (o.fn = .subus → sat 0 (2 ^ w - 1) ((x.toNat : Int) - y.toNat))
    ∧ (o.fn = .abs → sat (-2 ^ (w - 1)) (2 ^ (w - 1) - 1) x.toInt.natAbs)
    ∧ (o.fn ∈ [.shl, .shr, .sar, .rol] → let r := shiftTable o.fn w x (y.toNat % 64)
        has (flagsOf r.2 false r.1))
    ∧ (o.fn ∈ [.and, .or, .xor, .andn, .mov, .min, .max, .minu, .maxu, .clz, .popc, .sext, .zext] →
        ∃ r : BitVec w, has (flagsOf false false r) ∧ ∀ q ∈ wrReg o.sz o.d r.toNat, q ∈ aluWrites a o))
  ∧ (∀ (a : Arch) (o : ImmOp), o.fn = .cmpi →
    let w := o.sz.width
    let x := BitVec.ofNat w (a.rd o.sz o.s1)
    let y := o.imm.signExtend w
    immWrites a o = [flagsOf (decide (x < y)) (overflows w (x.toInt - y.toInt)) (x - y)])

/-- R132: the results and C of the shifts and rotates, the count taken from the lowest word of S2 or from IMM12. -/
def Obligations.ShiftsFollowTheTable : Prop :=
  (∀ (a : Arch) (o : AluOp), o.fn ∈ [.shl, .shr, .sar, .rol] →
    let w := o.sz.width
    let r := shiftTable o.fn w (BitVec.ofNat w (a.rd o.sz o.s1)) (bits (a.rw (o.sz.words * o.s2)).toNat 5 0)
    aluWrites a o = wrReg o.sz o.d r.1.toNat ++ (if o.sf then [flagsOf r.2 false r.1] else []))
  ∧ (∀ (a : Arch) (o : ImmOp), o.fn ∈ [.shli, .shri, .sari] →
    let w := o.sz.width
    immWrites a o = wrReg o.sz o.d
      (shiftTable o.fn.alu w (BitVec.ofNat w (a.rd o.sz o.s1)) (bits o.imm.toNat 5 0)).1.toNat)

/-- R133: the clamps of the saturating operations and of ABS with QS, whatever SF holds; the orders of the minima and maxima;
CLZ of 0; and SEXT and ZEXT of the low half. -/
def Obligations.SaturationAndExtremesFollowTheRule : Prop :=
  ∀ (a : Arch) (o : AluOp),
    let w := o.sz.width
    let x := BitVec.ofNat w (a.rd o.sz o.s1)
    let y := BitVec.ofNat w (a.rd o.sz o.s2)
    let writes := fun r : BitVec w => ∀ q ∈ wrReg o.sz o.d r.toNat, q ∈ aluWrites a o
    let sat := fun (lo hi t : Int) => let r := max lo (min hi t)
      writes (BitVec.ofInt w r) ∧ (.sticky 0x10 ∈ aluWrites a o ↔ r ≠ t)
    let half := a.rd (match o.sz with | .quad => .pair | _ => .word) o.s1
    (o.fn = .adds → sat (-2 ^ (w - 1)) (2 ^ (w - 1) - 1) (x.toInt + y.toInt))
    ∧ (o.fn = .subs → sat (-2 ^ (w - 1)) (2 ^ (w - 1) - 1) (x.toInt - y.toInt))
    ∧ (o.fn = .addus → sat 0 (2 ^ w - 1) ((x.toNat : Int) + y.toNat))
    ∧ (o.fn = .subus → sat 0 (2 ^ w - 1) ((x.toNat : Int) - y.toNat))
    ∧ (o.fn = .abs → sat (-2 ^ (w - 1)) (2 ^ (w - 1) - 1) x.toInt.natAbs)
    ∧ (o.fn = .min → writes (if x.toInt < y.toInt then x else y))
    ∧ (o.fn = .max → writes (if x.toInt < y.toInt then y else x))
    ∧ (o.fn = .minu → writes (if x < y then x else y))
    ∧ (o.fn = .maxu → writes (if x < y then y else x))
    ∧ (o.fn = .clz → x = 0 → writes (BitVec.ofNat w w))
    ∧ (o.fn = .sext → opLegal .a (.alu o) = true → writes ((BitVec.ofNat (w / 2) half).signExtend w))
    ∧ (o.fn = .zext → opLegal .a (.alu o) = true → writes (BitVec.ofNat w half))

/-- R134, R135, R138: products of every width; quotients and remainders with their corner cases and no flag but QS, for every
operand; and the Q products with their one saturating pair. -/
def Obligations.ProductsAndQuotientsAreExact : Prop :=
  (∀ (a : Arch) (o : MulOp),
    let w := o.sz.width
    let x := BitVec.ofNat w (a.rd o.sz o.s1)
    let y := BitVec.ofNat w (a.rd o.sz o.s2)
    let p := BitVec.ofInt (2 * w) (x.toInt * y.toInt)
    let u := BitVec.ofNat (2 * w) (x.toNat * y.toNat)
    let gives := fun n => mulWrites a o = wrReg (mulDest o) o.d n
    (o.fn = .mul → gives (x * y).toNat) ∧ (o.fn = .mulw → gives p.toNat) ∧ (o.fn = .mulwu → gives u.toNat)
    ∧ (o.fn = .mulh → gives (p.toNat / 2 ^ w)) ∧ (o.fn = .mulhu → gives (u.toNat / 2 ^ w)))
  ∧ (∀ (a : Arch) (o : DivOp),
    let w := o.sz.width
    let x := BitVec.ofNat w (a.rd o.sz o.s1)
    let y := BitVec.ofNat w (a.rd o.sz o.s2)
    let lo := BitVec.ofInt w (-2 ^ (w - 1))
    let hi := BitVec.ofInt w (2 ^ (w - 1) - 1)
    let gives := fun (r : BitVec w) (qs : Bool) =>
      divWrites a o = wrReg o.sz o.d r.toNat ++ (if qs then [.sticky 0x10] else [])
    (o.fn = .div → (y = 0 → 0 ≤ x.toInt → gives hi true) ∧ (y = 0 → x.toInt < 0 → gives lo true)
      ∧ (x = lo → y.toInt = -1 → gives hi true)
      ∧ (y ≠ 0 → (x = lo ∧ y.toInt = -1 → False) → ∃ q : BitVec w, gives q false
          ∧ (x.toInt - q.toInt * y.toInt).natAbs < y.toInt.natAbs ∧ 0 ≤ x.toInt * (x.toInt - q.toInt * y.toInt)))
    ∧ (o.fn = .rem → (y = 0 → gives x false) ∧ (x = lo → y.toInt = -1 → gives 0 false)
      ∧ (y ≠ 0 → ∃ (q : Int) (r : BitVec w), gives r false ∧ r.toInt = x.toInt - q * y.toInt
          ∧ r.toInt.natAbs < y.toInt.natAbs ∧ 0 ≤ x.toInt * r.toInt))
    ∧ (o.fn = .divu → (y = 0 → gives (BitVec.allOnes w) true) ∧ (y ≠ 0 → gives (x / y) false))
    ∧ (o.fn = .remu → (y = 0 → gives x false) ∧ (y ≠ 0 → gives (x - x / y * y) false)))
  ∧ (∀ (s : State) (core : Fin 64) (e : Env) (o : DivOp), s.chip.Ready core e false →
    RegisterOp s e .m (.div o) (divTime o.sz).1 (divWrites e.a o) (.div core o))
  ∧ (∀ (a : Arch) (o : MulqOp),
    let w := o.size.width
    let x := BitVec.ofNat w (a.rd o.size o.s1)
    let y := BitVec.ofNat w (a.rd o.size o.s2)
    let p := x.toInt * y.toInt
    let f := if o.q31 then 31 else 15
    let q := if o.r then (p + 2 ^ (f - 1)) / 2 ^ f else p / 2 ^ f
    let least := x.toInt = -2 ^ (w - 1) ∧ y.toInt = -2 ^ (w - 1)
    (least → mulqWrites a o = wrReg o.size o.d (2 ^ (w - 1) - 1) ++ [.sticky 0x10])
    ∧ (¬ least → mulqWrites a o = wrReg o.size o.d (BitVec.ofInt w q).toNat))

/-! ### Operations of a core (chapters "Core Execution" to "Segments, Pages and Translation") -/

/-- R64, R66, R67, R97 to R99, R110 to R118: an arithmetic operation takes its unit and puts its results in flight with the
contract latency of its row, whatever the operands, and changes nothing else; VAPUT also keeps a VMAC from its accumulator
until cycle c + 3. The model's choices it rests on: log entry 14. -/
def Obligations.ArithmeticOperationsIssue : Prop :=
  ∀ (s : State) (core : Fin 64) (e : Env), s.chip.Ready core e false →
    (∀ onB : Bool, let sl : Slot := if onB then .b else .a
      (∀ o, RegisterOp s e sl (.alu o) (aluTime o.sz) (aluWrites e.a o) (.aluOperation core onB o))
      ∧ (∀ o, RegisterOp s e sl (.imm o) (aluTime o.sz) (immWrites e.a o) (.immediateOperation core onB o))
      ∧ (∀ o, RegisterOp s e sl (.movi o) (if o.kv.val = 3 then 2 else 1) (moviWrites o) (.movi core onB o)))
    ∧ (∀ o, RegisterOp s e .m (.mul o) (mulTime o.sz).1 (mulWrites e.a o) (.mul core o))
    ∧ (∀ o, RegisterOp s e .m (.div o) (divTime o.sz).1 (divWrites e.a o) (.div core o))
    ∧ (∀ o, RegisterOp s e .m (.mulq o) (mulTime o.size).1 (mulqWrites e.a o) (.mulq15 core o))
    ∧ (∀ o, let fp := fun (fn : FpFn) (i : Instr) =>
          RegisterOp s e .m (.fp fn o) (fpTime fn o.fmt).1 (fpWrites e.a fn o) i
        fp .add (.fadd core o) ∧ fp .sub (.fsub core o) ∧ fp .mul (.fmul core o) ∧ fp .min (.fmin core o)
        ∧ fp .max (.fmax core o) ∧ fp .neg (.fneg core o) ∧ fp .abs (.fabs core o) ∧ fp .cmp (.fcmp core o)
        ∧ fp .cmps (.fcmps core o) ∧ fp .class (.fclass core o) ∧ fp .frec (.frec core o) ∧ fp .frsq (.frsq core o))
    ∧ (∀ o, RegisterOp s e .m (.fma false o) (fmaTime o.fmt).1 (fmaWrites e.a false o) (.fma core o))
    ∧ (∀ o, RegisterOp s e .m (.fma true o) (fmaTime o.fmt).1 (fmaWrites e.a true o) (.fmsb core o))
    ∧ (∀ o, RegisterOp s e .m (.fcvt o) 3 (fcvtWrites e.a o) (.fcvt core o))
    ∧ (∀ o, RegisterOp s e .m (.vmac o) 3 (vmacWrites e.a o) (.vmac core o))
    ∧ (∀ o, RegisterOp s e .m (.vfma o) 4 (vfmaWrites e.a o) (.vfma core o))
    ∧ (∀ o, RegisterOp s e .m (.sweep o) 2 (sweepWrites e.a o) (.sweepLaneOperation core o))
    ∧ (∀ o, RegisterOp s e .m (.vext o) 3 (vextWrites e.a o) (.vext core o))
    ∧ (∀ o, OpCompletes s e .m (.vaput o)
        { e.p.afterOp .m (.vaput o) (e.p.landings .m 3 (vaputWrites e.a o)) with
          occ := tset 0 (tset 0 e.p.occ (ExecUnit.acc o.ad).key (e.p.cycle + 3)) ExecUnit.sweep.key (e.p.cycle + 1) }
        (.vaput core o))

/-- R108, R119, R166, R189, R219, R222: moves between control or segment registers and the core's registers, the writes of
control registers that act on the predictor, the TLB staging registers and the walk cache, and the captures of descriptors by
LSEG and by an MTC to a register that holds a selector. The model's choices it rests on: log entry 14. -/
def Obligations.ControlAndSegmentRegistersMove : Prop :=
  (∀ (s : State) (core : Fin 64) (e : Env), s.chip.Ready core e false →
     (∀ (n : Fin 128) (x : Fin 32), RegisterOp s e .b (.mfc n x) 1 (wrReg .pair x (cregRead e n)) (.mfc core n x))
     ∧ (∀ (g : Fin 8) (w : Fin 64), RegisterOp s e .l (.mfs g w) 1 [.w w (e.a.segr g).sel] (.mfs core g w))
     ∧ (∀ (n : Fin 128) (x : Fin 32), mtcSelector e.a n x = none → n.val ≠ 0x61 → n.val ≠ 0x4C → n.val ≠ 0x4D →
         OpCompletes s e .b (.mtc n x)
           (e.p.afterOp .b (.mtc n x) (e.p.landingsMany .b (mtcWrites e n (e.a.rx x)))) (.mtc core n x))
     ∧ (∀ x : Fin 32, OpCompletes s e .b (.mtc 0x61 x)
         { e.p.afterOp .b (.mtc 0x61 x) (e.p.landings .b 2
             [.key (BitVec.ofNat 64 ((tget 0 e.a.creg 0x60).toNat + e.a.rx x * 2 ^ 32))]) with
           pred := e.p.pred.flush e.p.cycle e.x.world e.x.ctx false } (.pkeyhWrite core x))
     ∧ (∀ x : Fin 32, (tget {} e.p.tlb (bits (e.a.rx x) 6 0)).world = e.x.world →
         let t := tget {} e.p.tlb (bits (e.a.rx x) 6 0)
         OpCompletes s e .b (.mtc 0x4C x)
           (e.p.afterOp .b (.mtc 0x4C x) (e.p.landings .b 2
             [.core 0x48 (BitVec.ofNat 32 t.vpn.toNat),
              .core 0x49 (BitVec.ofNat 32 (t.asid.toNat + b2n t.world * 2 ^ 12 + b2n t.v * 2 ^ 15)),
              .core 0x4A (BitVec.ofNat 32 (t.pte.toNat + b2n t.v)),
              .core 0x4B (BitVec.ofNat 32 ((t.pte.toNat + b2n t.v) / 2 ^ 32))]))
           (.tlbrdWrite core x))
     ∧ (∀ x : Fin 32, (tget {} e.p.tlb (bits (e.a.rx x) 6 0)).world ≠ e.x.world → OpCompletes s e .b (.mtc 0x4C x)
         (e.p.afterOp .b (.mtc 0x4C x) (e.p.landings .b 2 [.core 0x48 0, .core 0x49 0, .core 0x4A 0, .core 0x4B 0]))
         (.tlbrdWrite core x))
     ∧ (∀ x : Fin 32, bitN (e.a.rx x) 0 = true → OpCompletes s e .b (.mtc 0x4D x)
         { e.p.afterOp .b (.mtc 0x4D x) [] with wc := e.p.wc.filter (fun w => w.world != e.x.world) } (.wcctlInv core x)))
  ∧ (∀ (s : State) (core : Fin 64) (e : Env), s.chip.Ready core e false →
     let c := s.chip.atCode core
     let b := c.emitLanded e
     (∀ (g : Fin 8) (w : Fin 64), c.Clear e .l (.lseg g w) → Completes (.lseg core g w) s (fun d => s.chip.FrameUse d e.pi
       ∧ d.pipe e.pi = e.p.afterOp .l (.lseg g w)
           (e.p.landings .l 4 [.seg g (b.capture e.core e.p e.x e.a.level (e.a.rw w).toNat).2.1])))
     ∧ (∀ (k : SelReg) (x : Fin 32), c.Clear e .b (.mtc k.creg x) → ∃ sel g, mtcSelector e.a k.creg x = some (sel, g)
         ∧ Completes (.mtcSelector core k x) s (fun d => s.chip.FrameUse d e.pi
           ∧ d.pipe e.pi = e.p.afterOp .b (.mtc k.creg x) (e.p.landingsMany .b (mtcWrites e k.creg (e.a.rx x))
               ++ e.p.landings .b 2 [.edesc k.creg (b.capture e.core e.p e.x e.a.level sel).2.1]))))

/-- R72, R74, R81, R87, R101, R102, R103: every branch, call and return waits for two delay slots; a prefix captures its count,
or steps over the repeated bundle where the count is 0. The model's choices it rests on: log entry 14. -/
def Obligations.BranchesAndPrefixesAct : Prop :=
  (∀ (s : State) (core : Fin 64) (e : Env), s.chip.Ready core e true → e.Straight →
     let link := BitVec.ofNat 32 (e.pc + 24)
     let go := fun (o : CoreOp) (r : Resolved) (i : Instr) => resolve e o = some r ∧ BranchCompletes s e o r i
     (∀ d, go (.br d) ⟨true, directTarget e.pc 26 d.toNat, some .direct, false, false, none, none⟩ (.br core d))
     ∧ (∀ k d, go (.bc k d) ⟨k.holds e.a.flC e.a.flV e.a.flN e.a.flZ, directTarget e.pc 22 d.toNat, some .conditional,
         false, false, none, none⟩ (.bc core k d))
     ∧ (∀ (w : Fin 64) d, go (.bz w d) ⟨e.a.rw w == 0, directTarget e.pc 20 d.toNat, some .conditional, false, false, none, none⟩
         (.bz core w d))
     ∧ (∀ (w : Fin 64) d, go (.bnz w d) ⟨e.a.rw w != 0, directTarget e.pc 20 d.toNat, some .conditional, false, false, none, none⟩
         (.bnz core w d))
     ∧ (∀ d, go (.call d) ⟨true, directTarget e.pc 26 d.toNat, some .call, false, false, some link, none⟩ (.call core d))
     ∧ (∀ x : Fin 32, go (.bri x) ⟨true, BitVec.ofNat 32 (e.a.rx x), some .indirect, true, false, none, some 0⟩ (.bri core x))
     ∧ (∀ x : Fin 32, go (.calli x) ⟨true, BitVec.ofNat 32 (e.a.rx x), some .call, true, false, some link, some 1⟩ (.calli core x))
     ∧ go .ret ⟨true, e.a.lk, none, true, true, none, some 2⟩ (.ret core))
  ∧ (∀ (s : State) (core : Fin 64) (e : Env) (d : Oct), s.chip.Ready core e true → e.Straight →
     (s.chip.atCode core).fetch e ((e.pc + 8) % 2 ^ 32) = .words d → badRepeat d = false →
     let done := fun (o : CoreOp) (repi : Bool) =>
       { e.p.afterOp .b o [] with
         issued := true
         arch := if repCount e.a o = 0 then { e.a with pc := e.a.pc + 16 }
           else { e.a with rep := some ⟨repi, repCount e.a o⟩ } }
     (∀ k, OpCompletes s e .b (.rep k) (done (.rep k) false) (.rep core k))
     ∧ OpCompletes s e .b .repi (done .repi true) (.repi core))

/-- R28, R91, R187, R188, R277: with nothing in flight, SYSE and the landing of its cycle leave the core at the higher level
with interrupts off, the caller's place, status and code segment in the shadow registers, and the stacks exchanged; SYSR undoes
it; after WEND no bundle issues, and in an open window the rise of the hub's request line wakes the core. The model's choices
it rests on: log entries 14, 23, 98. -/
def Obligations.SystemCallsAndWend : Prop :=
  (∀ (s : State) (core : Fin 64) (e : Env), s.chip.Ready core e true → e.Straight → e.x.open_ = true →
     e.p.fly = [] → e.p.stores = [] → e.p.far = [] →
     (∀ (lv : Fin 4) (code : Word), (lv = 1 ∨ lv = 2) → e.a.level < lv.val → opConflict e .b (.syse lv code) = false →
       let i := lv.val - 1
       Completes (.syse core lv code) s (fun d => ∃ u, exec (.resultLanding core) { s with chip := d } = .next u ∧
         let a := (u.chip.pipe e.pi).arch
         a.level = lv.val ∧ a.ie = false ∧ a.pc = BitVec.ofNat 32 (e.a.acting (0x22 + i))
         ∧ tget 0 a.creg (0x26 + i) = e.a.pc + 8 ∧ (tget 0 a.creg (0x28 + i)).toNat = bits e.a.st.toNat 8 0
         ∧ (tget 0 a.creg (0x2A + i)).toNat = (e.a.segr 0).sel.toNat + code.toNat * 2 ^ 16
         ∧ tget {} a.edesc (0x2A + i) = e.a.segr 0 ∧ (a.segr 0).raw = (tget {} e.a.edesc (0x20 + i)).raw
         ∧ (tget 0 a.creg (0x24 + i)).toNat = e.a.w62 + (e.a.segr 2).sel.toNat * 2 ^ 16
         ∧ a.segr 2 = (e.a.stk lv.val).seg ∧ a.w62 = (e.a.stk lv.val).sp
         ∧ (s.chip.trStream = false → u.chip.mem = s.chip.mem)))
     ∧ (0 < e.a.level → bits (e.a.acting (0x28 + (e.a.level - 1))) 1 0 < e.a.level → opConflict e .b .sysr = false →
       let i := e.a.level - 1
       Completes (.sysr core) s (fun d => ∃ u, exec (.resultLanding core) { s with chip := d } = .next u ∧
         let a := (u.chip.pipe e.pi).arch
         a.level = bits (e.a.acting (0x28 + i)) 1 0 ∧ a.ie = bitN (e.a.acting (0x28 + i)) 4
         ∧ a.pc = BitVec.ofNat 32 (e.a.acting (0x26 + i)) ∧ (a.segr 0).raw = (tget {} e.a.edesc (0x2A + i)).raw
         ∧ a.segr 2 = (e.a.stk e.a.level).seg.atLevel (bits (e.a.acting (0x28 + i)) 1 0) ∧ a.w62 = (e.a.stk e.a.level).sp
         ∧ (s.chip.trStream = false → u.chip.mem = s.chip.mem))))
  ∧ (∀ (s : State) (core : Fin 64) (e : Env),
     (s.chip.Ready core e true → e.Straight → OpCompletes s e .b .wend
       { e.p.afterOp .b .wend [] with run := .ended, issued := true, arch := { e.a with pc := e.a.pc + 8 } } (.wend core))
     ∧ (s.chip.Alone core e → e.x.open_ = true → e.p.run = .ended → e.p.closing = false →
       s.chip.hubLine core = true → (s.chip.part e.x.part).st = .run →
       Completes (.coreWake core) s (fun d => d = s.chip.setPipe e.pi { e.p with run := .run })))

/-- R181 to R185: with nothing in flight and a push that passes its checks, an entry writes the two octs of the frame through
the stack's targets, goes to the handler of the handling level with interrupts off, and takes the stack of that level. -/
def Obligations.ExceptionEntryGoesToTheHandler : Prop :=
  ∀ (s : State) (core : Fin 64) (e : Env) (r : Raised) (ts : List (Option Target)) (c1 c2 : Chip), s.chip.Alone core e →
    e.p.run = .run → e.p.pend = some r → e.p.fly = [] → e.p.stores = [] →
    let c := (s.chip.atCode core).drain e
    let h := handlingLevel e.a e.a r.cause
    let f := frameOf e.a r
    c.pushCheck e.core (c.pipe e.pi) e.a e.x h = .ok ts → c.pushOct e ts f 0 = (c1, none) → c1.pushOct e ts f 8 = (c2, none) →
      Completes (.exceptionEntry core) s (fun d =>
        let p := d.pipe e.pi
        p.arch.level = h ∧ p.arch.ie = false ∧ p.arch.pc = BitVec.ofNat 32 (r.cause.code * 0x20)
        ∧ p.arch.w62 = (e.a.candidate e.a h).sp - 16 ∧ p.pend = none ∧ p.arch.br = none ∧ p.arch.rep = none
        ∧ (p.arch.segr 0).raw = (tget {} e.a.edesc (0x20 + (h - 1))).raw ∧ p.cycle = e.p.cycle + 6
        ∧ (c.trStream = false → d.mem = c2.mem))

/-- R186, R128: with nothing in flight, an ERET whose frame reads well restores ST, FL, CSG and the place of the frame, with
its delay slots or repetition, and pops the frame; so it does whenever the frame stands on a stack in the context's tight
memory, readable and free of errors, with a level not above the running one and a null selector. The model's choices it rests
on: log entries 14, 78, 83, 98. -/
def Obligations.EretRestoresTheFrame : Prop :=
  ∀ (s : State) (core : Fin 64) (e : Env), s.chip.Ready core e true → e.Straight →
    let o : CoreOp := .eret
    let c0 := (s.chip.atCode core).drain e
    let c := c0.setPipe e.pi { c0.pipe e.pi with stall := none }
    let restores := fun (f : List Word) (g : SegReg) (d : Chip) =>
      let a := (d.pipe e.pi).arch
      let q := e.a.resume (frameP f 0) f
      a.pc = q.pc ∧ a.br = q.br ∧ a.rep = q.rep ∧ a.level = bits (frameW f 2) 1 0 ∧ a.ie = bitN (frameW f 2) 4
      ∧ bits a.st.toNat 8 6 = bits (frameW f 2) 8 6 ∧ a.fl = frameP f 0xC &&& 0x1F1F ∧ a.segr 0 = g
      ∧ (bits (frameW f 2) 1 0 = e.a.level → a.w62 = (e.a.w62 + 16) % 2 ^ 16)
      ∧ (bits (frameW f 2) 1 0 < e.a.level → a.w62 = (e.a.stk e.a.level).sp
          ∧ a.segr 2 = (e.a.stk e.a.level).seg.atLevel (bits (frameW f 2) 1 0))
      ∧ (a.reissue.isSome = bitN (tget 0 e.a.creg 0x14).toNat 0) ∧ (d.pipe e.pi).cycle = e.p.cycle + 8
    e.x.open_ = true → 0 < e.a.level → opConflict e .b o = false → e.a.crab = false → e.p.fly = [] → e.p.stores = [] →
    (∀ (b : Chip) (f : List Word) (g : SegReg), c.eretCheck e e.a = (b, .frame f g) →
      Completes (.eret core) s (fun d => restores f g d ∧ (s.chip.trStream = false → d.mem = b.mem)))
    ∧ (∀ off : Nat, let g := e.a.segr 2
      g.valid = true → descR g.raw = true → descPg g.raw = false → e.a.w62 % 4 = 0 → e.a.w62 + 15 ≤ descLimit g.raw →
      off + 16 ≤ 0x1_0000 → (descBase g.raw + e.a.w62) % 2 ^ 36 = tightBase + core * 0x1_0000 + off →
      e.x.inRegion off 16 = true → s.chip.tightHeld core off 16 = false → s.chip.tightErr core off 16 = false →
      let f := toWords 16 (s.chip.tightRead core off 16)
      bits (frameW f 2) 1 0 ≤ e.a.level → bits (frameW f 3) 12 0 = 0 →
      Completes (.eret core) s (fun d => restores f ⟨BitVec.ofNat 16 (frameW f 3), 0, false⟩ d
        ∧ (s.chip.trStream = false → d.mem = s.chip.mem)))

/-- R68, R104, R106: a load's data and its base update are in flight with their latencies; a store's data, read at issue, is
held until the end of the next cycle; a MOVO reads its source in the next cycle. The model's choices it rests on: log entries
14, 19, 96. -/
def Obligations.LoadsStoresAndMovesIssue : Prop :=
  ∀ (s : State) (core : Fin 64) (e : Env), s.chip.Ready core e false →
    let c := s.chip.atCode core
    (∀ (o : LmOp) (q : Want) (t : Target), c.Clear e .l (.load o) → opWants e.a (.load o) = [q] → c.goesTo e q = some t →
      Completes (.load core o) s (fun d => s.chip.FrameUse d e.pi ∧ d.pipe e.pi = e.p.afterOp .l (.load o)
        (e.p.landings .l 1 (lmUpdate e.a o) ++ e.p.landings .l (loadTime t o.sz.words)
          (lmTarget o ((c.emitLanded e).readTarget (c.mctx e.core e.x) t o.sz.words).2
            ++ (((c.emitLanded e).readTarget (c.mctx e.core e.x) t o.sz.words).1.countTarget e t).accessTrace e t o.sz.words false
              ((c.emitLanded e).readTarget (c.mctx e.core e.x) t o.sz.words).2))))
    ∧ (∀ (o : LmOp) (q : Want) (t : Target), c.Clear e .l (.store o) → opWants e.a (.store o) = [q] →
        c.goesTo e q = some t →
      Completes (.store core o) s (fun d => s.chip.Frame d e.pi ∧ d.pipe e.pi =
        { e.p.afterOp .l (.store o) (e.p.landings .l 1 (lmUpdate e.a o)) with
          stores := e.p.stores ++ [⟨e.p.cycle + 1, t, o.sz.words, BitVec.ofNat 128 (lmSource e.a o), none⟩] }))
    ∧ (∀ (o : MovoOp) (qs qd : Want) (ts td : Target), c.Clear e .l (.movo o) → opWants e.a (.movo o) = [qs, qd] →
        c.goesTo e qs = some ts → c.goesTo e qd = some td →
      Completes (.movo core o) s (fun d => s.chip.Frame d e.pi ∧ d.pipe e.pi =
        { e.p.afterOp .l (.movo o) (if o.inc then e.p.landings .l 1
            (wrReg .pair o.xs (e.a.rx o.xs + 8) ++ wrReg .pair o.xd (e.a.rx o.xd + 8)) else []) with
          stores := e.p.stores ++ [⟨e.p.cycle, td, 8, 0, some ts⟩] }))

/-- R109, R477: CASP stalls the core; with the reply the pair is compared and, where it equals XC, replaced, in tight memory or
in QDR with its line first written back and dropped; XC takes the pair read. The model's choices it rests on: log entry 17. -/
def Obligations.CompareAndSwapWaitsForItsReply : Prop :=
  ∀ (s : State) (core : Fin 64) (e : Env) (o : CaspOp),
    (s.chip.Ready core e false → (s.chip.atCode core).opCauses e [(.l, .casp o)] .l (.casp o) = [] →
      (s.chip.atCode core).armed (0x020 + e.pi) = none → Completes (.casp core o) s (fun d =>
        d = (s.chip.atCode core).setPipe e.pi { e.p with stall := some (.uncached [] [] [(.l, .casp o)] false) }))
    ∧ (∀ (q : Want) (n : Word), s.chip.Alone core e → e.p.stall = some (.uncached [] [] [(.l, .casp o)] false) →
        e.p.stores = [] → s.chip.opCauses e [(.l, .casp o)] .l (.casp o) = [] →
        opWants e.a (.casp o) = [q] → s.chip.trStream = false →
        let c := s.chip
        let m := c.mctx e.core e.x
        let cmp := e.a.rx o.xc
        let new := e.a.rx o.xn
        (∀ off, c.goesTo e q = some (.tight off) → Completes (.uncachedReply core false n) s (fun d =>
          let v := c.tightRead e.core off 2
          (d.pipe e.pi).stall = none ∧ (d.pipe e.pi).fly = e.p.held ++ e.p.landings .l 2 (wrReg .pair o.xc v)
          ∧ d.mem = if v = cmp then (c.tightWrite e.core off 2 new).mem else c.mem))
        ∧ (∀ ad b, c.goesTo e q = some (.mem ad b) → Completes (.uncachedReply core false n) s (fun d =>
          let c1 := (c.dcwb m (ad / 32)).dcinv m (ad / 32)
          let v := c1.rdN m.key ad 2
          (d.pipe e.pi).stall = none ∧ (d.pipe e.pi).fly = e.p.held ++ e.p.landings .l 2 (wrReg .pair o.xc v)
          ∧ d.mem = if v = cmp then (c1.memWrite m.key ad (toWords 2 new)).mem else c1.mem)))

/-- R69, R107: FLD and FST put a far operation in flight, and the oldest one outstanding moves its oct between QDR and tight
memory; where an FLD meets an uncorrectable or poisoned quad nothing is written, and the window faults. The model's choices it
rests on: log entries 14, 29, 80, 97. -/
def Obligations.FarOperationsIssueAndComplete : Prop :=
  ∀ (s : State) (core : Fin 64) (e : Env),
    let c := s.chip.atCode core
    (∀ o : FldOp, s.chip.Ready core e false → c.Clear e .l (.fld o) →
      ∃ ad, c.farAddr e o.segq (e.a.rx o.xq) o.ch false = some ad ∧
        Completes (.fld core o) s (fun d => s.chip.Frame d e.pi ∧ d.pipe e.pi =
          { e.p.afterOp .l (.fld o) (if o.u then e.p.landings .l 1
              (wrReg .pair o.xq (e.a.rx o.xq + 8) ++ wrReg .word o.wt ((e.a.rw o.wt).toNat + 8)) else []) with
            far := e.p.far ++ [⟨false, worldKey e.x.world, ad, fldTight e o.wt, 0, e.p.cycle, e.farUntil o.ch false, e.pc⟩] }))
    ∧ (∀ o : FstOp, s.chip.Ready core e false → c.Clear e .l (.fst o) →
      ∃ ad, c.farAddr e o.segq (e.a.rx o.xq) o.ch true = some ad ∧
        Completes (.fst core o) s (fun d => s.chip.Frame d e.pi ∧ d.pipe e.pi =
          { e.p.afterOp .l (.fst o) (if o.u then e.p.landings .l 1 (wrReg .pair o.xq (e.a.rx o.xq + 8)) else []) with
            far := e.p.far ++ [⟨true, worldKey e.x.world, ad, 0, e.a.rv o.vs, e.p.cycle, e.farUntil o.ch true, e.pc⟩] }))
    ∧ (∀ (pi : Nat) (f : FarOp) (rest : List FarOp), s.chip.inSwing (core / 8) = false → s.chip.pipeOf core = some pi →
      (s.chip.pipe pi).far = f :: rest →
      (f.wr = false → s.chip.memErr f.qaddr 8 core = true → Completes (.farOperationComplete core) s (fun d =>
        (d.pipe pi).far = rest ∧ (s.chip.trStream = false → d.mem = s.chip.mem)
        ∧ ((s.chip.pipe pi).run = .run → (s.chip.pipe pi).ctx.isSome = true → (d.pipe pi).run = .faulted 0x19 f.off)))
      ∧ (f.wr = false → s.chip.memErr f.qaddr 8 core = false → Completes (.farOperationComplete core) s (fun d =>
        (d.pipe pi).far = rest
        ∧ readN d.mem (s.chip.tmAddr core f.toff) 8 = s.chip.rdN f.key f.qaddr 8
        ∧ (∀ a, (s.chip.eight (core / 8)).move = none →
            (a < 2 * s.chip.tmAddr core f.toff ∨ 2 * (s.chip.tmAddr core f.toff + 8) ≤ a) →
            readByte d.mem a = readByte s.chip.mem a)))
      ∧ (f.wr = true → f.qaddr + 8 ≤ qdrEnd → Completes (.farOperationComplete core) s (fun d => (d.pipe pi).far = rest
        ∧ d.rdN f.key f.qaddr 8 = f.data.toNat
        ∧ (∀ a, (a < 2 * f.qaddr ∨ 2 * (f.qaddr + 8) ≤ a) → readByte d.mem a = readByte s.chip.mem a))))

/-- R213, R217, R220, R223: the entry TLBW stages and the invalidation of TLBI land with latency 3 and then empty the
fetch-ahead buffer; TWALK writes the status of its walk, the leaf it found, and the walk cache. The model's choices it rests
on: log entries 14, 17, 96. -/
def Obligations.TranslationOperationsIssue : Prop :=
  (∀ (s : State) (core : Fin 64) (e : Env), s.chip.Ready core e false →
    let c := s.chip.atCode core
    (∀ w : Fin 64, RegisterOp s e .b (.tlbw w) 3 [.tlbw (e.a.rw w).toNat (tlbwEntry e)] (.tlbw core w))
    ∧ (∀ o : TlbiOp, RegisterOp s e .b (.tlbi o) 3
        [.tlbi o.scope e.x.world (BitVec.ofNat 12 (e.a.rw o.wr).toNat) (bits (e.a.rd .quad o.ya) 41 0)] (.tlbi core o))
    ∧ (∀ o : TwalkOp, c.Clear e .b (.twalk o) → Completes (.twalk core o) s (fun d =>
        let r := (c.emitLanded e).walk e (e.a.rd .quad o.yb)
        r.1.Frame d e.pi ∧ d.pipe e.pi =
          { e.p.afterOp .b (.twalk o) (e.p.landings .b (if r.2.reads = 0 then 1 else 2)
              (wrReg .word o.wr r.2.status ++ (match r.2.leaf with
                | some q => wrReg .quad o.ya q.toNat
                | none => []))) with wc := r.2.wc, stalled := e.p.stalled + 4 * r.2.hits })))
  ∧ (∀ (s : State) (core : Fin 64) (e : Env) (l : Landing), s.chip.Alone core e → e.p.ticks = true → e.p.stores = [] →
      e.p.fly = [l] → l.at_ ≤ e.p.cycle →
      ((∀ n t, l.wr = .tlbw n t → Completes (.resultLanding core) s (fun d => let p := d.pipe e.pi
          tget {} p.tlb n = t ∧ (∀ k, k ≠ n → tget {} p.tlb k = tget {} e.p.tlb k) ∧ p.fab = [] ∧ p.arch = e.a))
      ∧ (∀ sc w a lin, l.wr = .tlbi sc w a lin → Completes (.resultLanding core) s (fun d => let p := d.pipe e.pi
          p.tlb = e.p.tlb.filter (fun t => !t.2.selected sc w a lin) ∧ p.wc = e.p.wc.filter (fun t => !t.selected sc w a lin)
          ∧ p.fab = [] ∧ p.arch = e.a))))

/-- R226, R234, R235: each cache line operation that passes its checks acts on its line in L1, in L2 and in memory; a prefetch
fills only in an open window, where a load of the word would raise no cause, its line is absent and a way can take it; a lock
of what no cache holds says so. The model's choices it rests on: log entry 14. -/
def Obligations.CacheLineOperationsAct : Prop :=
  ∀ (s : State) (core : Fin 64) (e : Env) (o : CacheArg) (ad : Nat) (cached : Bool), s.chip.Ready core e false →
    let c := s.chip.atCode core
    let b := c.emitLanded e
    let m := b.mctx e.core e.x
    let line := ad / 32
    let t := Target.mem ad cached
    (c.LineOp e .prefd o t → b.prefetches e o = true → b.l1Find m false line = none → b.l1CanFill m false line = true →
      Completes (.prefd core o) s (fun d => (b.l1Fill m false line).Leaves d e (.cache .prefd o)))
    ∧ (c.LineOp e .prefi o t → b.prefetches e o = true → b.l1Find m true line = none → b.l1CanFill m true line = true →
      Completes (.prefi core o) s (fun d => (b.l1Fill m true line).Leaves d e (.cache .prefi o)))
    ∧ (c.LineOp e .pref2 o t → b.prefetches e o = true →
      Completes (.pref2 core o) s (fun d => (b.lineFetch m line).1.Leaves d e (.cache .pref2 o)))
    ∧ (b.prefetches e o = false →
      (c.Clear e .b (.cache .prefd o) → Completes (.prefd core o) s (fun d => b.Leaves d e (.cache .prefd o)))
      ∧ (c.Clear e .b (.cache .prefi o) → Completes (.prefi core o) s (fun d => b.Leaves d e (.cache .prefi o)))
      ∧ (c.Clear e .b (.cache .pref2 o) → Completes (.pref2 core o) s (fun d => b.Leaves d e (.cache .pref2 o))))
    ∧ (c.LineOp e .dcwb o t → Completes (.dcwb core o) s (fun d => (b.dcwb m line).Leaves d e (.cache .dcwb o)))
    ∧ (c.LineOp e .dcinv o t → Completes (.dcinv core o) s (fun d => (b.dcinv m line).Leaves d e (.cache .dcinv o)))
    ∧ (c.LineOp e .dcwbi o t → Completes (.dcwbi core o) s
      (fun d => ((b.dcwb m line).dcinv m line).Leaves d e (.cache .dcwbi o)))
    ∧ (c.LineOp e .icinv o t → Completes (.icinv core o) s (fun d => (b.l1Drop m true line).Leaves d e (.cache .icinv o)))
    ∧ (c.LineOp e .dlock o t → Completes (.dlock core o) s (fun d => (b.lockLine m false line).Leaves d e (.cache .dlock o)))
    ∧ (c.LineOp e .ilock o t → Completes (.ilock core o) s (fun d => (b.lockLine m true line).Leaves d e (.cache .ilock o)))
    ∧ (c.LineOp e .dunlk o t → Completes (.dunlk core o) s
      (fun d => (b.setLock m false line false).Leaves d e (.cache .dunlk o)))
    ∧ (c.LineOp e .iunlk o t → Completes (.iunlk core o) s
      (fun d => (b.setLock m true line false).Leaves d e (.cache .iunlk o)))
    ∧ (∀ off, c.LineOp e .dlock o (.tight off) →
      Completes (.dlock core o) s (fun d => (b.lkResult e.core false 2 1).Leaves d e (.cache .dlock o)))
    ∧ (∀ off, c.LineOp e .ilock o (.tight off) →
      Completes (.ilock core o) s (fun d => (b.lkResult e.core true 2 1).Leaves d e (.cache .ilock o)))

/-- R167, R172, R173, R175, R242: a barrier holds its unit for four cycles; PFLUSH and PBAR act on the predictor; updates that
are due are made; fetch-ahead takes the next line on its path into its buffer, and stops at one that neither L1I nor L2 holds.
The model's choices it rests on: log entries 14, 70. -/
def Obligations.BarriersAndPredictorAct : Prop :=
  ∀ (s : State) (core : Fin 64) (e : Env),
    (s.chip.Ready core e false →
      (∀ k : Fin 16, OpCompletes s e .b (.mbar k)
        { e.p.afterOp .b (.mbar k) [] with occ := tset 0 e.p.occ ExecUnit.control.key (e.p.cycle + 4) } (.mbar core k))
      ∧ (∀ k : Fin 2, OpCompletes s e .b (.pflush k)
        { e.p.afterOp .b (.pflush k) [] with pred := e.p.pred.flush e.p.cycle e.x.world e.x.ctx (k.val == 1) } (.pflush core k))
      ∧ OpCompletes s e .b .pbar
        { e.p.afterOp .b .pbar [] with
          pred := e.p.pred.applyAll, fab := [], fapath := [], fapc := none, faBr := none, faStop := false }
        (.pbar core))
    ∧ (s.chip.Alone core e → Completes (.predictorUpdate core) s (fun d =>
        d = s.chip.setPipe e.pi { e.p with pred := e.p.pred.applyDue e.p.cycle }))
    ∧ (∀ ad : Nat, s.chip.Alone core e → let p := e.p
        let off := p.faStart.1
        let peek := s.chip.peekLine (s.chip.mctx core e.x) (ad / 32)
        e.x.open_ = true → p.closing = false → p.run = .run → p.arch.crab = false → p.faStop = false → p.fab.length < 4 →
        p.inFab off = false → s.chip.fetchCheck p e.x (off / 8 * 8) = .ok (ad, false) →
        (∀ (w : LineData) (l2 : Bool), peek = some (w, l2) → Completes (.fetchAhead core) s (fun d => d = s.chip.setPipe e.pi
          { p.faPass e.x with fab := p.fab ++ [⟨p.codeLine off, ad / 32, w, l2⟩] }))
        ∧ (peek = none → Completes (.fetchAhead core) s (fun d => d = s.chip.setPipe e.pi
          { p with fapc := some (BitVec.ofNat 32 off), faBr := p.faStart.2, faStop := true })))

/-- R61, R64, R95: a bundle reads every operand at the start of its cycle and its slots act together; where any slot raises a
cause, none acts and the cause of lowest rank, then slot order, is held for the entry. -/
def Obligations.BundlesIssueWhole : Prop :=
  ∀ (s : State) (core : Fin 64) (e : Env) (w : Oct), s.chip.Ready core e true → e.Straight → e.a.crab = false →
    let c := s.chip.atCode core
    c.fetch e e.pc = .words w → c.armed (0x020 + e.pi) = none →
    (∀ (oa : AluOp) (ob : ImmOp) (om : MulOp),
      splitOps w none = ([], [(.a, .alu oa), (.b, .imm ob), (.m, .mul om), (.l, .nop)]) →
      opConflict e .a (.alu oa) = false → opConflict e .b (.imm ob) = false → opConflict e .m (.mul om) = false →
      opLegal .a (.alu oa) = true → opLegal .b (.imm ob) = true → opLegal .m (.mul om) = true →
      Completes (.bundleIssue core) s (fun d =>
        (d.pipe e.pi).fly = e.p.held ++ e.p.landings .a (aluTime oa.sz) (aluWrites e.a oa)
          ++ e.p.landings .b (aluTime ob.sz) (immWrites e.a ob) ++ e.p.landings .m (mulTime om.sz).1 (mulWrites e.a om)
        ∧ (d.pipe e.pi).arch = { e.a with pc := e.a.pc + 8 } ∧ (d.pipe e.pi).issued = true))
    ∧ (∀ (pre : List Raised) (ops : List (Slot × CoreOp)) (b : Chip) (r : Raised), let v := { e with fetched := true }
      splitOps w none = (pre, ops) → r.cause.rank < c.waitRank v ops → e.x.open_ = true →
      (c.firstOf v pre ops = some (b, r) → (b.pipe e.pi).arch.crab = false →
        Completes (.bundleIssue core) s (fun d => (d.pipe e.pi).pend = some r
        ∧ (d.pipe e.pi).arch.pc = (b.pipe e.pi).arch.pc ∧ (d.pipe e.pi).fly = (b.pipe e.pi).fly))
      ∧ (hasEret ops = false → firstCause (pre ++ ops.flatMap (fun q => c.opCauses v ops q.1 q.2)) = some r →
        Completes (.bundleIssue core) s (fun d =>
        (d.pipe e.pi).pend = some r ∧ (d.pipe e.pi).fly = e.p.fly ∧ (d.pipe e.pi).stores = e.p.stores
        ∧ (d.pipe e.pi).arch.w = e.a.w ∧ (d.pipe e.pi).arch.v = e.a.v ∧ (d.pipe e.pi).arch.pc = e.a.pc
        ∧ (d.pipe e.pi).occ = e.p.occ)))

/-- R64, R65, R68, R80: at the end of a cycle the results due land, in issue order and slot priority, and the stores due are
performed: the words of tight memory read as the data, and every other byte of memory as before; the fill of a line that was
missed for a fetch puts the line into L1I and the core resumes. The model's choices it rests on: log entry 17. -/
def Obligations.ResultsAndStoresLand : Prop :=
  (∀ (s : State) (core : Fin 64) (e : Env), s.chip.Alone core e →
     (e.p.ticks = true → (∀ x ∈ e.p.stores, e.p.cycle < x.at_) → (∀ f ∈ e.p.far, e.p.cycle + 1 < f.until_) →
       Completes (.resultLanding core) s (fun d => s.chip.Frame d e.pi ∧
         let q := Pipe.landAll { e.p with fly := e.p.held } (e.p.held.filter (fun l => l.at_ ≤ e.p.cycle))
         d.pipe e.pi = { q with
           fly := e.p.held.filter (fun l => !decide (l.at_ ≤ e.p.cycle))
           pred := q.pred.applyDue e.p.cycle
           cycle := e.p.cycle + 1
           issued := false
           gap := e.p.gap - 1 }))
     ∧ (∀ (line off ad : Nat) (n : Word), e.p.stall = some (.ifetch line off) → s.chip.trStream = false →
       let m := s.chip.mctx e.core e.x
       s.chip.fetchCheck e.p e.x off = .ok (ad, false) → s.chip.armed (0x010 + m.core / 8) = none →
       s.chip.l1Find m true line = none → s.chip.l1CanFill m true line = true → (s.chip.lineFetch m line).2.2 = 0 →
       Completes (.fillArrival core n) s (fun d => d.pipe e.pi = { e.p with stall := none, stalled := e.p.stalled + n.toNat }
         ∧ ∃ w, d.l1Find m true line = some w)))
  ∧ (∀ (s : State) (core : Fin 64) (e : Env) (st : PStore) (off : Nat), s.chip.Alone core e → e.p.ticks = true →
     e.p.fly = [] → (∀ f ∈ e.p.far, e.p.cycle + 1 < f.until_) → e.p.stores = [st] → st.at_ ≤ e.p.cycle →
       st.dst = .tight off → st.src = none → st.n ≤ 8 →
     s.chip.trStream = false →
     Completes (.resultLanding core) s (fun d => (d.pipe e.pi).stores = []
       ∧ readN d.mem (s.chip.tmAddr core off) st.n = st.data.toNat % 2 ^ (16 * st.n)
       ∧ (∀ a, (s.chip.eight (core / 8)).move = none →
           (a < 2 * s.chip.tmAddr core off ∨ 2 * (s.chip.tmAddr core off + st.n) ≤ a) →
           readByte d.mem a = readByte s.chip.mem a)))

/-! ### Windows, strokes and plans (chapter "Strokes, Windows and the Stroke Plan") -/

/-- R22, R48, R51, R52: at a catch instant the next stroke begins; the catch before the armed one decides go or no-go; the
armed plan becomes live at its committed switch catch; and the first plan becomes live at the catch that start-up armed. The
model's choices it rests on: log entries 41, 42. -/
def Obligations.CatchesBeginStrokes : Prop :=
  ∀ (s : State) (go : Option PlanMark),
    let c := s.chip
    (∀ old, c.livePlan = some old → c.strokeOn = true → c.armedAt = none →
      Completes (.catchInstant go) s (fun d => d.stroke = c.stroke + 1 ∧ d.catchAt = c.nextCatch ∧ c.nextCatch ≤ d.now
        ∧ d.livePlan = some old ∧ d.strokeOn = true))
    ∧ (∀ old p, c.livePlan = some old → c.strokeOn = true → c.strokeNs ≠ 0 → c.armedAt = some (c.nextCatch + c.strokeNs) →
        c.committed = false → c.altBank.plan = some p →
      ((c.hears go).planGo p = true → Completes (.catchInstant go) s (fun d => d.committed = true ∧ d.armedAt = c.armedAt
        ∧ d.altBank = c.altBank))
      ∧ ((c.hears go).planGo p = false → Completes (.catchInstant go) s (fun d => d.committed = false ∧ d.armedAt = none
        ∧ d.altBank = { c.altBank with st := .admitted })))
    ∧ (∀ old new, c.livePlan = some old → c.strokeOn = true → c.armedAt = some c.nextCatch → c.committed = true →
        c.altBank.plan = some new →
      Completes (.catchInstant go) s (fun d => d.livePlan = some new ∧ d.liveB = !c.liveB ∧ d.armedAt = none
        ∧ d.catchAt = c.nextCatch ∧ d.stroke = (c.nextCatch - new.epoch) / (new.stroke * 1000)))
    ∧ (∀ t p, c.isLive = false → c.altBank.plan = some p → c.altBank.st = .armed → c.armedAt = some t →
        c.power.releasing = true →
      Completes (.catchInstant go) s (fun d => d.livePlan = some p ∧ d.isLive = true ∧ d.strokeOn = true ∧ d.catchAt = t
        ∧ d.power.st = .run))

/-- R25, R26, R27, R56, R252, R348: at its START a window runs where its stroke is due, its partition and its world RUN, its
eight is powered, its core can run, and an open context is neither damaged nor has its region under hand-over; it then ungates
its core. A timed context begins with every register cleared but the program counter, W62, the status and its two segments; an
open one with the registers that were saved, and with its slice of the hub. The model's choices it rests on: log entries 26,
28, 76, 78. -/
def Obligations.WindowsStart : Prop :=
  ∀ (s : State) (core : Fin 64) (i : Fin 4096) (p : Plan) (w : WinE) (q : CtxE) (pi : Nat),
    let c := s.chip
    let part := c.part q.part
    let sv := c.savedCtx core w.ctx
    let x := p.runCtx core i w q
    c.livePlan = some p → (p.winsOf core)[i.val]? = some w → (p.ctxsOf core)[w.ctx]? = some q → c.strokeOn = true →
    c.inSwing (core / 8) = false → runsIn w.divm1 w.phase c.stroke = true → c.pipeOf core = some pi → (c.pipe pi).ctx = none →
    part.st = .run → part.skipOn.contains (core.val, i.val) = false → (c.world (p.worldOf w.party)).st = .run →
    (c.eight (core / 8)).pwr = .on → (c.eight (core / 8)).stuck.contains core.val = false → (c.pipe pi).run ≠ .mismatched →
    (q.open_ = true → sv.damaged = false ∧ c.regionHeld core q = false) →
      Completes (.windowStart core i) s (fun d =>
        let r := d.pipe pi
        r.run = .run ∧ r.ctx = some x ∧ r.cycle = 0 ∧ r.fly = [] ∧ r.stores = [] ∧ r.pend = none ∧ r.stall = none
        ∧ r.closing = false ∧ r.far = [] ∧ c.now ≤ d.now ∧ c.granuleAt w.start ≤ d.now
        ∧ (q.open_ = false → (∀ n, n ≠ 62 → r.arch.rw n = 0) ∧ r.arch.v = [] ∧ r.arch.a = [] ∧ r.arch.fl = 0 ∧ r.arch.lk = 0
            ∧ r.arch.ct = 0 ∧ r.arch.creg = [] ∧ (∀ n, n ≠ 0 → n ≠ 2 → r.arch.segr n = {})
            ∧ (r.arch.segr 0).sel = BitVec.ofNat 16 q.entrySel ∧ (r.arch.segr 2).sel = BitVec.ofNat 16 q.ssg
            ∧ r.arch.pc = BitVec.ofNat 32 (q.entryOff / 8 * 8) ∧ r.arch.rw 62 = BitVec.ofNat 16 q.spInit
            ∧ r.arch.st = BitVec.ofNat 32 (q.level + b2n x.world * 4 + 8) ∧ d.hub.slice core = {})
        ∧ (q.open_ = true → bitN r.arch.st.toNat 3 = false ∧ bitN r.arch.st.toNat 2 = x.world
            ∧ tget 0 r.arch.creg 0x46 = BitVec.ofNat 32 q.asid)
        ∧ (q.open_ = true → sv.have_ = true → sv.fresh = false → (c.pipe pi).far = [] →
            c.areaWords core q.area areaState = archWords sv.arch → let a := sv.arch
            r.arch.w = a.w ∧ r.arch.v = a.v ∧ r.arch.a = a.a ∧ r.arch.lk = a.lk ∧ r.arch.fl = a.fl ∧ r.arch.ct = a.ct
            ∧ r.arch.pc = a.pc ∧ r.arch.seg = a.seg ∧ r.arch.edesc = a.edesc ∧ r.arch.br = a.br ∧ r.arch.rep = a.rep
            ∧ r.arch.hold = a.hold ∧ (∀ n, n ≠ 0x46 → tget 0 r.arch.creg n = tget 0 a.creg n)
            ∧ d.hub.slice core = c.savedSlice core w.ctx q.area))

/-- R28, R55, R56, R57, R193: at the closing instant a timed window that still runs overruns, and one that took a fault before
is recorded with it; one that has ended is feathered without a record; an open window at a boundary is saved and feathered, one
that is not runs on, and one that stays off a boundary past BOUND is recorded, abandoned and damaged. The model's choices it
rests on: log entries 28, 97. -/
def Obligations.WindowsClose : Prop :=
  ∀ (s : State) (core : Fin 64) (e : Env), s.chip.Alone core e →
    let c := s.chip
    let pg := 0x010 + core.val / 8
    let off := 0x200 + 8 * c.fld pg 0x106 3 0
    let at_ := c.granuleAt e.x.closeAt
    let word := core.val + e.x.win % 2 ^ 12 * 2 ^ 6 + e.x.ctx % 2 ^ 8 * 2 ^ 18
    (e.x.open_ = false → e.p.run = .run → Completes (.closingInstant core) s (fun d => d.Feathered e.pi
        ∧ (d.live pg off = word ∨ d.live pg off = word + 2 ^ 26)
        ∧ (e.p.far = [] → d.live pg off = word ∧ (e.p.stores = [] → c.Overran d core e.x 0 0 0 at_))))
    ∧ (∀ code pc, e.x.open_ = false → e.p.run = .faulted code pc → Completes (.closingInstant core) s (fun d => d.Feathered e.pi
        ∧ d.live pg off = word + 2 ^ 26 ∧ (e.p.stores = [] → c.Overran d core e.x 1 code pc at_)))
    ∧ (e.x.open_ = false → e.p.run = .ended → Completes (.closingInstant core) s (fun d => d.Feathered e.pi
        ∧ d.live pg off = c.live pg off))
    ∧ (e.x.open_ = true → (e.p.run = .run ∧ e.p.atBoundary = true ∨ e.p.run = .ended) →
      Completes (.closingInstant core) s (fun d => d.Feathered e.pi ∧ (d.savedCtx core e.x.ctx).have_ = true
        ∧ (d.savedCtx core e.x.ctx).damaged = (c.savedCtx core e.x.ctx).damaged
        ∧ (e.p.fly = [] → e.p.stores = [] → (d.savedCtx core e.x.ctx).arch = e.a.stopped)))
    ∧ (e.x.open_ = true → e.p.run = .run → e.p.atBoundary = false → Completes (.closingInstant core) s (fun d =>
        d.pipe e.pi = { e.p.dropFab with closing := true } ∧ d.now = Nat.max c.now at_ ∧ d.mem = c.mem))
    ∧ (e.x.open_ = true → e.p.run = .run → e.p.atBoundary = false → e.p.closing = true →
        Completes (.nistall core) s (fun d => d.Feathered e.pi ∧ (d.savedCtx core e.x.ctx).damaged = true
          ∧ (d.savedCtx core e.x.ctx).have_ = true ∧ c.Overran d core e.x 2 0 0 (c.granuleAt (e.x.closeAt + e.x.bound))))

/-- R48, R50: what the plan commands leave in the inactive bank. The model's choices it rests on: log entries 30, 36, 38. -/
def Obligations.PlanCommandsMoveTheBank : Prop :=
  ∀ (s : State) (q : Req) (slot : Nat),
    let c := s.chip
    (∀ addr len, let ops := toWords 4 addr.toNat ++ toWords 2 len.toNat
      let a := c.accepted q slot 0x0010 ops
      let ws := toWords len.toNat (a.physRead (a.partyKey (some q.party.val)) addr.toNat len.toNat)
      c.Authorized q 0x0010 ops installer slot → a.altSt ≠ .loading → a.altSt ≠ .armed → len.toNat ≠ 0 →
      a.populated addr.toNat len.toNat = true → pairOf ws 8 = len.toNat →
      Completes (.planLoad q addr len) s (fun d => d.altBank = (a.admitPlan ws false).1))
    ∧ (∀ t p, let a := c.accepted q slot 0x0011 (toWords 4 t.toNat)
      c.Authorized q 0x0011 (toWords 4 t.toNat) installer slot → a.altBank.st = .admitted → a.altBank.plan = some p →
      (a.hand.any fun h => !h.done) = false → a.armFault t.toNat p.epoch (p.stroke * 1000) p.paired = none →
      Completes (.planArm q t) s (fun d => d.altBank = { c.altBank with st := .armed } ∧ d.armedAt = some t.toNat))
    ∧ (c.Authorized q 0x0012 [] installer slot → c.altSt = .armed → c.committed = false →
      Completes (.planDisarm q) s (fun d => d.altBank = { c.altBank with st := .admitted } ∧ d.armedAt = none))
    ∧ (c.Authorized q 0x0013 [] installer slot → c.altSt ≠ .armed → c.altSt ≠ .loading →
      Completes (.planDiscard q) s (fun d => d.altBank = {}))

/-! ### Eights (chapter "Eights, Lockstep and Spare Cores") -/

/-- R238, R253, R259, R261, R263, R264, R266: clearing of ways ends, eights power up with cleared arrays and down, a self-test
ends; an aging sample shows the margin and the lowest one. In swing the cycles of two twins end together where the checker
finds no difference, and a lockstep mismatch, found or reported, stops both pipelines. The model's choices it rests on: log
entries 11, 25, 39, 84. -/
def Obligations.EightsPowerClearAndWatch : Prop :=
  (∀ (s : State) (e : Fin 8),
     let c := s.chip
     let x := c.eight e
     (∀ way : Fin 16, x.clrL2.getLsbD way = true → Completes (.clearingComplete (.l2 e way)) s (fun d =>
         (d.eight e).clrL2 = x.clrL2 &&& ~~~(BitVec.ofNat 16 (2 ^ way.val))))
     ∧ (∀ (core : Fin 64) (code : Bool) (way : Fin 4), let b := way.val + (if code then 0 else 4)
         (tget 0 (c.eight (core / 8)).clrL1 (core % 8)).testBit b = true →
         Completes (.clearingComplete (.l1 core code way)) s (fun d =>
           (tget 0 (d.eight (core / 8)).clrL1 (core % 8)).testBit b = false))
     ∧ (x.pwr = .down → x.clrL2 = 0 → x.clrL1 = [] → Completes (.eightPowerDown e) s (fun d =>
         d = { c.setEight e { x with pwr := .gated } with trace := d.trace }))
     ∧ (x.pwr = .up → Completes (.eightPowerUpComplete e) s (fun d => (d.eight e).pwr = .on ∧ (d.eight e).l2 = {}
         ∧ (∀ a, let lo := 2 * (tightBase + 9 * e.val * 0x1_0000)
             readByte d.mem a = if lo ≤ a ∧ a < lo + 2 * 9 * 0x1_0000 then 0 else readByte c.mem a)
         ∧ (∀ k, 9 * e.val ≤ k → k < 9 * e.val + 9 → d.arr k = {})))
     ∧ (∀ (pi : Fin 72) (pass : Bool), tget .service (c.eight (pi / 9)).pst (pi % 9) = .test →
         Completes (.coreSelfTestComplete pi pass) s (fun d =>
           tget .service (d.eight (pi / 9)).pst (pi % 9) = (if pass then .spare else .retired)
           ∧ (pass = false → pi.val ∈ d.power.retired))))
  ∧ (∀ s : State,
     let c := s.chip
     (∀ (pi : Fin 72) (m : BitVec 10), (c.eight (pi / 9)).pwr = .on → Completes (.agingSample pi m) s (fun d =>
         d.fld (0x020 + pi) 0x102 9 0 = m.toNat
         ∧ d.fld (0x020 + pi) 0x102 19 10 = Nat.min m.toNat (c.fld (0x020 + pi) 0x102 19 10)
         ∧ (m.toNat < c.fld (0x020 + pi) 0x020 9 0 → d.fld (0x020 + pi) 0x102 20 20 = 1)))
     ∧ (∀ (core : Fin 64) (kind : Fin 5) (item : Pair) (v : Env) (pj : Nat), c.env? core = some v →
         c.inSwing (core / 8) = true → core.val / 8 % 2 = 0 → c.pipeOf (core + 8) = some pj →
         Completes (.lockstepMismatch core kind item) s (fun d => (d.pipe v.pi).run = .mismatched
           ∧ (d.pipe pj).run = .mismatched
           ∧ (c.hub.ena.testBit (eightSrc (core / 8) 1) = true → d.hub.pend.testBit (eightSrc (core / 8) 1) = true)))
     ∧ (∀ (core : Fin 64) (v : Env) (pj : Nat), c.env? core = some v → c.inSwing (core / 8) = true → core.val / 8 % 2 = 0 →
         c.pipeOf (core + 8) = some pj → v.pi / 9 = core.val / 8 → pj / 9 = core.val / 8 + 1 →
         let c1 := c.endCycle core
         let c2 := c.endCycle (core + 8)
         (c.twinDiff c1 c2 core v.pi pj = none → Completes (.resultLanding core) s (fun d =>
           d.pipe v.pi = c1.pipe v.pi ∧ d.pipe pj = c2.pipe pj ∧ d.now = c1.now))
         ∧ (∀ k, c.twinDiff c1 c2 core v.pi pj = some k → Completes (.resultLanding core) s (fun d =>
           (d.pipe v.pi).run = .mismatched ∧ (d.pipe pj).run = .mismatched)))
     ∧ (∀ core : Fin 64, c.inSwing (core / 8) = true → core.val / 8 % 2 = 1 →
         Completes (.resultLanding core) s (fun d => d = c)))

/-- R260, R268: the core commands, and the end of an array copy. The model's choices it rests on: log entry 40. -/
def Obligations.CoreCommandsAct : Prop :=
  ∀ (s : State) (q : Req) (slot : Nat),
    let c := s.chip
    (∀ (core : Fin 64) (dest : Nat), c.Authorized q 0x0022 [BitVec.ofNat 16 core] installer slot →
        (c.eight (core / 8)).move = none → (c.eight (core / 8)).spareArr = some dest →
        Completes (.arrayMove q core) s (fun d => (d.eight (core / 8)).move = some ⟨core, dest, false⟩))
    ∧ (∀ (e : Fin 8) (mv : ArrMove), (c.eight e).move = some mv → mv.done = false →
        Completes (.arrayCopyComplete e) s (fun d => (d.eight e).move = some { mv with done := true }
          ∧ (memWf c.mem = true → ∀ i, i < 0x2_0000 →
              readByte d.mem (2 * (tightBase + (9 * e.val + mv.dest) * 0x1_0000) + i)
                = readByte c.mem (2 * c.tmAddr mv.core 0 + i))))
    ∧ (∀ core : Fin 64, c.Authorized q 0x0020 [BitVec.ofNat 16 core] installer slot →
        (c.eight (core / 8)).spare?.isSome = true → c.opOf 0x0020 core = none →
        Completes (.coreSubst q core) s (fun d =>
          (d.eight (core / 8)).trig = (c.eight (core / 8)).trig ++ [⟨4, core, c.now, false⟩] ∧ (d.opOf 0x0020 core).isSome = true))
    ∧ (∀ pi : Fin 72, c.Authorized q 0x0021 [BitVec.ofNat 16 pi] installer slot →
        (tget .service (c.eight (pi / 9)).pst (pi % 9) = .spare ∨ tget .service (c.eight (pi / 9)).pst (pi % 9) = .retired) →
        Completes (.coreTest q pi) s (fun d => tget .service (d.eight (pi / 9)).pst (pi % 9) = .test))

/-! ### The event hub (chapter "The Event Hub") -/

/-- R272, R276, R278, R279, R281: an occurrence sets PEND while ENA is set; an evaluation drives the line of a target; an
acknowledge takes the best candidate and an end of interrupt ends it. The model's choices it rests on: log entries 16, 45. -/
def Obligations.HubDeliversSources : Prop :=
  ∀ s : State,
    let c := s.chip
    (∀ src : Fin 0x32F, Completes (.eventOccurrence src) s (fun d =>
        d.hub.pend.testBit src = (c.hub.pend.testBit src || (c.hub.ena.testBit src && !srcReserved src))
        ∧ (∀ i, i ≠ src.val → d.hub.pend.testBit i = c.hub.pend.testBit i)
        ∧ d = { c with hub := { c.hub with pend := d.hub.pend } }))
    ∧ (c.hub.ntDue = [] → Completes .hubEvaluation s (fun d => ∀ t, t < 65 →
        (d.hub.slice t).line = (!(c.cands t).isEmpty && c.modRelease t (c.cands t) (c.hub.slice t))))
    ∧ (∀ t : Fin 128, (c.hub.slice t).timer.isSome = true → Completes (.moderationTimerExpiry t) s (fun d =>
        (d.hub.slice t).released = true ∧ (d.hub.slice t).line = !(c.cands t).isEmpty))
    ∧ (∀ (u : Fin 67) (r : Requester) (src : Nat), u.val ≤ 64 → c.Reaches u 0x070 0x100 r → c.bestCand u = some src →
        (c.hub.slice u).stack.length < 32 → Completes (.iack u) s (fun d => d.reply = src + (c.srcCfg src).pri * 2 ^ 10
          ∧ (d.hub.slice u).stack = ⟨src, (c.srcCfg src).pri, false⟩ :: (c.hub.slice u).stack
          ∧ d.hub.pend.testBit src = false ∧ d.hub.act.testBit src = true))
    ∧ (∀ (u : Fin 67) (r : Requester) (x : Pair) (t : StackE) (rest : List StackE), u.val ≤ 64 →
        c.Reaches u 0x070 0x102 r → bits x.toNat 9 0 = t.id → t.id ≠ 0x3FF → (c.hub.slice u).stack = t :: rest →
        t.stale = false →
        Completes (.ieoi u x) s (fun d => (d.hub.slice u).stack = rest ∧ d.hub.act.testBit t.id = false))

/-- R282, R283, R285, R287: the owner of a source configures it, raises a software source of its own and writes its groups; for
another source CFGW and SWSET only set NOTOWN. The model's choices it rests on: log entry 15. -/
def Obligations.OwnersConfigureSources : Prop :=
  ∀ (s : State) (u : Fin 67) (r : Requester) (x : Pair), u.val ≤ 64 →
    let c := s.chip
    let src := bits x.toNat 9 0
    (c.Reaches u 0x070 0x10E r → c.ownsSrc r src = true →
      (∀ t, t = bits x.toNat 24 18 ∨ t = bits x.toNat 31 25 → partyTarget t = true ∨ (u.val = 64 ∧ t = 64)) →
      Completes (.cfgw u x) s (fun d => d = { c with hub := { c.hub with cfg := d.hub.cfg } }
        ∧ tget {} d.hub.cfg src = ⟨bits x.toNat 17 10, bits x.toNat 24 18, bits x.toNat 31 25⟩
        ∧ (∀ k, k ≠ src → tget {} d.hub.cfg k = tget {} c.hub.cfg k)))
    ∧ (c.Reaches u 0x070 0x10E r → c.ownsSrc r src = false → Completes (.cfgw u x) s (fun d =>
        d = { c with hub := { c.hub with pstat := d.hub.pstat } } ∧ (d.hub.pst u).testBit 0 = true))
    ∧ (c.Reaches u 0x070 0x10C r → src < 0x080 → c.ownsSrc r src = true → Completes (.swset u x) s (fun d =>
        ∀ i, d.hub.pend.testBit i = (c.hub.pend.testBit i || (decide (i = src) && c.hub.ena.testBit i))))
    ∧ (c.Reaches u 0x070 0x10C r → (0x080 ≤ src ∨ c.ownsSrc r src = false) → Completes (.swset u x) s (fun d =>
        d.hub.pend = c.hub.pend ∧ (d.hub.pst u).testBit 0 = true))
    ∧ (∀ g : GroupAt, c.Reaches u g.page g.off r → Completes (.groupWrite u g x) s (fun d =>
        (∀ i, (d.hub.group g.kind).testBit i
          = if i ∈ c.groupBits r g.all g.g then x.toNat.testBit (i - 32 * g.g) else (c.hub.group g.kind).testBit i)
        ∧ (∀ k, k ≠ g.kind → d.hub.group k = c.hub.group k)))

/-! ### Rings and lanes (chapter "Rings, Seats and Lanes") -/

/-- R289, R290, R297, R300, R301, R302, R303: a flit goes into its seat or a free slot, or waits; of best-effort flits that
wait, management goes before requests; a flit enters its destination's buffer, poisoned where its data is uncorrectable, or is
refused, and its mark releases it or returns it before the later flits of its sequence; a response that does not come is
logged, ends a fetch that waits for it as IFBUS, and all its flits are discarded if they still come. The model's choices it
rests on: log entries 21, 90. -/
def Obligations.RingsCarryFlits : Prop :=
  ∀ (s : State) (ring : Fin 4),
    let c := s.chip
    (∀ (src : Fin 21) (t : Quad) (f : Flight), c.flightOf ring src t.toNat = some f →
      let at_ := f.t + 2 * f.hops + 4
      let k := inKey ring f.flit.dst f.flit.vn
      let held := heldInbound (tget [] c.rings.inbound k) at_
      let key := (f.flit.dst, f.flit.src, f.flit.tag)
      let room := f.flit.guar = true ∨ (held.length + 9 ≤ 16 ∧ tget 0 c.rings.seqs (seqKey f.flit) = f.flit.seq)
      let mark := fun b => c.rings.flights.map (fun q => if q = f then { f with taken := some b } else q)
      (f.taken = none → room → (f.flit.vn ≠ 1 ∨ key ∉ c.rings.late) →
        Completes (.flitArrival ring src t .none) s (fun d => tget [] d.rings.inbound k = enqueue held at_ f.flit
          ∧ d.rings.flights = mark true)
        ∧ (∀ a, Completes (.flitArrival ring src t (.data (.other a))) s (fun d =>
          tget [] d.rings.inbound k = enqueue held at_ { f.flit with poison := true }
          ∧ d.rings.flights = mark true ∧ c.Raises d (0x31C + f.ring)))
        ∧ (∀ (a : Agent) (w : BitVec 36), f.flit.vn = 0 → c.inQdr (w.toNat / 8 * 8) = true →
          Completes (.flitArrival ring src t (.data (.other a) (some w))) s (fun d => d.mem = c.mem
            ∧ d.quadErr (w.toNat / 8 * 2) = true ∧ d.quadErr (w.toNat / 8 * 2 + 1) = true)))
      ∧ (f.taken = none → room → f.flit.vn = 1 → key ∈ c.rings.late →
        Completes (.flitArrival ring src t .none) s (fun d => d.rings.inbound = c.rings.inbound
          ∧ d.rings.flights = mark true ∧ d.rings.late = c.rings.late))
      ∧ (f.taken = none → f.flit.guar = false → (8 ≤ held.length ∨ tget 0 c.rings.seqs (seqKey f.flit) ≠ f.flit.seq) →
        Completes (.flitArrival ring src t .none) s (fun d => d.rings.inbound = c.rings.inbound ∧ d.rings.flights = mark false))
      ∧ (f.taken = none → Completes (.flitArrival ring src t .header) s (fun d => d.rings.inbound = c.rings.inbound
          ∧ d.rings.flights = mark true ∧ c.Raises d (0x31C + f.ring)))
      ∧ (f.taken = some true → Completes (.acceptanceMark ring src t) s (fun d => d.rings.resend = c.rings.resend
          ∧ d.rings.flights = c.rings.flights.filter (fun q => decide (q ≠ f))))
      ∧ (f.taken = some false → Completes (.acceptanceMark ring src t) s (fun d =>
          d.rings.resend = putBack (ring.val, f.flit) c.rings.resend
          ∧ d.rings.flights = c.rings.flights.filter (fun q => decide (q ≠ f)))))
    ∧ (∀ (stop : Fin 21) (dt : BitVec 32), c.rings.resend = [] →
      let t := c.catchAt + dt.toNat
      let free := (c.rings.flights.any fun q => q.atStop ring stop t) = false
      let flies := fun (f : Flit) (d : Chip) =>
        d.rings.flights = c.rings.flights ++ [⟨ring, t, hopCount ring stop f.dst, f, none⟩]
      let open_ := fun f : Flit => c.retained ring stop f.vn < 46 ∧ c.hitsSeat ring stop t (hopCount ring stop f.dst) = false
      (∀ a : FlitArg, a.legal = true → a.agent.stop = stop → c.rings.waiting = [] → free →
        let f := c.flitOf a
        c.routeOf f = ring →
        (∀ seat, f.guar = true → c.seatAt ring t = some seat → seat.src = f.src → seat.party = f.party → seat.dst = f.dst →
            seat.vn = f.vn → c.seatsOpen t = true → c.retained ring stop f.vn < 46 →
          Completes (.flitPlacement ring dt ⟨stop, some a⟩) s (fun d => flies f d ∧ d.rings.waiting = []))
        ∧ (f.guar = true → c.seatAt ring t = none → Completes (.flitPlacement ring dt ⟨stop, some a⟩) s (fun d =>
            d.rings.flights = c.rings.flights ∧ d.rings.waiting = [(ring.val, f)]))
        ∧ (f.guar = false → open_ f → Completes (.flitPlacement ring dt ⟨stop, some a⟩) s (fun d =>
            flies f d ∧ d.rings.waiting = [])))
      ∧ (∀ f g : Flit, c.rings.waiting = [(ring.val, g), (ring.val, f)] → free → f.guar = false → g.guar = false →
          f.src = stop → g.src = stop → f.vn = 3 → g.vn = 0 → open_ f →
          Completes (.flitPlacement ring dt ⟨stop, none⟩) s (fun d => flies f d ∧ d.rings.waiting = [(ring.val, g)])))
    ∧ (∀ (o : TimeoutArg) (a : Agent), o.who = .other a → c.fld (0x080 + o.ring) 0x104 20 20 = 0 →
        Completes (.responseTimeout o) s (fun d => d.live (0x080 + o.ring) 0x104
            = a.stop + o.dst * 2 ^ 5 + o.who.vn * 2 ^ 10 + o.party * 2 ^ 12 + 2 ^ 19 + 2 ^ 20
          ∧ d = { c.setLive (0x080 + o.ring) 0x104 (d.live (0x080 + o.ring) 0x104) with
                  rings := { c.rings with late := c.rings.late ++ [(a.stop, o.dst.val, o.tag.toNat)] } }))
    ∧ (∀ (o : TimeoutArg) (core : Fin 64) (n : Word) (e : Env) (line off : Nat), o.who = .core core n → c.Alone core e →
        e.p.stall = some (.ifetch line off) → e.x.open_ = true → e.a.crab = false →
        Completes (.responseTimeout o) s (fun d => (d.pipe e.pi).stall = none
          ∧ (d.pipe e.pi).pend = some (fetchRaise .ifbus off)))

/-- R305, R306, R307, R309, R312: EN starts a lane with its configuration and stops it, which ends a copy in progress with
ABORT; the doorbell hands descriptors over or puts the lane in ERROR; LNRD names the lowest notified lane of the reader and
clears its NOTE. The model's choices it rests on: log entries 15, 16, 22. -/
def Obligations.LaneRegistersAct : Prop :=
  ∀ (s : State) (u : Fin 67) (l : Fin 8192) (x : Pair) (r : Requester),
    let c := s.chip
    let n := c.ln l
    let pg := 0x100 + l.val / 256
    let off := l.val % 256 * 8
    (c.Reaches u pg (off + 6) r → bitN x.toNat 0 = true → n.st = .stopped → bitN n.link 10 = false →
      c.ownsRange (c.laneOwner l) (bits n.cfg 23 0 * 4096) (2 ^ laneLog n.cfg * 8) = true → c.lanePinned l = false →
      Completes (.lstatWrite u l x) s (fun d => d = c.setLn l { n with
        en := true, st := .run, aCfg := n.cfg, aLink := n.link, err := 0
        wign := n.wign && !bitN x.toNat 7 }))
    ∧ (c.Reaches u pg (off + 6) r → bitN x.toNat 0 = false → (∀ k ∈ c.lane.copies, k.a ≠ l.val ∧ k.b ≠ l.val) →
        Completes (.lstatWrite u l x) s (fun d =>
          d = c.setLn l { n with en := false, st := .stopped, pin := none, wign := n.wign && !bitN x.toNat 7 }))
    ∧ (∀ k : Copying, c.Reaches u pg (off + 6) r → bitN x.toNat 0 = false → c.lane.copies = [k] → k.a = l.val → k.b ≠ l.val →
        let m := c.ln k.b
        let sd := n.descAt n.cidx
        let rd := m.descAt m.cidx
        n.st = .run → m.st = .run → c.ownsRange (c.laneOwner l) sd 8 = true →
        (c.ownsRange (c.laneOwner k.b) rd 8 = false → Completes (.lstatWrite u l x) s (fun d => d.lane.copies = []
          ∧ (d.ln l).st = .stopped ∧ (d.ln l).cidx = (n.cidx + 1) % 2 ^ 16 ∧ (d.ln k.b).st = .error ∧ (d.ln k.b).err = 1
          ∧ c.Raises d 0x329))
        ∧ (c.ownsRange (c.laneOwner k.b) rd 8 = true → Completes (.lstatWrite u l x) s (fun d =>
          d.lane.copies = [] ∧ (d.ln l).st = .stopped
          ∧ (d.ln l).cidx = (n.cidx + 1) % 2 ^ 16 ∧ (d.ln k.b).cidx = (m.cidx + 1) % 2 ^ 16
          ∧ (sd + 8 ≤ qdrEnd → rd + 8 ≤ qdrEnd → (sd + 8 ≤ rd ∨ rd + 8 ≤ sd) →
            readN d.mem (sd + 6) 2 = (11 + k.done * 2 ^ 16) % 2 ^ 32
            ∧ readN d.mem (rd + 6) 2 = (11 + k.done * 2 ^ 16) % 2 ^ 32))))
    ∧ (c.Reaches u pg (off + 4) r → n.st ≠ .error →
      let p := { n with pidx := x.toNat % 2 ^ 16 }
      (p.waiting ≤ 2 ^ laneLog n.acting → (c.laneBound l = true ∨ c.lanePinned l = true) →
        Completes (.doorbell u l x) s (fun d => d = c.setLn l p))
      ∧ (2 ^ laneLog n.acting < p.waiting → Completes (.doorbell u l x) s (fun d =>
          (d.ln l).st = .error ∧ (d.ln l).err = 3 ∧ c.Raises d 0x329))
      ∧ (p.waiting ≤ 2 ^ laneLog n.acting → c.laneBound l = false → c.lanePinned l = false →
        Completes (.doorbell u l x) s (fun d => (d.ln l).st = .error ∧ (d.ln l).err = 4 ∧ c.Raises d 0x329)))
    ∧ (u.val ≤ 64 → c.Reaches u 0x090 0x182 r →
      let mine := fun q : Nat × Lane => q.2.note && c.laneOwner q.1 == r.party && bits q.2.aLink 9 0 == bits (c.lnsel r) 9 0
      (∀ q, c.lane.lanes.find? mine = some q → Completes (.lnrd u) s (fun d =>
        d.reply = q.1 + 2 ^ 31 ∧ (d.ln q.1).note = false ∧ (∀ k, k ≠ q.1 → d.ln k = c.ln k)))
      ∧ (c.lane.lanes.find? mine = none → Completes (.lnrd u) s (fun d => d = { c with reply := 0 })))

/-- R302, R308, R309: the engine copies the words of the sender's descriptor into the receiver's, of the shorter length and at
most 1,024 words a step; with the last it writes both statuses and the tag, and advances both rings; in QDR every other byte
stays. The model's choices it rests on: log entry 22. -/
def Obligations.MessagesAreCopied : Prop :=
  ∀ (s : State) (l : Fin 8192) (q : ConnE),
    let c := s.chip
    let a := c.ln l
    let b := c.ln q.b
    let sd := a.descAt a.cidx
    let rd := b.descAt b.cidx
    let ds := c.laneDesc l a.cidx
    let dr := c.laneDesc q.b b.cidx
    let n := Nat.min (descLen ds) (descLen dr)
    let st := if descLen dr < descLen ds then 1 else 0
    (c.conns.any fun k => k.kind == 3 && k.a == l.val) = false →
    c.conns.find? (fun k => k.kind == 0 && k.a == l.val) = some q → q.b ≠ l → a.st = .run → b.st = .run → a.waiting ≠ 0 →
    b.waiting ≠ 0 → c.copyOf l = none → c.unitFree = true → c.descFault l = none → c.descFault q.b = none →
    descReserved ds = false → descReserved dr = false →
    n ≠ 0 → c.ownsRange (c.laneOwner l) (descAddrOf ds) n = true → c.ownsRange (c.laneOwner q.b) (descAddrOf dr) n = true →
    c.physErr (descAddrOf ds) (Nat.min 1024 n) = false →
      (n ≤ 1024 → Completes (.messageCopy l) s (fun d =>
        (d.ln l).cidx = (a.cidx + 1) % 2 ^ 16 ∧ (d.ln q.b).cidx = (b.cidx + 1) % 2 ^ 16 ∧ d.copyOf l = none
        ∧ (descEvt ds = true → bitN a.aLink 10 = true → (d.ln l).note = true)
        ∧ (descAddrOf ds + n ≤ qdrEnd → descAddrOf dr + n ≤ qdrEnd → sd + 8 ≤ qdrEnd → rd + 8 ≤ qdrEnd →
          (sd + 8 ≤ rd ∨ rd + 8 ≤ sd) → (sd + 8 ≤ descAddrOf dr ∨ descAddrOf dr + n ≤ sd) →
          (rd + 8 ≤ descAddrOf dr ∨ descAddrOf dr + n ≤ rd) →
          readN d.mem (descAddrOf dr) n = readN c.mem (descAddrOf ds) n
          ∧ readN d.mem (sd + 6) 2 = 1 + st * 2 + n * 2 ^ 16 ∧ readN d.mem (rd + 6) 2 = 1 + st * 2 + n * 2 ^ 16
          ∧ (readW d.mem (rd + 5)).toNat = descTag ds
          ∧ (∀ k, (k < 2 * descAddrOf dr ∨ 2 * (descAddrOf dr + n) ≤ k) → (k < 2 * (sd + 6) ∨ 2 * (sd + 8) ≤ k) →
              (k < 2 * (rd + 5) ∨ 2 * (rd + 8) ≤ k) → readByte d.mem k = readByte c.mem k))))
      ∧ (1024 < n → c.unlisted (descAddrOf ds) n = false → c.unlisted (descAddrOf dr) n = false →
        Completes (.messageCopy l) s (fun d =>
        d.copyOf l = some ⟨l, q.b, ds, dr, 1024⟩ ∧ d.lane.lanes = c.lane.lanes
        ∧ (descAddrOf ds + n ≤ qdrEnd → descAddrOf dr + n ≤ qdrEnd →
          readN d.mem (descAddrOf dr) 1024 = readN c.mem (descAddrOf ds) 1024 ∧ c.KeepsBut d (descAddrOf dr) 1024)))

/-- R310, R313, R315 to R317: pinned lanes move one oct at a step, outbound ones at a step that a closing instant made due; a
pinned address outside the party's memory puts the lane in ERROR; a submission gets a handle and is passed on; a completion
record is written at CIDX, and its handle is free again. The model's choices it rests on: log entry 69. -/
def Obligations.PinnedAndCommandLanesAct : Prop :=
  ∀ (s : State) (l : Fin 8192),
    let c := s.chip
    let n := c.ln l
    let key := c.partyKey (c.laneOwner l)
    let at_ := n.descAt n.cidx
    let owns := fun p : Oct => c.ownsRange (c.laneOwner l) (descAddrOf p) 8
    let missed := fun d : Chip =>
      d.mem = c.mem ∧ d.fld 0x090 0x104 31 0 = Nat.min (2 ^ 32 - 1) (c.fld 0x090 0x104 31 0 + 1) ∧ c.Raises d 0x329
    (∀ (o : Oct) (rest : List (Nat × Oct)), takeHanded l c.lane.inq = some (o, rest) →
      (∀ p, n.st = .run → n.pin = some p → owns p = true → descAddrOf p + 8 ≤ qdrEnd →
        Completes (.pinnedInboundStep l) s (fun d =>
          d.lane.inq = rest ∧ readN d.mem (descAddrOf p) 8 = o.toNat ∧ c.KeepsBut d (descAddrOf p) 8))
      ∧ (∀ p, n.st = .run → n.pin = some p → owns p = false → Completes (.pinnedInboundStep l) s (fun d =>
          d.lane.inq = rest ∧ d.mem = c.mem ∧ (d.ln l).st = .error ∧ (d.ln l).err = 1 ∧ c.Raises d 0x329))
      ∧ ((n.st ≠ .run ∨ n.pin = none) → Completes (.pinnedInboundStep l) s (fun d => d.lane.inq = rest ∧ missed d)))
    ∧ (c.lane.due.contains l.val = true →
      let due := dropFirst (· == l.val) c.lane.due
      (∀ (p : Oct) (q : ConnE), n.st = .run → n.pin = some p → owns p = true → c.physErr (descAddrOf p) 8 = false →
        c.conns.find? (fun k => k.kind == 3 && k.a == l.val && k.dir == 1) = some q → q.port < 32 →
        c.portGated (fpPage q.port) = false → Completes (.pinnedOutboundStep l) s (fun d =>
          let f := c.fport q.port
          d = { c.setFport q.port { f with
                  outs := tset none f.outs l (some (BitVec.ofNat 128 (c.physRead key (descAddrOf p) 8)))
                  outNew := f.outNew.filter (· != l.val) ++ [l.val] } with lane := { c.lane with due := due } }))
      ∧ ((n.st ≠ .run ∨ n.pin = none) → Completes (.pinnedOutboundStep l) s (fun d => d.lane.due = due ∧ missed d)))
    ∧ (c.lane.due.contains l.val = false → Completes (.pinnedOutboundStep l) s (fun d => d = c))
    ∧ (∀ (q : ConnE) (party v : Nat) (h : Handles), c.conns.find? (fun k => k.kind == 1 && k.a == l.val) = some q →
        c.laneOwner l = some party → n.st = .run → n.waiting ≠ 0 → c.unitFree = true → c.descFault l = none →
        (c.ln q.b).st = .run → (c.handles party).alloc = some (h, v) → Completes (.commandSubmission l) s (fun d =>
          let o := c.laneDesc l n.cidx
          (d.ln l).cidx = (n.cidx + 1) % 2 ^ 16 ∧ d.handles party = h ∧ c.Raises d 0x32D
          ∧ d.lane.mail = c.lane.mail ++ [⟨party, q.b, v, bits o.toNat 15 0, descAddrOf o⟩]
          ∧ (at_ + 8 ≤ qdrEnd → readN d.mem (at_ + 6) 2 = (1 + v * 2 ^ 16) % 2 ^ 32 ∧ c.KeepsBut d (at_ + 6) 2)))
    ∧ (∀ r : Rec, c.lane.recs.find? (fun k => k.lane == l.val) = some r → n.st = .run → n.waiting ≠ 0 →
        c.ownsRange (c.laneOwner l) at_ 8 = true →
        Completes (.completionRecord l) s (fun d => (d.ln l).cidx = (n.cidx + 1) % 2 ^ 16
          ∧ ((c.handles r.party).handleAt (r.handle % 4096) = r.handle →
              (d.handles r.party).out.contains (r.handle % 4096) = false)
          ∧ ((c.handles r.party).handleAt (r.handle % 4096) ≠ r.handle → d.handles r.party = c.handles r.party)
          ∧ (bitN n.aLink 10 = true → (d.ln l).note = true)
          ∧ (at_ + 8 ≤ qdrEnd → readN d.mem at_ 8 = ofWords r.words8 ∧ c.KeepsBut d at_ 8)))

/-! ### External memory (chapter "QDR Main Memory and LPDDR Bulk Memory") -/

/-- R322, R323, R327, R360: a channel that is LIVE performs an accepted request: a read answers the words, a write puts them
and clears poison, CASP exchanges a pair that compares, and an uncorrectable quad is poisoned and answers nothing. The model's
choices it rests on: log entries 11, 29. -/
def Obligations.QdrRequestsArePerformed : Prop :=
  ∀ (s : State) (r : QdrReq),
    let c := s.chip
    let n := if r.oct then 8 else 4
    let a := r.ch.val * 2 ^ 25 + (r.off.toNat - r.off.toNat % n)
    let b := r.ch.val * 2 ^ 25 + (r.off.toNat - r.off.toNat % 2)
    (c.qd r.ch).st = .live → ((c.qd r.ch).port r.party r.guar r.busyA r.busyB).isSome = true → c.armed (qdrPage r.ch) = none →
    (r.op = .read → c.inQdr a = true → r.find ≠ .bad → (r.oct = true → r.find2 ≠ .bad) → c.memErr a n = false →
      Completes (.qdrAccess r) s (fun d =>
        d.reply = readN c.mem a n ∧ d.mem = c.mem ∧ d.ext = c.ext))
    ∧ (r.op = .read → c.inQdr a = true → r.find = .bad → c.quadErr (a / 4) = false → Completes (.qdrAccess r) s (fun d =>
        d.reply = c.reply ∧ d.mem = c.mem ∧ d.quadErr (a / 4) = true ∧ c.Raises d (0x30D + 2 * r.ch)))
    ∧ (r.op = .read → c.inQdr a = true → r.oct = true → r.find = .ok → r.find2 = .bad → c.memErr a n = false →
        Completes (.qdrAccess r) s (fun d => d.reply = c.reply ∧ d.mem = c.mem ∧ d.quadErr (a / 4) = false
          ∧ d.quadErr (a / 4 + 1) = true ∧ c.Raises d (0x30D + 2 * r.ch)))
    ∧ (∀ x, r.op = .write x → c.inQdr a = true → Completes (.qdrAccess r) s (fun d =>
        readN d.mem a n = x.toNat % 2 ^ (16 * n) ∧ c.KeepsBut d a n ∧ d.memErr a n = false))
    ∧ (∀ cmp new, r.op = .casp cmp new → c.inQdr b = true → r.find ≠ .bad → c.memErr b 2 = false →
        Completes (.qdrAccess r) s (fun d => d.reply = readN c.mem b 2
          ∧ readN d.mem b 2 = (if readN c.mem b 2 = cmp.toNat then new.toNat else readN c.mem b 2)
          ∧ c.KeepsBut d b 2))

/-- R33, R323, R325, R328: a QDR window reserves its ports for its party and releases them, and no others; a recalibration
waits for 100 ms without one and for a stretch free of windows; the patrol scrub reads the next quad and counts a correction or
poisons it. The model's choices it rests on: log entry 11. -/
def Obligations.QdrChannelsKeepTime : Prop :=
  ∀ (s : State) (ch : Fin 4),
    let c := s.chip
    let q := c.qd ch
    let keeps := fun (q' : Qdr) (d : Chip) => d = { c.setQd ch q' with now := d.now, nowFrac := d.nowFrac } ∧ c.now ≤ d.now
    (∀ (i : Fin 1024) (p : Plan) (w : QwinE), c.livePlan = some p → (tget [] p.qwins ch)[i.val]? = some w →
      Completes (.qdrWindowStart ch i) s (keeps { q with
        winA := if bitN w.ports 0 then some ⟨i, w.party⟩ else q.winA
        winB := if bitN w.ports 1 then some ⟨i, w.party⟩ else q.winB }))
    ∧ (∀ i : Fin 1024, let mine := fun x : Option QdrWin => x.any (fun v => v.idx == i.val)
      ((mine q.winA || mine q.winB) = true → Completes (.qdrWindowEnd ⟨ch, i⟩) s (keeps { q with
        winA := if mine q.winA then none else q.winA
        winB := if mine q.winB then none else q.winB }))
      ∧ ((mine q.winA || mine q.winB) = false → Completes (.qdrWindowEnd ⟨ch, i⟩) s (fun d => d = c)))
    ∧ (q.idle = true → c.qdrFree ch = true → 100 ≤ c.calAge ch → Completes (.qdrRecalibration ch) s (fun d =>
        d = c.setQd ch { q with calAt := c.now } ∧ d.calAge ch = 0))
    ∧ ((q.idle = false ∨ c.qdrFree ch = false ∨ c.calAge ch < 100) → Completes (.qdrRecalibration ch) s (fun d => d = c))
    ∧ (∀ find : EccFind, q.st = .live → (q.port 64 false false false).isSome = true → c.fld (qdrPage ch) 0x022 0 0 ≠ 0 →
        c.armed (qdrPage ch) = none → c.quadErr (ch.val * 2 ^ 23 + q.patrol) = false → q.patrol < 2 ^ 23 →
        Completes (.qdrPatrolScrub ch find) s (fun d => (d.qd ch).patrol = (q.patrol + 1) % (c.qdrWords ch / 4)
          ∧ d.quadErr (ch.val * 2 ^ 23 + q.patrol) = decide (find = .bad) ∧ d.mem = c.mem
          ∧ (find = .corrected → d.fld (qdrPage ch) 0x102 15 0 = Nat.min 0xFFFF (c.fld (qdrPage ch) 0x102 15 0 + 1))))

/-- R332, R334, R337, R338: a read goes to a LIVE controller and answers the line under the key of its party's world, from the
partner where the controller freezes on an uncorrectable error, or waits in its queue; a write reaches the contents of both, or
leaves poisoned the quad it is merged with where that quad is uncorrectable, and a frozen controller counts those still sent to
it. The model's choices it rests on: log entries 6, 11, 92. -/
def Obligations.LpddrServesReadsAndWrites : Prop :=
  ∀ s : State,
    let c := s.chip
    (∀ (r : LpdRead) (k : Nat), let a := r.addr.toNat
      let line := a / 32 * 32
      let key := c.partyKey (r.party.map Fin.val)
      let agent := r.agent.code
      let clean := fun j : Nat => ∀ i, i < 8 →
        (c.lp j).isPoison (a / 32 * 8 + i) = false ∧ tget false (c.lp j).bad (a / 32 * 8 + i) = false
      c.inLpd a = true → c.lpdPick agent = some k → k < 2 → (c.lp k).st = .live → (c.lp k).reads = [] → r.differ = false →
      (r.waits = false → c.armed (lpdPage k) = none → r.find = .ok → clean k →
        Completes (.lpddrRead r) s (fun d => d.reply = c.rdN key line 32 ∧ d.mem = c.mem ∧ (d.lp k).reads = []
          ∧ tget 0 d.ext.turn agent = 1 - k))
      ∧ (∀ m : BitVec 8, r.waits = false → c.armed (lpdPage k) = none → r.find = .bad m → m ≠ 0 → r.mirror = .ok →
        (c.lp (1 - k)).st = .live → (∀ i, i < 8 → (c.lp k).isPoison (a / 32 * 8 + i) = false) → clean (1 - k) →
        Completes (.lpddrRead r) s (fun d => (d.lp k).st = .frozen ∧ (d.lp (1 - k)).st = .live
          ∧ d.reply = c.rdN key line 32 ∧ d.mem = c.mem ∧ c.Raises d (0x314 + 4 * k)))
      ∧ (r.waits = true → Completes (.lpddrRead r) s (fun d => (d.lp k).reads = [⟨c.now, r⟩] ∧ d.reply = c.reply
          ∧ d.mem = c.mem ∧ tget 0 d.ext.turn agent = 1 - k)))
    ∧ (∀ r : LpdWrite, let n := r.size.words
      let a := r.addr.toNat - r.addr.toNat % n
      let key := c.partyKey (r.party.map Fin.val)
      c.inLpd a = true → (∀ k, k < 2 → (c.lp k).takesWrite (addrChan a) = true) →
      (((c.lp 0).st = .live ∨ (c.lp 0).st = .sync ∨ (c.lp 1).st = .live ∨ (c.lp 1).st = .sync) →
        Completes (.lpddrWrite r) s (fun d => d.rdN key a n = r.data.toNat % 2 ^ (16 * n) ∧ c.KeepsBut d (a / 8 * 8) 8
          ∧ (∀ b, b < a / 8 * 8 ∨ a / 8 * 8 + 8 ≤ b → tget 0 d.ext.enc (b / 8) = tget 0 c.ext.enc (b / 8))))
      ∧ (∀ (k : Fin 2) (m : BitVec 8), n < 4 → ((c.lp k).st = .live ∨ (c.lp k).st = .sync) →
          (if k = 0 then r.find0 else r.find1) = .bad m → m.getLsbD (a / 4 % 8) = true →
        Completes (.lpddrWrite r) s (fun d => (d.lp k).isPoison (a / 4) = true))
      ∧ (∀ k : Fin 2, (c.lp k).st = .frozen → Completes (.lpddrWrite r) s (fun d =>
          d.fld (lpdPage k) 0x10C 31 0 = (if c.now < (c.lp k).frozeAt + 1000
            then Nat.min (2 ^ 32 - 1) (c.fld (lpdPage k) 0x10C 31 0 + 1) else c.fld (lpdPage k) 0x10C 31 0))))

/-- R328, R336 to R339, R341: an MR4 reading sets the refresh divisor, and its change raises an event; a refresh is made by a
controller that holds data; the scrub reads the next line; MEM_DIAG retrains a FROZEN controller and reports; MEM_REMIRROR
trains a controller that is FROZEN or DOWN, with SYNC or DOWN at its end; in SYNC the copy from the LIVE partner goes on in
ascending device lines with the partner's poison and that of the lines it finds uncorrectable, and its end makes the controller
LIVE. The model's choices it rests on: log entries 11, 93. -/
def Obligations.LpddrKeepsAndRepairsItsContents : Prop :=
  (∀ (s : State) (k : Fin 2),
     let c := s.chip
     let pg := lpdPage k
     (∀ code : Fin 8, let m := if code.val ≤ 3 then 0 else if code.val = 4 then 1 else 2
       Completes (.mr4Reading k code) s (fun d => d.fld pg 0x100 9 7 = code ∧ d.fld pg 0x100 6 5 = m
         ∧ (c.fld pg 0x100 6 5 ≠ m → c.Raises d (0x316 + 4 * k))))
     ∧ (∀ (chan : Fin 4) (rank : Fin 2) (bank : Fin 8), ((c.lp k).st = .live ∨ (c.lp k).st = .frozen ∨ (c.lp k).st = .sync) →
         Completes (.lpddrRefresh k chan rank bank) s (fun d =>
           d = c.setLp k { c.lp k with refAt := tset 0 (c.lp k).refAt ((chan.val * 2 + rank) * 8 + bank) c.now }))
     ∧ (∀ find : LpdFind, (c.lp k).st = .live → c.fld pg 0x028 3 3 ≠ 0 → c.armed pg = none → (c.lp (1 - k)).st ≠ .live →
         Completes (.lpddrPatrolScrub k find) s (fun d => (d.lp k).patrol = ((c.lp k).patrol + 1) % c.lpdLines
           ∧ (d.lp k).st = .live ∧ d.mem = c.mem
           ∧ (∀ (m : BitVec 8) (i : Fin 8), find = .bad m → m.getLsbD i = true →
               tget false (d.lp k).bad ((lpdBase + (c.lp k).patrol * 32) / 32 * 8 + i) = true))))
  ∧ (∀ (s : State) (k : Fin 2),
     let c := s.chip
     (∀ (q : Req) (slot : Nat) (result : Word) (count : Pair), c.Authorized q 0x0030 [BitVec.ofNat 16 k] installer slot →
       c.opOf 0x0031 k = none → (c.lp k).st = .frozen → (c.accepted q slot 0x0030 [BitVec.ofNat 16 k]).masksDiffer k = false →
       Completes (.memDiag q k result count) s (fun d =>
         c.Posts d q 0x0030 stDone (result :: toWords 2 count.toNat) ∧ (d.lp k).st = .frozen
         ∧ (d.lp k).fallback = decide (d.fld (lpdPage k) 0x028 0 0 = 0)))
     ∧ (∀ (q : Req) (slot : Nat), c.Authorized q 0x0031 [BitVec.ofNat 16 k] installer slot → c.opOf 0x0031 k = none →
       ((c.lp k).st = .frozen ∨ (c.lp k).st = .down) → (c.lp (1 - k)).st = .live → (c.lp (1 - k)).fallback = false →
       (c.accepted q slot 0x0031 [BitVec.ofNat 16 k]).masksDiffer k = false →
       Completes (.memRemirror q k) s (fun d => (d.lp k).st = .training ∧ (d.opOf 0x0031 k).isSome = true ∧ d.mem = c.mem))
     ∧ (∀ (lines : BitVec 29) (found : List (BitVec 28 × BitVec 8)), (c.lp k).st = .training →
       Completes (.remirrorComplete ⟨k, true, lines, found⟩) s (fun d =>
         (d.lp k).st = .sync ∧ (d.lp k).copied = 0 ∧ d.mem = c.mem)
       ∧ Completes (.remirrorComplete ⟨k, false, lines, found⟩) s (fun d => (d.lp k).st = .down ∧ d.opOf 0x0031 k = none))
     ∧ (∀ (trained : Bool) (lines : BitVec 29), (c.lp k).st = .sync →
       let l := c.lp k
       let m := c.lp (1 - k)
       let hi := Nat.max l.copied (Nat.min lines.toNat c.deviceLines)
       (∀ found, Completes (.remirrorComplete ⟨k, trained, lines, found⟩) s (fun d =>
         if hi < c.deviceLines then (d.lp k).st = .sync ∧ (d.lp k).copied = hi
         else (d.lp k).st = .live ∧ d.opOf 0x0031 k = none))
       ∧ (∀ (at_ : BitVec 28) (quads : BitVec 8), quads ≠ 0 → l.copied ≤ at_.toNat → at_.toNat < hi → at_.toNat % 8 ≠ 7 →
         Completes (.remirrorComplete ⟨k, trained, lines, [(at_, quads)]⟩) s (fun d => ∀ i : Fin 8,
           (d.lp k).isPoison ((lpdBase / 32 + at_.toNat / 8 * 7 + at_.toNat % 8) * 8 + i) = true))
       ∧ Completes (.remirrorComplete ⟨k, trained, lines, []⟩) s (fun d =>
         (l.lost = m.lost → l.segQ = m.segQ → twf false m.poison = true →
             ∀ q, l.copied ≤ quadLine q → quadLine q < hi → tget false (d.lp k).bad q = false
               ∧ (d.lp k).isPoison q = (m.isPoison q || m.bad.any (fun e => e.1 / 8 == q / 8))))))

/-- R247, R249: a scrub that finds an uncorrectable error marks the word of tight memory, drops a clean line, keeps a dirty one
marked, and raises the eight's event; a corrected error is counted. The model's choices it rests on: log entry 11. -/
def Obligations.ArraysAreScrubbed : Prop :=
  ∀ s : State,
    let c := s.chip
    (∀ (k : Fin 72) (off : Word), c.armed (c.setPage k) = none →
      Completes (.arrayScrub (.tight k off) .bad) s (fun d => tget false d.tmBad (tightBase + k * 0x1_0000 + off.toNat) = true
        ∧ d.mem = c.mem ∧ c.Raises d (eightSrc (k / 9) 2))
      ∧ Completes (.arrayScrub (.tight k off) .corrected) s (fun d => d.tmBad = c.tmBad
        ∧ d.fld (0x020 + k) 0x302 7 0 = Nat.min 0xFF (c.fld (0x020 + k) 0x302 7 0 + 1)))
    ∧ (∀ (k : Fin 72) (w : Fin 4) (l : Fin 128), c.armed (c.setPage k) = none →
      (∀ oct : Fin 4, ((c.arr k).l1d.slot w l).valid = true → Completes (.arrayScrub (.l1d k w l oct) .bad) s (fun d =>
        (d.arr k).l1d.slot w l = scrubLine ((c.arr k).l1d.slot w l) oct
        ∧ (d.arr k).l1i = (c.arr k).l1i ∧ c.Raises d (eightSrc (k / 9) 2)))
      ∧ (∀ oct : Fin 4, ((c.arr k).l1i.slot w l).valid = true → Completes (.arrayScrub (.l1i k w l oct) .bad) s (fun d =>
        (d.arr k).l1i.slot w l = scrubLine ((c.arr k).l1i.slot w l) oct
        ∧ (d.arr k).l1d = (c.arr k).l1d ∧ c.Raises d (eightSrc (k / 9) 2)))
      ∧ (((c.arr k).l1d.slot w l).valid = true → Completes (.arrayScrub (.tags k false w l) .bad) s (fun d =>
        (d.arr k).l1d.slot w l = scrubTag ((c.arr k).l1d.slot w l)
        ∧ (d.arr k).l1i = (c.arr k).l1i ∧ c.Raises d (eightSrc (k / 9) 2))))
    ∧ (∀ (e : Fin 8) (w : Fin 16) (l : Fin 1024), c.armed (0x010 + e) = none → ((c.eight e).l2.slot w l).valid = true →
      (∀ oct : Fin 4, Completes (.arrayScrub (.l2 e w l oct) .bad) s (fun d =>
        (d.eight e).l2.slot w l = scrubLine ((c.eight e).l2.slot w l) oct ∧ c.Raises d (eightSrc e 2)))
      ∧ Completes (.arrayScrub (.l2tags e w l) .bad) s (fun d =>
        (d.eight e).l2.slot w l = scrubTag ((c.eight e).l2.slot w l) ∧ c.Raises d (eightSrc e 2)))

/-! ### Worlds, partitions and roles (chapter "Worlds, Parties and Roles") -/

/-- R358, R359, R361, R362: a command that needs a role, once it is next in the mailbox, is refused with ROLE or JOURNAL and
has no other effect, or is journaled with its NONCE and the anchor advanced. The model's choices it rests on: log entries 32,
37. -/
def Obligations.RoleCommandsAreJudged : Prop :=
  ∀ (s : State) (i : Instr) (q : Req) (code : Nat) (ops : List Word) (right : Nat → Bool),
    let c := s.chip
    Instr.roleOf c i = some (q, code, ops, right) →
    (c.takesUp q = false → Completes i s (fun d => d = c))
    ∧ (c.takesUp q = true → c.authorize q code ops right = none → Completes i s (fun d => d = c.answer q code stRole []))
    ∧ (∀ slot, c.takesUp q = true → c.authorize q code ops right = some slot → (c.anchorOut = true ∨ q.flash = false) →
        Completes i s (fun d => d = c.answer q code stJournal []))
    ∧ (∀ slot, c.Authorized q code ops right slot → Completes i s (fun d =>
        let n := c.acceptedSeq q slot
        let e := tget {} d.roles.journal (n % journalRing)
        (d.cred slot).nonce = q.nonce.toNat ∧ d.roles.step = c.roles.step + 1 ∧ e.seq = n ∧ e.kind = 0
        ∧ e.role = (c.cred slot).role ∧ e.keyId = q.keyId.toNat ∧ e.code = code ∧ e.digest = sha384 ops))

/-- R309, R314, R344, R345, R346, R347, R348, R349, R350, R478: a claim zeroes the region, whose open contexts are written
afresh, or resets the lanes it hands over, whose copies end with ABORT; a memory region waits for the clearing of ways; a
failed scrub keeps the hand-over; the end of restart work writes the open contexts of the partition afresh; the partition
commands act on their partition, whose windows run no more once it is STOPPED. The model's choices it rests on: log entries 31,
34, 43. -/
def Obligations.RegionsAndPartitionsAct : Prop :=
  ∀ s : State,
    let c := s.chip
    let fresh := fun (d : Chip) (q : Nat × Nat × CtxE) =>
      (d.savedCtx q.1 q.2.1).have_ = true ∧ (d.savedCtx q.1 q.2.1).damaged = false
    (∀ (kind : Fin 6) (first : Fin 0x1000000) (h : Hand),
      c.hand.find? (fun x => x.kind == kind.val && x.first == first.val && !x.done) = some h →
      let rest := c.hand.filter (fun x => decide (x ≠ h))
      ((kind = 2 ∨ kind = 3) → c.cleared = false → ∀ ok, Completes (.handOverClaim kind first ok) s (fun d => d = c))
      ∧ ((kind = 2 ∨ kind = 3) → c.cleared = true → Completes (.handOverClaim kind first true) s (fun d =>
        d.hand = rest ∧ (∀ b, let lo := 2 * (h.first * 4096)
          readByte d.mem b = if lo ≤ b ∧ b < lo + 2 * ((h.last + 1 - h.first) * 4096) then 0 else readByte c.mem b)))
      ∧ (kind = 4 → c.inSwing (h.first / 1024 / 8) = false → (c.eight (h.first / 1024 / 8)).move = none →
        (∀ p, c.livePlan = some p → ∀ q ∈ p.allCtxs, q.2.2.open_ = true → h.touches q.1 q.2.2 = false) →
        Completes (.handOverClaim kind first true) s (fun d => d.hand = rest
          ∧ (∀ b, let lo := 2 * c.tmAddr (h.first / 1024) (h.first % 1024 * 64)
            readByte d.mem b = if lo ≤ b ∧ b < lo + 2 * ((h.last + 1 - h.first) * 64) then 0 else readByte c.mem b)))
      ∧ (kind = 4 → Completes (.handOverClaim kind first true) s (fun d => d.hand = rest
          ∧ (∀ p, c.livePlan = some p → ∀ q ∈ p.allCtxs, q.2.2.open_ = true → h.touches q.1 q.2.2 = true → fresh d q)))
      ∧ ((kind = 0 ∨ kind = 5) → Completes (.handOverClaim kind first true) s (fun d => d.hand = rest ∧ d.mem = c.mem
          ∧ d.pipes = c.pipes))
      ∧ (kind = 1 → (∀ k ∈ c.lane.copies, (k.a < h.first ∨ h.last < k.a) ∧ (k.b < h.first ∨ h.last < k.b)) →
        Completes (.handOverClaim kind first true) s (fun d => d.hand = rest ∧ d.mem = c.mem
        ∧ (∀ l, h.first ≤ l → l ≤ h.last → d.ln l = {}) ∧ (∀ l, l < h.first ∨ h.last < l → d.ln l = c.ln l)))
      ∧ (∀ k : Copying, kind = 1 → c.lane.copies = [k] → h.first ≤ k.a → k.a ≤ h.last → (k.b < h.first ∨ h.last < k.b) →
        (c.ln k.a).st = .run → (c.ln k.b).st = .run →
        let c' := { c with hand := rest }
        c'.ownsRange (c'.laneOwner k.b) ((c.ln k.b).descAt (c.ln k.b).cidx) 8 = true →
        Completes (.handOverClaim kind first true) s (fun d => d.lane.copies = []
          ∧ (d.ln k.b).cidx = ((c.ln k.b).cidx + 1) % 2 ^ 16))
      ∧ ((kind = 2 ∨ kind = 3 → c.cleared = true) → Completes (.handOverClaim kind first false) s (fun d =>
        d.hand = rest ++ [{ h with done := true }] ∧ d.mem = c.mem)))
    ∧ (∀ (k : Fin 256) (e : PartE), c.partEntry k = some e → (c.part k).st = .restarting → (c.part k).done = false →
        (e.rsp ≠ 3 → Completes (.restartWorkComplete k) s (fun d =>
          d.part k = { c.part k with done := true, hold := (c.part k).hold || e.rsp == 2 }
          ∧ (∀ p, c.livePlan = some p → ∀ q ∈ p.allCtxs, q.2.2.part = k.val →
            q.2.2.open_ = true → c.ctxHeld q.1 q.2.2 = false →
              fresh d q)))
        ∧ (e.rsp = 3 → Completes (.restartWorkComplete k) s (fun d => d = c)))
    ∧ (∀ (q : Req) (k : Word) (slot : Nat), (c.partEntry k.toNat).isSome = true →
        let x := c.part k.toNat
        let acts := fun (code : Nat) (i : Instr) (y : PartS) (P : Chip → Prop) =>
          c.Authorized q code [k] (c.partRight k.toNat) slot →
            Completes i s (fun d => d.part k.toNat = y ∧ c.Posts d q code stDone [] ∧ P d)
        (x.st ≠ .restarting → acts 0x50 (.partStart q k) { x with start := true } (fun _ => True)
          ∧ acts 0x51 (.partStop q k) { x with st := .stopped, start := false } (fun d => ∀ pi v, pi < 72 →
              (c.pipe pi).ctx = some v → v.part = k.toNat → (c.pipe pi).run = .run → (d.pipe pi).run = .ended)
          ∧ acts 0x52 (.partRestart q k) { x with restart := true } (fun _ => True))
        ∧ (x.st = .restarting → acts 0x50 (.partStart q k) x (fun _ => True)
          ∧ acts 0x51 (.partStop q k) { x with hold := true, start := false } (fun d => d.pipes = c.pipes)
          ∧ acts 0x52 (.partRestart q k) x (fun _ => True)))

/-- R354, R355, R356, R357: a world restart is called for by command or by the watchdog, which a Deckle monitor reloads; the
image that verifies, and for Deckle measures as before, is loaded, and any other fails the world; GATEREQ gates a port whose
every user is the requester. The model's choices it rests on: log entry 34. -/
def Obligations.WorldsRestartAndPortsGate : Prop :=
  ∀ s : State,
    let c := s.chip
    (∀ (q : Req) (w : Bool) (slot : Nat), c.Authorized q 0x53 [BitVec.ofNat 16 (b2n w)] installer slot →
      (c.world w).st ≠ .restarting → Completes (.worldRestart q w) s (fun d =>
        d.world w = { c.world w with due := true } ∧ c.Posts d q 0x53 stDone []))
    ∧ (∀ (u : Fin 67) (r : Requester), c.Reaches u 0x006 0x102 r → u.val < 64 → r.level = 2 →
        r.party.map c.worldOf = some true → c.wdAt.isSome = true → c.wdPeriod ≠ 0 → c.deckle.st = .run →
        Completes (.dwkick u) s (fun d => d = { c with wdAt := some c.now }))
    ∧ (∀ t, c.wdAt = some t → c.deckle.st = .run → c.wdPeriod ≠ 0 → Completes .deckleWatchdogExpiry s (fun d =>
        d = { c.reach (t + 1000000 * c.wdPeriod) with wdAt := none, deckle := { c.deckle with due := true } }))
    ∧ (∀ (w : Bool) (img : List Word), (c.world w).st = .restarting → (c.world w).done = false →
        let good := imageForm w img && c.signedBy 2 img && (!w || watermark img == (c.world w).wm)
        (good = true → Completes (.deckleWorldRestart w img) s (fun d =>
          d.world w = { c.world w with img := img, done := true } ∧ d.world (!w) = c.world (!w)))
        ∧ (good = false → Completes (.deckleWorldRestart w img) s (fun d =>
          d.world w = { c.world w with st := .failed } ∧ (w = true → d.dfail = true) ∧ c.Raises d 0x32B)))
    ∧ (∀ (u : Fin 67) (r : Requester) (x : Pair) (q : Nat), c.Reaches u 0x006 0x180 r → r.party = some q →
        let page := bits x.toNat 8 0
        let op := bits x.toNat 10 9
        portPage page = true →
        ((∀ k ∈ c.portUsers page, k = q) → Completes (.gatereq u x) s (fun d =>
          d.gated.contains (page, decide (2 ≤ op)) = (op % 2 == 0)
          ∧ (∀ g, g ≠ (page, decide (2 ≤ op)) → d.gated.contains g = c.gated.contains g)))
        ∧ ((∃ k ∈ c.portUsers page, k ≠ q) → Completes (.gatereq u x) s (fun d => d.gated = c.gated)))

/-- R353, R359, R360, R362, R364, R365, R367, R439: a report with its signature, and journal entries, are written to the
requester's buffer, an alarm is acknowledged, credentials are enrolled and revoked; the policies, the pending firmware, the
next lifecycle state, and a renewed anchor. The model's choices it rests on: log entries 5, 30, 35, 53. -/
def Obligations.RoleCommandsAct : Prop :=
  (∀ (s : State) (q : Req),
     let c := s.chip
     (∀ nonce addr : Quad, c.takesUp q = true → c.ownsRange (some q.party) addr.toNat 200 = true →
       Completes (.attest q nonce addr) s (fun d =>
       let ws := c.report nonce.toNat
       let sig := ecdsaSign c.power.devKey (sha384 ws) (1 + Config.freeValue c.free % (n384 - 1))
       c.Posts d q 0x56 stDone [] ∧ (addr.toNat + 200 ≤ qdrEnd → readN d.mem addr.toNat ws.length = ofWords ws
         ∧ readN d.mem (addr.toNat + ws.length) 48 = ofWords (toWords 24 sig.1 ++ toWords 24 sig.2)
         ∧ c.KeepsBut d addr.toNat 200)))
     ∧ (∀ (seq : Quad) (slot : Nat), c.Authorized q 0x54 (toWords 4 seq.toNat)
           (fun r => r == 2 || r == 3 || (r == 1 && c.fld 0x007 0x106 0 0 == 1)) slot → c.roles.alarms.contains seq.toNat = true →
         Completes (.eventAck q seq) s (fun d => d.roles.alarms.contains seq.toNat = false ∧ c.Posts d q 0x54 stDone []))
     ∧ (∀ (first : Quad) (count : Pair) (addr : Quad) (slot : Nat), c.takesUp q = true →
         c.authorize q 0x55 (toWords 4 first.toNat ++ toWords 2 count.toNat ++ toWords 4 addr.toNat)
           (fun r => r == 2 || r == 3 || (r == 1 && c.fld 0x007 0x106 1 1 == 1)) = some slot →
         1 ≤ count.toNat → count.toNat ≤ 1024 → c.roles.jseq - journalRing ≤ first.toNat → first.toNat + count.toNat ≤ c.roles.jseq →
         c.ownsRange (some q.party) addr.toNat (count.toNat * 64) = true →
         Completes (.journalRead q first count addr) s (fun d => c.Posts d q 0x55 stDone [] ∧ d.roles.journal = c.roles.journal
           ∧ d.roles.step = c.roles.step ∧ (d.cred slot).nonce = q.nonce.toNat
           ∧ (addr.toNat + count.toNat * 64 ≤ qdrEnd → (∀ i, i < count.toNat →
               readN d.mem (addr.toNat + 64 * i) 64 = ofWords (tget {} c.roles.journal ((first.toNat + i) % journalRing)).words)
             ∧ c.KeepsBut d addr.toNat (count.toNat * 64))))
     ∧ (∀ (k role : Word) (x y : BitVec 384) (keyId : Pair) (slot : Nat),
         c.Authorized q 0x60 ([k, role] ++ toWords 24 x.toNat ++ toWords 24 y.toNat ++ toWords 2 keyId.toNat)
           (fun r => (r == 2 && (role.toNat == 1 || role.toNat == 2)) || (r == 3 && role.toNat == 2)) slot →
         k.toNat < 16 → (c.cred k.toNat).role ≠ 1 → (c.cred k.toNat).role ≠ 2 →
         Completes (.credEnrol q k role x y keyId) s (fun d => c.Posts d q 0x60 stDone []
           ∧ d.cred k.toNat = ⟨role.toNat, keyId.toNat, x.toNat, y.toNat, (c.cred k.toNat).nonce⟩))
     ∧ (∀ (k : Word) (slot : Nat), let target := (c.cred k.toNat).role
         k.toNat < 16 → c.Authorized q 0x61 [k]
           (fun r => (r == 2 && (target == 1 || target == 2)) || (r == 3 && target == 2)) slot →
         Completes (.credRevoke q k) s (fun d => c.Posts d q 0x61 stDone [] ∧ (d.cred k.toNat).role = 3
           ∧ d.credSlot (c.cred k.toNat).keyId ≠ some k.toNat)))
  ∧ (∀ (s : State) (q : Req) (slot : Nat),
     let c := s.chip
     (∀ (oppol : Quad) (cfg : Pair), c.Authorized q 0x62 (toWords 4 oppol.toNat ++ toWords 2 cfg.toNat) installer slot →
       Completes (.policySet q oppol cfg) s (fun d => c.Posts d q 0x62 stDone []
         ∧ d.live 0x007 0x102 = oppol.toNat % 2 ^ 32 ∧ d.live 0x007 0x104 = oppol.toNat / 2 ^ 32
         ∧ d.live 0x007 0x106 = cfg.toNat % 4 ∧ d.roles.oppol = oppol.toNat ∧ d.roles.roleCfg = cfg.toNat % 4))
     ∧ (∀ (addr : Quad) (len : Pair), let ops := toWords 4 addr.toNat ++ toWords 2 len.toNat
         let a := c.accepted q slot 0x70 ops
         let ws := toWords len.toNat (c.physRead (c.partyKey (some q.party.val)) addr.toNat len.toNat)
         c.Authorized q 0x70 ops makerOnly slot →
         (a.signedBy 3 ws = true → Completes (.fwUpdate q addr len) s (fun d => c.Posts d q 0x70 stDone []
           ∧ d.power = { c.power with fw := tset [] c.power.fw (1 - c.power.fwActive) ws
                                      fwPend := some (1 - c.power.fwActive) }))
         ∧ (a.signedBy 3 ws = false → Completes (.fwUpdate q addr len) s (fun d => c.Posts d q 0x70 stBadSig []
           ∧ d.power = c.power)))
     ∧ (∀ target : Word, c.Authorized q 0x71 [target] makerOnly slot →
         (lifecycleNext c.lifecycle target.toNat = true → Completes (.lifecycle q target) s (fun d =>
           c.Posts d q 0x71 stDone [] ∧ d.fld 0x000 0x104 5 3 = target.toNat ∧ d.lifecycle = c.lifecycle))
         ∧ (lifecycleNext c.lifecycle target.toNat = false → Completes (.lifecycle q target) s (fun d =>
           c.Posts d q 0x71 stLifecycle [] ∧ d.live 0x000 0x104 = c.live 0x000 0x104)))
     ∧ (c.takesUp q = true → c.authorize q 0x72 [] makerOnly = some slot → c.roles.epoch ≠ 63 →
       (q.flash = true → Completes (.anchorRenew q) s (fun d => let e := tget {} d.roles.journal (c.roles.jseq % journalRing)
         c.Posts d q 0x72 stDone [] ∧ d.roles.epoch = c.roles.epoch + 1 ∧ d.roles.step = 1 ∧ e.seq = c.roles.jseq
         ∧ e.code = 0x72 ∧ e.status = stDone ∧ e.epoch = c.roles.epoch + 1 ∧ e.step = 1))
       ∧ (q.flash = false → Completes (.anchorRenew q) s (fun d => d = c.answer q 0x72 stJournal []))))

/-! ### Ports, time and the pair link (chapter "Field Ports, Plant Ports, Pair Link and Time") -/

/-- R369, R374 to R380, R402: a field port hands over its sample oct, sends the oct last delivered on the lane of an instant
and counts a stale one, takes a received frame of 64 to 1,522 bytes into its sample register with a stamp of 40 ns, holds one
frame that waits for the lane engine or drops it, and its link goes up and down. The model's choices it rests on: log entries
57, 58, 61, 88. -/
def Obligations.FieldPortsSampleAndSend : Prop :=
  ∀ (s : State) (n : Fin 32),
    let c := s.chip
    let p := c.fport n
    let pg := fpPage n
    (∀ (i : Fin 64) (e : FpiE), c.fpRuns n i false = some e → Completes (.sampleInstant n i) s (fun d =>
      d.lane.inq = c.lane.inq ++ (e.laneA :: e.laneB.toList).map (fun l => (l, p.sampleOct (c.fpLink n)))
      ∧ d.fport n = { p with age := p.nextAge, fresh := false, rxerr := false }))
    ∧ (∀ (i : Fin 64) (e : FpiE), c.fpRuns n i true = some e → p.closed = true → c.fpLink n = true → c.standby = false →
      let fresh := p.outNew.contains e.laneA
      let stale := fun d : Chip => fresh = false → d.fld pg 0x100 23 16 = Nat.min 0xFF (c.fld pg 0x100 23 16 + 1)
      (∀ o : Oct, tget none p.outs e.laneA = some o → (fresh = true ∨ c.fld pg 0x020 4 4 = 0) →
        Completes (.transmitInstant n i) s (fun d => let f := c.fpHeader n ++ bytesOf 16 o.toNat
          (d.fport n).outNew = p.outNew.filter (· != e.laneA) ∧ (d.fport n).sent = padFrame f
          ∧ (d.fport n).txEnd = d.now + fieldTime f ∧ stale d))
      ∧ ((tget none p.outs e.laneA = none ∨ (fresh = false ∧ c.fld pg 0x020 4 4 ≠ 0)) →
        Completes (.transmitInstant n i) s (fun d => d.fport n = { p with outNew := p.outNew.filter (· != e.laneA) } ∧ stale d)))
    ∧ (∀ (i : Fin 64) (e : FpiE), c.fpRuns n i true = some e → (p.closed = false ∨ c.fpLink n = false) →
        Completes (.transmitInstant n i) s (fun d => d.fport n = { p with outNew := p.outNew.filter (· != e.laneA) }))
    ∧ (∀ (f : List Byte) (fcs : Bool) (stamp : Quad), (f.length < 60 ∨ 1518 < f.length) →
        Completes (.fieldFrameReceived n f fcs stamp) s (fun d => d = c))
    ∧ (∀ (f : List Byte) (stamp : Quad), c.portGated pg = false → c.fpLink n = true → 60 ≤ f.length → f.length ≤ 1518 →
      (Completes (.fieldFrameReceived n f false stamp) s (fun d => d.fport n = { p with rxerr := true }))
      ∧ (etherAt f 12 = c.fld pg 0x020 31 16 → 14 + c.fld pg 0x022 10 0 + 8 ≤ f.length →
        Completes (.fieldFrameReceived n f true stamp) s (fun d =>
          (∀ j, j < 8 → (d.fport n).data.extractLsb' (8 * j) 8 = f.getD (14 + c.fld pg 0x022 10 0 + j) 0)
          ∧ (d.fport n).rxts = Nat.min c.now stamp.toNat / 40 * 40 % 2 ^ 32 ∧ (d.fport n).seq = (p.seq + 1) % 2 ^ 16
            ∧ (d.fport n).fresh = true))
      ∧ (etherAt f 12 ≠ c.fld pg 0x020 31 16 → c.portLane n 0 = none →
        Completes (.fieldFrameReceived n f true stamp) s (fun d => d.fport n = p
          ∧ d.fld pg 0x100 31 24 = Nat.min 0xFF (c.fld pg 0x100 31 24 + 1)))
      ∧ (etherAt f 12 ≠ c.fld pg 0x020 31 16 → (c.portLane n 0).isSome = true → c.unitFree = false →
        (p.rx = none → Completes (.fieldFrameReceived n f true stamp) s (fun d =>
          d.fport n = { p with rx := some f }))
        ∧ (p.rx.isSome = true → Completes (.fieldFrameReceived n f true stamp) s (fun d => d.fport n = p
          ∧ d.fld pg 0x100 31 24 = Nat.min 0xFF (c.fld pg 0x100 31 24 + 1)))))
    ∧ (∀ p24 req24 insist leader : Bool, c.portGated pg = false →
      (c.fpLink n = false → p.supply ≠ .tripped → (insist = false ∨ c.fld pg 0x030 1 0 = 0) →
        Completes (.fieldLinkChange n true p24 req24 insist leader) s (fun d => d.fpLink n = true
          ∧ d.fport n = { p with outs := [], outNew := [] } ∧ c.Raises d (0x0C1 + 2 * n)))
      ∧ (c.fpLink n = true → Completes (.fieldLinkChange n false p24 req24 insist leader) s (fun d => d.fpLink n = false
          ∧ d.fport n = { p with data := 0, rxts := 0, seq := 0, fresh := false } ∧ c.Raises d (0x0C1 + 2 * n))))

/-- R381, R382, R383, R403: the supervisor trips a port at once on the fast comparator, on a condition two successive
conversions exceed, and a closed switch in the IS profile on a failed self-check; REARM closes the switch and a link
renegotiates, the soft start ends, and a profile is staged. The model's choices it rests on: log entry 55. -/
def Obligations.SupplySwitchesAreSupervised : Prop :=
  ∀ (s : State) (n : Fin 32),
    let c := s.chip
    let p := c.fport n
    let pg := fpPage n
    (∀ (vs is : Word) (fast ok : Bool), let exceeded := c.overConds n vs.toNat is.toNat
      let run := fun P : Chip → Prop => Completes (.supervisorConversion n vs is fast ok) s (fun d =>
        d.live pg 0x104 = vs.toNat + is.toNat * 2 ^ 16 ∧ P d)
      let trips := fun (cause : Nat) (d : Chip) => (d.fport n).supply = .tripped ∧ (d.fport n).tripAt = some c.now
        ∧ d.fld pg 0x100 7 5 = cause ∧ d.fpLink n = false ∧ c.Raises d (0x0C0 + 2 * n)
      let quiet := p.supply ≠ .tripped ∧ (fast = false ∨ c.fld pg 0x034 7 0 = 0)
      let once := ∀ j ∈ exceeded, p.exceeded.contains j = false
      let unsensed := p.closed = false ∨ isProfile (c.live pg 0x030) = false ∨ ok = true
      (p.supply = .tripped → run (fun d => d.fport n = p))
      ∧ (p.supply ≠ .tripped → fast = true → c.fld pg 0x034 7 0 ≠ 0 → run (trips 4))
      ∧ (∀ k, quiet → exceeded.find? (fun j => p.exceeded.contains j && j != 5) = some k → run (trips k))
      ∧ (quiet → once → unsensed → run (fun d => d.fport n = { p with exceeded := exceeded }))
      ∧ (quiet → once → ¬ unsensed → run (trips 5))
      ∧ (quiet → exceeded = [5] → p.exceeded.contains 5 = true → run (trips 5)))
    ∧ (∀ (u : Fin 67) (r : Requester), c.Reaches u pg 0x102 r → (c.fld pg 0x006 8 8 = 0 ∨ r.party = none ∨ 2 ≤ r.level) →
        c.portGated pg = false → p.closed = false → c.power.st = .run →
        let shut := { p with supply := .soft, softAt := c.now, tripAt := none, exceeded := [] }
        (c.rearmOk n = true → c.fpLink n = false → Completes (.rearm u n) s (fun d => d = c.setFport n shut))
        ∧ (c.rearmOk n = true → c.fpLink n = true → Completes (.rearm u n) s (fun d =>
          d.fport n = { shut with data := 0, rxts := 0, seq := 0, fresh := false } ∧ d.fpLink n = false
          ∧ c.Raises d (0x0C1 + 2 * n)))
        ∧ (c.rearmOk n = false → Completes (.rearm u n) s (fun d => d.fport n = p ∧ bitN (d.live pg 0x00E) 8 = true)))
    ∧ (p.supply = .soft → Completes (.softStartEnd n) s (fun d => d.fport n = { p with supply := .on }
        ∧ p.softAt + c.fld pg 0x034 23 16 * 10000 ≤ d.now))
    ∧ (∀ (q : Req) (slot : Nat) (p0 p1 p2 : Pair), c.Authorized q 0x80
          (BitVec.ofNat 16 n :: (toWords 2 p0.toNat ++ toWords 2 p1.toNat ++ toWords 2 p2.toNat)) installer slot →
        let good := !isProfile p0.toNat || isRules p0.toNat p2.toNat
        (good = true → Completes (.portProfile q n p0 p1 p2) s (fun d => c.Posts d q 0x80 stDone []
          ∧ d.fport n = { p with prof := some ⟨c.now, p0.toNat % 2 ^ 26, p1.toNat, p2.toNat⟩ }))
        ∧ (good = false → Completes (.portProfile q n p0 p1 p2) s (fun d => c.Posts d q 0x80 stProfile []
          ∧ d.fport n = p)))

/-- R369, R387 to R391, R402: an entry of the gate list sets the gates unless the catch cuts it; training that fails, and
starts again, and a change of link are seen and raised; a received frame of 64 to 1,522 bytes goes to the inbound lane as a
message with its stamp, waits for the lane engine, or is dropped and counted; a silent stream's recovery is reset. The model's
choices it rests on: log entries 56, 58, 88. -/
def Obligations.PlantPortsGateAndReceive : Prop :=
  ∀ (s : State) (k : Fin 2),
    let c := s.chip
    let pg := pltPage k
    (∀ (i : Fin 256) (e : GclE), (c.gcl k)[i.val]? = some e → c.portGated pg = false →
      (c.granuleAt e.offset < c.nextCatch → Completes (.gateControlEntry k i) s (fun d =>
        d.fld pg 0x100 12 5 = e.gates % 256 ∧ c.granuleAt e.offset ≤ d.now))
      ∧ (c.nextCatch ≤ c.granuleAt e.offset → Completes (.gateControlEntry k i) s (fun d => d = c)))
    ∧ (bitN (c.live pg 0x020) 0 = true → bitN (c.live pg 0x020) 1 = true → c.pltLink k = false → c.portGated pg = false →
        Completes (.trainingTimeout k) s (fun d => d.fld pg 0x100 2 1 = 3 ∧ (d.pport k).trainAt = d.now
          ∧ (c.pport k).trainAt + 500000000 ≤ d.now ∧ (c.fld pg 0x100 2 1 ≠ 3 → c.Raises d (0x301 + 4 * k))))
    ∧ (∀ up : Bool, c.portGated pg = false → (up = true → c.fld pg 0x020 1 1 = 1) → c.pltLink k ≠ up →
        Completes (.plantLinkChange k up) s (fun d => d.pltLink k = up ∧ c.Raises d (0x300 + 4 * k)
          ∧ (c.fld pg 0x020 0 0 = 1 → d.fld pg 0x100 2 1 = if up then 2 else 1)))
    ∧ (∀ i : Fin 64, bitN (c.strReg k i 1) 31 = true → bits (c.strReg k i 2) 0 0 = 0 →
        Completes (.streamRecoveryReset k i) s (fun d => tget {} (d.pport k).strm i = {} ∧ c.Raises d (0x303 + 4 * k)
          ∧ (∀ j, j ≠ i.val → tget {} (d.pport k).strm j = tget {} (c.pport k).strm j)))
    ∧ (∀ (f : List Byte) (fcs : Bool) (stamp : Quad), (f.length < 60 ∨ 1518 < f.length) →
        Completes (.plantFrameReceived k f fcs stamp) s (fun d => d = c))
    ∧ (∀ (f : List Byte) (stamp : Quad), c.portGated pg = false → c.pltLink k = true → isGptp f = false →
        c.strOf k 0 false f = none → 60 ≤ f.length → f.length ≤ 1518 →
        let ts := Nat.min c.now stamp.toNat % 2 ^ 16
        (c.portLane (32 + k) 0 = none → Completes (.plantFrameReceived k f true stamp) s (fun d =>
          d.fld pg 0x100 23 16 = Nat.min 0xFF (c.fld pg 0x100 23 16 + 1) ∧ c.Raises d (0x303 + 4 * k)))
        ∧ ((c.portLane (32 + k) 0).isSome = true → c.unitFree = false → (c.pport k).rx = [] →
          Completes (.plantFrameReceived k f true stamp) s (fun d =>
            d.pport k = { c.pport k with rx := [(ts, f)] }))
        ∧ (∀ l, c.portLane (32 + k) 0 = some l → c.unitFree = true → (c.pport k).rx = [] → (c.ln l).st = .run →
          (c.ln l).waiting ≠ 0 →
          let a := (c.ln l).descAt (c.ln l).cidx
          let o := c.laneDesc l (c.ln l).cidx
          let n := f.length / 2
          c.descFault l = none → descReserved o = false → f.length % 2 = 0 → n ≤ descLen o → descLen o ≠ 0 →
          c.ownsRange (c.laneOwner l) (descAddrOf o) n = true →
          Completes (.plantFrameReceived k f true stamp) s (fun d => (d.ln l).cidx = ((c.ln l).cidx + 1) % 2 ^ 16
            ∧ (a + 8 ≤ qdrEnd → descAddrOf o + n ≤ qdrEnd → (a + 8 ≤ descAddrOf o ∨ descAddrOf o + n ≤ a) → n < 2 ^ 16 →
              readN d.mem (descAddrOf o) n = ofWords (packBytes f) ∧ readN d.mem (a + 6) 2 = 1 + n * 2 ^ 16
              ∧ (readW d.mem (a + 5)).toNat = ts))))

/-- R368, R370, R371, R373: an announcement on a port that takes part makes it a slave of a better clock, or master; a
synchronisation of a slave port sets the servo's offset, with the link's delay that an exchange measured; the loss of the
source holds the rate; an alarm is raised at its instant; TB steps only while no plan holds it; a read of the low half latches
the high half. The model's choices it rests on: log entries 16, 59, 101, 102. -/
def Obligations.TimeIsKept : Prop :=
  ∀ s : State,
    let c := s.chip
    (∀ k : Fin 2, c.takesPart k = true →
      let pg := pltPage k
      (∀ (p : Byte) (rest : BitVec 104) (n : Word), c.takesPart (1 - k) = false →
        let x := clockRank p.toNat rest.toNat n.toNat
        let seen := fun (st gm : Nat) (d : Chip) => d.fld pg 0x100 4 3 = st ∧ d.fld 0x004 0x100 2 2 = gm
          ∧ (c.fld pg 0x100 4 3 ≠ st → c.Raises d (0x300 + 4 * k)) ∧ d.now = c.now
        (x < c.ownRank → Completes (.gptpMessage ⟨k, .announce p rest n⟩) s (seen 2 0))
        ∧ (c.ownRank < x → Completes (.gptpMessage ⟨k, .announce p rest n⟩) s (seen 1 (c.fld 0x004 0x020 2 2))))
      ∧ (∀ t1 t2 : Quad, c.timeSource = 1 → c.fld pg 0x100 4 3 = 2 → Completes (.gptpMessage ⟨k, .sync t1 t2⟩) s (fun d =>
          d.fld 0x004 0x100 1 0 = 1 ∧ d.fld 0x004 0x100 4 4 = 0 ∧ d.now = c.now
          ∧ d.fld 0x004 0x100 31 16
              = wrap 16 (clamp (-32767) 32767 ((t2.toNat : Int) - t1.toNat - (c.pport k).delay)).1))
      ∧ (∀ t1 t2 t3 t4 : Quad, t2.toNat ≤ t3.toNat → t1.toNat + (t3.toNat - t2.toNat) ≤ t4.toNat →
          Completes (.gptpMessage ⟨k, .peerDelay t1 t2 t3 t4⟩) s (fun d => d = c.setPport k { c.pport k with
            delay := (t4.toNat - t1.toNat - (t3.toNat - t2.toNat)) / 2 })))
    ∧ (c.fld 0x004 0x100 1 0 ≠ 0 → Completes .timeSourceLost s (fun d => d.fld 0x004 0x100 4 4 = 1
        ∧ d.fld 0x004 0x100 1 0 = 0 ∧ d.fld 0x004 0x100 3 3 = 0 ∧ d.tbRate = c.tbRate))
    ∧ (∀ k : Fin 4, let t := c.live 0x004 (0x140 + 4 * k) + c.live 0x004 (0x142 + 4 * k) * 2 ^ 32
        t ≠ 0 → Completes (.tbAlarm k) s (fun d => d.now = Nat.max c.now t ∧ c.Raises d (0x320 + k)))
    ∧ (∀ t : Quad, (c.planHolds = false → Completes (.tbStep t) s (fun d => d = c.reach t.toNat))
        ∧ (c.planHolds = true → Completes (.tbStep t) s (fun d => d = c)))
    ∧ (∀ (u : Fin 67) (r : Requester), c.Reaches u 0x004 0x180 r → Completes (.tbnowlRead u) s (fun d =>
        d.reply = c.now % 2 ^ 32 ∧ d.bank 0x004 0x182 u 0 = c.now / 2 ^ 32 % 2 ^ 32 ∧ d.now = c.now))

/-- R372, R394, R395, R396, R403: training ends in ATTENTION with four good lanes at both ends; the exchange of reports leads
to GO or names why not, and a chip that no plan holds takes the partner's TB; the binding and the mirror table are commands,
which the refusals of PLAN_ARM hold for. The model's choices it rests on: log entries 34, 38. -/
def Obligations.ThePairMeets : Prop :=
  ∀ s : State,
    let c := s.chip
    (∀ e : AlignEnd, c.pair.st = .silent → c.fld 0x0F3 0x020 0 0 = 1 → let good := laneList e.good.toNat
      (4 ≤ good.length → e.both = true → Completes (.align e) s (fun d => d.pair.st = .attention
        ∧ c.pair.since + 1000000 ≤ d.now ∧ d.pair.lanes = e.good.toNat ∧ d.pair.spare = good[4]?))
      ∧ (4 ≤ good.length → e.both = false → Completes (.align e) s (fun d => d.pair.st = .silent ∧ d.pair.cause = 2))
      ∧ (good.length < 4 → Completes (.align e) s (fun d => d.pair.st = .silent ∧ d.pair.cause = 7)))
    ∧ (∀ x : Partner, c.pair.st = .attention → x.inTime = true → c.planHolds = false → Completes (.attention x) s (fun d =>
        d.now = Nat.max c.now x.tb.toNat))
    ∧ (∀ x : Partner, c.pair.st = .attention →
      (x.inTime = false → Completes (.attention x) s (fun d => d.pair.st = .silent ∧ d.pair.cause = 2))
      ∧ (x.inTime = true → x.reportOk = true → (c.roles.partner = 0 ∨ x.uid.toNat ≠ c.roles.partner) →
        Completes (.attention x) s (fun d => d.pair.st = .silent ∧ d.pair.cause = 3))
      ∧ (∀ p, c.livePlan = some p → x.inTime = true → x.reportOk = true → c.roles.partner ≠ 0 →
        x.uid.toNat = c.roles.partner →
        ((p.isPlan x && (x.live || x.admitted)) = false → Completes (.attention x) s (fun d =>
            d.pair.st = .silent ∧ d.pair.cause = 4))
        ∧ (p.isPlan x = true → x.live = true → c.mirrorSame x = false → Completes (.attention x) s (fun d =>
            d.pair.st = .silent ∧ d.pair.cause = 5))
        ∧ (p.isPlan x = true → x.live = true → c.mirrorSame x = true → Completes (.attention x) s (fun d =>
            let ws := c.report x.nonce.toNat
            let sig := ecdsaSign c.power.devKey (sha384 ws) (1 + Config.freeValue c.free % (n384 - 1))
            d.pair.report = ws ++ toWords 24 sig.1 ++ toWords 24 sig.2 ∧ d.pair.st = .go
              ∧ d.pair.active = (c.pairRole x).1 ∧ d.pair.standbyAt = (c.pairRole x).2
            ∧ d.pair.rtt = x.rtt.toNat))))
    ∧ (∀ (q : Req) (slot : Nat),
      (∀ uid : Quad, c.Authorized q 0x81 (toWords 4 uid.toNat) installer slot → Completes (.pairBind q uid) s (fun d =>
        d.roles.partner = uid.toNat ∧ c.Posts d q 0x81 stDone []))
      ∧ (∀ (t : Quad) (cfg mstart apply : Pair) (mirs : List Pair), c.Authorized q 0x82
          (mirrorOps t.toNat cfg.toNat mstart.toNat apply.toNat mirs) installer slot → mirs.length ≤ 64 → c.inGo = false →
        c.pair.swAt = none → (∀ h ∈ c.hand, h.done = true) → c.armFault t.toNat 0 1 false = none →
        Completes (.pairMirror q t cfg mstart apply mirs) s (fun d => c.Posts d q 0x82 stDone noPlace
          ∧ tget 0 d.captured (regKey 0x0F3 0x022) = mstart.toNat % 2 ^ 26 + 1
          ∧ (∀ k, k < 64 → tget 0 d.captured (regKey 0x0F3 (0x200 + 2 * k)) = ((mirs.getD k 0).toNat &&& 0xBFFF_FFFF) + 1)))
      ∧ (∀ (t : Quad) (cfg mstart apply : Pair) (mirs : List Pair), c.Authorized q 0x82
          (mirrorOps t.toNat cfg.toNat mstart.toNat apply.toNat mirs) installer slot → mirs.length ≤ 64 → c.inGo = true →
        c.pair.swAt = none → (∀ h ∈ c.hand, h.done = true) → c.armFault t.toNat 0 1 true = none →
        Completes (.pairMirror q t cfg mstart apply mirs) s (fun d => d.pair.swAt = some t.toNat
          ∧ (d.opOf 0x82 0).isSome = true))
      ∧ (∀ (t : Quad) (cfg mstart apply : Pair) (mirs : List Pair) (code : Nat), c.Authorized q 0x82
          (mirrorOps t.toNat cfg.toNat mstart.toNat apply.toNat mirs) installer slot → mirs.length ≤ 64 →
        c.pair.swAt = none → (∀ h ∈ c.hand, h.done = true) → c.armFault t.toNat 0 1 c.inGo = some code →
        Completes (.pairMirror q t cfg mstart apply mirs) s (fun d => c.Posts d q 0x82 code noPlace ∧ d.pair = c.pair)))

/-- R51, R397 to R400: in GO flits count in order, a bad one is asked for again and one out of order only acknowledges; the
partner's decision is kept, a negative acknowledgement is counted, the mirror's octs reach the shadow of the standby, lanes
that lose lock or err too often fail over to the spare and come back, the loss of GO and a yield are seen, the active chip
sends its regions, and an idle flit with a TB stamp goes out where nothing else has for 1 µs. The model's choices it rests on:
log entries 2, 60. -/
def Obligations.ThePairStaysInGo : Prop :=
  ∀ s : State,
    let c := s.chip
    let p := c.pair
    let lost := fun d : Chip => d.pair.st = .silent ∧ d.pair.cause = 6 ∧ d.pair.loss = some c.now ∧ c.Raises d 0x308
    let counted := fun d : Chip => d.fld 0x0F3 0x102 15 0 = Nat.min 0xFFFF (c.fld 0x0F3 0x102 15 0 + 1)
    c.inGo = true →
    (∀ f : PairFlit,
      let q := { p.acked f.ack.toNat with rxSeq := (p.rxSeq + 1) % 4096, bad := 0 }
      (f.crcOk = false → p.bad < 8 → Completes (.pairFlit f) s (fun d =>
        d.pair = { ({ p with bad := p.bad + 1, waiting := p.waiting ++ [.nak] } : PairLink).fill with sentAt := c.now } ∧ counted d))
      ∧ (f.crcOk = false → 8 ≤ p.bad → Completes (.pairFlit f) s lost)
      ∧ (f.crcOk = true → f.seq.toNat ≠ p.rxSeq → Completes (.pairFlit f) s (fun d =>
          d = { c with pair := p.acked f.ack.toNat }))
      ∧ (f.crcOk = true → f.seq.toNat = p.rxSeq →
        (∀ m, f.body = .decision m → Completes (.pairFlit f) s (fun d => d = { c with pair := { q with peer := some m } }))
        ∧ (f.body = .nak → q.nakked < 8 → Completes (.pairFlit f) s (fun d =>
            d.pair = { q with nakked := q.nakked + 1 } ∧ counted d))
        ∧ (f.body = .nak → 8 ≤ q.nakked → Completes (.pairFlit f) s lost)
        ∧ (∀ x, f.body = .mirror x → p.active = false → Completes (.pairFlit f) s (fun d =>
            d.pair = { q with mirPos := p.mirPos + 16 }
            ∧ (let a := c.shadowBase + p.mirPos
              p.mirPos + 16 ≤ c.mirrorWords → c.ownsRange none a 16 = true → c.inQdr a = true → a + 16 ≤ qdrEnd →
              readN d.mem a 16 = x.toNat ∧ c.KeepsBut d a 16)))))
    ∧ Completes .linkLoss s lost
    ∧ (∀ x : LaneFault, bitN p.lanes x.lane = true →
      let q := { p with lanes := p.lanes - 2 ^ x.lane.val, retrain := p.retrain ++ [x.lane.val], spare := none }
      (x.lost = false → x.errors.toNat ≤ c.fld 0x0F3 0x020 9 2 → Completes (.laneFailure x) s (fun d => d = c))
      ∧ ((x.lost = true ∨ c.fld 0x0F3 0x020 9 2 < x.errors.toNat) →
        (∀ j, p.spare = some j → Completes (.laneFailure x) s (fun d => d.pair = q ∧ (j ≠ x.lane.val → c.Raises d 0x309)))
        ∧ (p.spare = none → Completes (.laneFailure x) s lost)))
    ∧ (∀ k : Fin 5, p.retrain.contains k.val = true → Completes (.pairLaneRetrained k) s (fun d =>
        d.pair = { p with lanes := p.lanes + 2 ^ k.val, retrain := p.retrain.filter (fun j => j != k.val)
                          spare := some (p.spare.getD k.val) }))
    ∧ Completes .yieldMessage s (fun d => d = { c with pair := { p with yieldGot := true } })
    ∧ (p.active = true → c.isLive = true → Completes .mirrorStart s (fun d => d.mem = c.mem
        ∧ (let ws := c.mirrorRegions.flatMap (fun r => toWords r.2 (c.rdN 0 r.1 r.2))
          let fs := (List.range (ws.length / 16)).map (fun i =>
            PairBody.mirror (BitVec.ofNat 256 (ofWords ((ws.drop (16 * i)).take 16))))
          d.pair = { ({ p with mirOut := ws, waiting := p.waiting ++ (fs ++ [.mirrorEnd (BitVec.ofNat 64 c.stroke)]) }
            : PairLink).fill with sentAt := d.now })))
    ∧ (s.pending = [] → p.waiting = [] → p.replay.length < replayFlits → p.sentAt + 1000 ≤ c.now → ∃ t, step s = .next t
        ∧ t.chip.pair.replay = p.replay ++ [.idle (BitVec.ofNat 64 t.chip.now)] ∧ t.chip.pair.sentAt = t.chip.now)

/-! ### Trace and counters (chapter "Trace and Performance Counters") -/

/-- R412, R413, R414: in BUFFER mode a trigger writes its frame and moves trace to WAKE, whose end writes END; a full encoder
reports what it lost; a frame goes from an encoder to the funnel. The model's choices it rests on: log entry 15. -/
def Obligations.TraceIsRecorded : Prop :=
  ∀ s : State,
    let c := s.chip
    let t := c.trace
    let sel := if c.fld 0x0F4 0x026 2 0 ≥ 6 then 0 else c.fld 0x0F4 0x026 2 0
    let put := fun (f : Nat → Oct) (d : Chip) => d.trace.wr = t.wr + 1 ∧ tget 0 d.trace.buf (t.wr % traceFrames) = f d.now
    c.trStream = false →
    (∀ src : Fin 6, src.val = sel → t.st = .run → Completes (.trigger src) s (fun d =>
      put (trigFrame src) d ∧ d.trace.st = .wake ∧ d.live 0x0F4 0x102 = t.wr % traceFrames ∧ c.Raises d 0x324))
    ∧ (∀ src : Fin 6, src.val = sel → t.st ≠ .run → Completes (.trigger src) s (fun d => d.trace = t
        ∧ d.fld 0x0F4 0x100 23 16 = Nat.min 0xFF (c.fld 0x0F4 0x100 23 16 + 1)))
    ∧ (t.st = .wake → Completes .wakeEnd s (fun d => put endFrame d ∧ d.trace.st = .stopped ∧ c.wakeUntil ≤ d.now
        ∧ c.Raises d 0x325))
    ∧ (∀ (u : Fin 67) (r : Requester) (x : Pair), c.MayWrite u 0x0F4 0x020 r → sel = 0 → t.st = .run →
        Completes (.traceFire u x) s (fun d => put (trigFrame 0) d ∧ d.trace.st = .wake ∧ c.Raises d 0x324
          ∧ d.live 0x0F4 0x020 = c.live 0x0F4 0x020))
    ∧ (∀ core : Fin 64, let e := c.enc core
      (e.lost ≠ 0 → e.frames.length ≤ 30 → e.words.length < 7 → Completes (.traceOverflow core) s (fun d =>
        (d.enc core).lost = 0 ∧ d.live 0x0F4 0x106 = Nat.min 0xFFFF_FFFF (c.live 0x0F4 0x106 + e.lost) ∧ c.Raises d 0x326))
      ∧ (∀ f fs, e.frames = f :: fs → (t.st = .run ∨ t.st = .wake) → Completes (.frameSend core) s (fun d =>
        put (fun _ => f) d ∧ d.enc core = { e with frames := fs })))

/-- R420, R421, R422, R423: a counter that counts past its limit reads 0 and shows OVF; its halves are read and loaded as one;
the block counters are copied at the end of their window, unless frozen; the snapshot copies every counter and may freeze them.
The model's choices it rests on: log entries 15, 16. -/
def Obligations.CountersCountAndAreCopied : Prop :=
  ∀ s : State,
    let c := s.chip
    (∀ (pi : Fin 72) (k : Fin 8), let pg := 0x020 + pi.val
      (bitN (c.live pg (0x140 + 2 * k)) 20 = true → c.pmFrozen = false → (c.pmService = true ∨ k.val % 2 = 1) →
        c.pmGet pi k < 2 ^ 48 → Completes (.counterOverflow pi k) s (fun d => d.pmGet pi k = 0
          ∧ d.fld pg (0x152 + 4 * k) 16 16 = 1 ∧ c.Raises d 0x327))
      ∧ (∀ (u : Fin 67) (r : Requester), c.Reaches u pg (0x150 + 4 * k) r → Completes (.pmcntRead u pi k) s (fun d =>
        d.reply = c.live pg (0x150 + 4 * k) ∧ d.bank pg (0x152 + 4 * k) u 0 = c.pmHigh pi k ∧ d.pmGet pi k = c.pmGet pi k))
      ∧ (∀ (u : Fin 67) (r : Requester) (lo hi : Pair), c.MayWrite u pg (0x150 + 4 * k) r → c.MayWrite u pg (0x152 + 4 * k) r →
        Completes (.pmcntWrite u pi k lo hi) s (fun d => d.pmGet pi k = lo.toNat + hi.toNat % 2 ^ 16 * 2 ^ 32
          ∧ d.fld pg (0x152 + 4 * k) 16 16 = if hi.toNat.testBit 16 then 0 else c.fld pg (0x152 + 4 * k) 16 16)))
    ∧ (c.pmFrozen = false → Completes .blockCounterWindowEnd s (fun d => d.blk = [] ∧ d.blkAt = c.blockUntil
        ∧ c.blockUntil ≤ d.now ∧ (∀ k, k < 32 → d.live 0x0F5 (0x140 + 2 * k) = tget 0 c.blk k
          ∧ d.live 0x0F5 (0x180 + 2 * k) = Nat.max (tget 0 c.blk k) (c.live 0x0F5 (0x180 + 2 * k)))))
    ∧ (c.pmFrozen = true → Completes .blockCounterWindowEnd s (fun d => d.blk = c.blk
        ∧ (∀ off, d.live 0x0F5 off = c.live 0x0F5 off)))
    ∧ (∀ (u : Fin 67) (r : Requester), c.MayWrite u 0x0F5 0x024 r →
      (∀ freeze : Bool, Completes (.snapshotArm u freeze) s (fun d => d.fld 0x0F5 0x102 0 0 = 1
        ∧ d.fld 0x0F5 0x024 1 1 = b2n freeze))
      ∧ Completes (.thaw u) s (fun d => d.fld 0x0F5 0x102 1 1 = 0))
    ∧ (c.fld 0x0F5 0x102 0 0 = 1 → Completes .finishSnapshot s (fun d =>
        (∀ pi k, pi < 72 → k < 8 → d.live (0x020 + pi) (0x170 + 4 * k) = c.live (0x020 + pi) (0x150 + 4 * k)
          ∧ d.live (0x020 + pi) (0x172 + 4 * k) = c.pmHigh pi k)
        ∧ (∀ k, k < 32 → d.live 0x0F5 (0x1C0 + 2 * k) = tget 0 c.blk k)
        ∧ d.fld 0x0F5 0x102 0 0 = 0 ∧ (c.fld 0x0F5 0x024 1 1 = 1 → d.pmFrozen = true) ∧ c.Raises d 0x328))

/-- R416: DIAG_WRITE writes and commits a register of TRC or PMC, and DIAG_READ copies registers or frames of the trace buffer
to the requester's buffer. The model's choices it rests on: log entry 30. -/
def Obligations.DiagnosisReachesTraceAndCounters : Prop :=
  ∀ (s : State) (q : Req) (slot : Nat),
    let c := s.chip
    (∀ (page off : Word) (x : Pair) (rd : RegD), c.Authorized q 0x90 ([page, off] ++ toWords 2 x.toNat) installer slot →
      regD (diagPage page.toNat) off.toNat = some rd →
      (page.toNat ≠ 0 → (off.toNat, .catch_) ∈ stagedOffs 0x0F5 → Completes (.diagWrite q page off x) s (fun d =>
        c.Posts d q 0x90 stDone [] ∧ tget 0 d.captured (regKey 0x0F5 off.toNat) = (x.toNat &&& rd.rw) + 1))
      ∧ (page.toNat = 0 → off.toNat < 0x030 → (off.toNat, .commit) ∈ stagedOffs 0x0F4 →
        Completes (.diagWrite q page off x) s (fun d => c.Posts d q 0x90 stDone []
          ∧ d.live 0x0F4 off.toNat = replaced 0x0F4 off.toNat (x.toNat &&& rd.rw))))
    ∧ (∀ (src : Word) (first count : Pair) (addr : Quad),
        let ops := src :: (toWords 2 first.toNat ++ toWords 2 count.toNat ++ toWords 4 addr.toNat)
        let n := count.toNat
        c.Authorized q 0x91 ops installer slot → n ≠ 0 → n ≤ 65536 → c.ownsRange (some q.party) addr.toNat n = true →
        addr.toNat + n ≤ qdrEnd →
        (src.toNat = 2 → first.toNat < traceFrames → Completes (.diagRead q src first count addr) s (fun d =>
          c.Posts d q 0x91 stDone [] ∧ c.KeepsBut d addr.toNat n ∧ (∀ i, 8 * (i + 1) ≤ n →
            readN d.mem (addr.toNat + 8 * i) 8 = (tget 0 c.trace.buf ((first.toNat + i) % traceFrames)).toNat)))
        ∧ (∀ a ws, src.toNat ≤ 1 →
          (c.accepted q slot 0x91 ops).diagRegs (diagPage src.toNat) first.toNat ((n + 1) / 2) = some (a, ws) →
          Completes (.diagRead q src first count addr) s (fun d => c.Posts d q 0x91 stDone []
            ∧ c.KeepsBut d addr.toNat n ∧ readN d.mem addr.toNat n = ofWords (ws.take n))))

/-! ### Clocks, power and reset (chapter "Clocks, Power, Reset and Start-Up") -/

/-- R7, R9, R434: after power-on reset TB reads 0, no plan is live, no core runs, no source is pending, external memory reads
0, each core stands on its own pipeline and array set, and the registers read their Reset column. The reset values the spec
leaves undefined are not stated. -/
def Obligations.ResetHoldsTheStatedValues : Prop :=
  let c := State.reset.chip
  State.reset.pending = [] ∧ c.now = 0 ∧ c.isLive = false ∧ c.bankA = {} ∧ c.bankB = {} ∧ c.strokeOn = false
  ∧ c.hub.pend = 0 ∧ c.hub.act = 0 ∧ c.power.st = .rom
  ∧ (∀ pi, c.pipe pi = {}) ∧ (∀ a, readByte c.mem a = 0)
  ∧ (∀ core : Fin 64, c.pipeOf core = some (9 * (core.val / 8) + core.val % 8)
      ∧ c.tmAddr core 0 = tightBase + (9 * (core.val / 8) + core.val % 8) * 0x1_0000)
  ∧ (∀ r ∈ ([(0x010, 0x020, 5, 2, 2), (0x020, 0x020, 9, 0, 80), (0x020, 0x020, 19, 10, 40), (0x020, 0x102, 19, 10, 1023),
      (0x070, 0x10A, 31, 0, 0xFFFF_FFFF), (0x0E0, 0x020, 1, 0, 2), (0x0E0, 0x022, 4, 1, 4), (0x0E8, 0x028, 7, 4, 5),
      (0x0E8, 0x02A, 7, 0, 255), (0x004, 0x020, 1, 0, 3), (0x004, 0x020, 10, 3, 248), (0x004, 0x020, 12, 11, 3),
      (0x0F3, 0x020, 9, 2, 16), (0x0F3, 0x100, 5, 3, 7), (0x0F4, 0x022, 15, 0, 100), (0x0F4, 0x024, 23, 0, 1000),
      (0x0F5, 0x026, 19, 0, 50000), (0x002, 0x020, 7, 0, 2), (0x120, 0x020, 5, 5, 1), (0x000, 0x104, 5, 3, 7),
      (0x003, 0x100, 2, 0, 0), (0x003, 0x102, 31, 0, 0)] : List (Nat × Nat × Nat × Nat × Nat)),
      c.fld r.1 r.2.1 r.2.2.1 r.2.2.2.1 = r.2.2.2.2)

/-- R7, R433 to R436, R466: POR leaves every register but the fused ones at its reset value; WARM clears the main domain and
keeps the always-on one and the contents of LPDDR, and ends the entry of a CHIP_RESET with DONE; each records its cause; a
reset of the test access port changes nothing else, and its device identification is IDCODE. The model's choices it rests on:
log entries 47, 48, 52, 71, 100. -/
def Obligations.ResetsClearTheChip : Prop :=
  ∀ s : State,
    let c := s.chip
    let warm := fun (cause : Nat) (d : Chip) => d.Cleared ∧ d.power.st = .startup ∧ d.power.ended = [0]
      ∧ d.fld 0x003 0x100 2 0 = cause ∧ d.fld 0x003 0x102 31 0 = Nat.min (2 ^ 32 - 1) (c.fld 0x003 0x102 31 0 + 1)
      ∧ (∀ a, 2 * lpdBase ≤ a → a < 2 * tightBase → readByte d.mem a = readByte c.mem a)
      ∧ d.roles.creds = c.roles.creds ∧ d.roles.ops = []
    let kept := fun (d : Chip) => d.roles.journal = c.roles.journal
    let runs := c.power.st = .startup ∨ c.power.st = .run ∨ c.power.st = .safe
    Completes .porReset s (fun d => d.Cleared ∧ d.mem = [] ∧ d.power.st = .rom ∧ d.power.ended = []
        ∧ d.roles.journal = c.roles.journal ∧ d.power.tap = c.power.tap
        ∧ d.roles.creds = (if c.fld 0x000 0x104 5 3 = 3 then [] else c.roles.creds) ∧ d.credstat = 0
        ∧ (c.fld 0x000 0x104 5 3 ≠ 7 → d.lifecycle = c.fld 0x000 0x104 5 3)
        ∧ (∀ pg off, off < 0x800 → keptReg (regKey pg off) = false → d.live pg off = regReset pg off))
    ∧ (runs → c.power.faultDue = false → c.power.resetDue = none → Completes .warmReset s (fun d => warm 1 d ∧ kept d))
    ∧ (runs → c.power.faultDue = true → Completes .warmReset s (fun d => (warm 1 d ∨ warm 4 d) ∧ kept d))
    ∧ (∀ t, runs → c.power.faultDue = false → c.power.resetDue = some t →
        Completes .warmReset s (fun d => (warm 1 d ∧ kept d) ∨ (warm 2 d ∧ t ≤ d.now))
        ∧ (t ≤ c.now → Completes .warmReset s (warm 2))
        ∧ (∀ (o : LongOp) (n : Nat), t ≤ c.now → c.roles.ops = [o] → o.code = 0xA0 → o.jseq = some n → n < c.roles.jseq →
            (tget {} c.roles.journal (n % journalRing)).seq = n →
            Completes .warmReset s (fun d => (tget {} d.roles.journal (n % journalRing)).status = stDone)))
    ∧ (runs → Completes .firmwareWatchdogExpiry s (fun d => warm 3 d ∧ kept d))
    ∧ (∀ (q : Req) (slot : Nat), c.Authorized q 0xA0 [0] installer slot → Completes (.chipReset q) s (fun d =>
        d.power = { c.power with resetDue := some (c.now + 1000000) } ∧ d.lane.recs = c.lane.recs
        ∧ (d.opOf 0xA0 0).isSome = true))
    ∧ Completes .tapReset s (fun d => d = c.setTap {}
        ∧ (d.tapScan (.dr (List.replicate 32 false))).tap.tdo = bitList 32 0xB6400F9D)
    ∧ (∀ scan : TapScan, c.tapScan scan = { c.setTap (c.tapScan scan).tap with free := (c.tapScan scan).free })

/-- R427: in every state in which the clock monitors are armed the loss of a clock is recorded and stops what runs on it; a
SerDes PLL that locks again lets its ports train. -/
def Obligations.ClockFaultsAreAnswered : Prop :=
  ∀ s : State,
    let c := s.chip
    (c.monitored = false → ∀ k, Completes (.clockFault k) s (fun d => d = c))
    ∧ (c.monitored = true →
    Completes (.clockFault 0) s (fun d => d.fld 0x001 0x100 1 0 = 2 ∧ d.pipes = [] ∧ d.strokeOn = false
        ∧ d.power.faultDue = true ∧ (c.fld 0x001 0x102 3 3 = 0 → d.fld 0x001 0x102 3 0 = 8))
    ∧ (∀ k : Fin 7, 1 ≤ k.val → k.val ≤ 4 → Completes (.clockFault k) s (fun d => d.Cleared ∧ d.power.st = .startup
        ∧ d.power.ended = [0] ∧ d.fld 0x003 0x100 2 0 = 4))
    ∧ Completes (.clockFault 5) s (fun d => d.fld 0x001 0x100 6 6 = 0 ∧ d.power.st = c.power.st
        ∧ (∀ k, k < 2 → d.pltLink k = false ∧ d.fld (pltPage k) 0x100 2 1 = 3
            ∧ (c.pltLink k = true → c.Raises d (0x300 + 4 * k))))
    ∧ Completes (.clockFault 6) s (fun d => d.fld 0x001 0x100 7 7 = 0 ∧ d.power.st = c.power.st
        ∧ (c.inGo = true → d.pair.st = .silent ∧ d.pair.cause = 6))
    ∧ (c.fld 0x001 0x100 6 6 = 0 → Completes (.serdesPllRelock false true) s (fun d => d.fld 0x001 0x100 6 6 = 1
        ∧ (∀ k, k < 2 → d.fld (pltPage k) 0x100 2 1
            = (if c.fld (pltPage k) 0x100 2 1 = 3 then 1 else c.fld (pltPage k) 0x100 2 1)
          ∧ (c.fld (pltPage k) 0x100 2 1 = 3 → (d.pport k).trainAt = c.now))))
    ∧ (c.fld 0x001 0x100 7 7 = 0 → Completes (.serdesPllRelock true true) s (fun d =>
        d = c.setFld 0x001 0x100 7 7 1)))

/-- R337, R428 to R432, R461, R462: power that fails ends in holdover with LPDDR kept in self-refresh and the instant recorded;
its return resumes start-up at CLOCKS, records the entry and its duration, and ends a command it cut short with INTERRUPTED;
the loss of a backup rail resets the chip or ends the holdover with LPDDR poisoned; SAFE tries again from FLASH. The model's
choices it rests on: log entries 51, 52, 54. -/
def Obligations.HoldoverKeepsLpddr : Prop :=
  ∀ s : State,
    let c := s.chip
    let held := fun d : Chip => d.Cleared ∧ d.power.st = .holdover ∧ d.power.pfail = true ∧ d.power.ended = []
      ∧ d.live 0x002 0x102 = c.now % 2 ^ 32 ∧ d.live 0x002 0x104 = c.now / 2 ^ 32 % 2 ^ 32
      ∧ (d.lp 0).st = (if (c.lp 0).st = .live ∨ (c.lp 0).st = .hold then .hold else .down)
      ∧ (c.trStream = false → ∀ a, 2 * lpdBase ≤ a → a < 2 * tightBase → readByte d.mem a = readByte c.mem a)
      ∧ d.roles.creds = c.roles.creds ∧ d.roles.ops = c.roles.ops ∧ d.roles.journal = c.roles.journal
    let t := c.live 0x002 0x102 + c.live 0x002 0x104 * 2 ^ 32
    let ms := Nat.min 0xFFFF_FFFF ((c.now - t) / 1000000)
    let resumed := fun d : Chip => d.Cleared ∧ d.power.st = .startup ∧ d.power.ended = [0, 1, 2, 3]
      ∧ d.fld 0x003 0x100 2 0 = 5 ∧ d.live 0x002 0x106 = ms ∧ d.roles.ops = []
      ∧ (∃ e, d.roles.newest = some e ∧ e.kind = 1 ∧ e.digest = sha384 (toWords 4 t ++ toWords 2 ms))
    ((c.power.st = .startup ∨ c.power.st = .run) → Completes .holdoverEntry s held
      ∧ (∀ k : Fin 3, Completes (.powerGoodFall k) s (fun d => held d ∧ (k = 0 → d.power.pgCore = false)
          ∧ (k = 1 → d.power.pgSer = false) ∧ (k = 2 → d.power.pgIo = false))))
    ∧ (c.power.st = .holdover → Completes .holdoverExit s (fun d => resumed d ∧ d.power.pfail = false
        ∧ (∀ k, d.lp k = c.lp k)
        ∧ (∀ (o : LongOp) (n : Nat), c.roles.ops = [o] → o.jseq = some n → n < c.roles.jseq → c.roles.jseq < n + journalRing →
            (tget {} c.roles.journal (n % journalRing)).seq = n →
            (tget {} d.roles.journal (n % journalRing)).status = stInterrupted)))
    ∧ (c.power.st = .holdover → Completes (.backupRailLoss true) s (fun d => d.power.st = .rom ∧ d.mem = []))
    ∧ (c.power.st = .holdover → Completes (.backupRailLoss false) s (fun d => resumed d ∧ d.power.retained = []
        ∧ (∀ k, k < 2 → (d.lp k).lost = 0xFF ∧ (d.lp k).segQ = (c.lp 0).segQ)))
    ∧ (c.power.st = .safe → Completes .safeRetry s (fun d => d.power.st = .startup ∧ d.power.ended = [0] ∧ d.mem = c.mem))

/-- R359, R428, R434, R439, R440: the steps ROM to CLOCKS read the fuses, the copy of the directory with a valid CRC and the
higher SEQ, a firmware image that verifies, the pending slot first, the credentials and BOOTPARM where an installer signed it,
and lock the clocks; one that fails leads to SAFE. The model's choices it rests on: log entries 11, 46. -/
def Obligations.StartUpReachesItsClocks : Prop :=
  ∀ s : State,
    let c := s.chip
    (c.stepRuns 0 = true → ∀ f : Fuses, c.power.fused = false → f.lifecycle ≠ 4 → Completes (.stepRom true f) s (fun d =>
      c.StepEnded d 0 stDone 0 ∧ d.power.st = .startup ∧ d.live 0 0x100 = f.uid.toNat % 2 ^ 32 ∧ d.lifecycle = f.lifecycle
      ∧ d.roles.maker = ⟨3, f.makerKey.toNat, f.makerX.toNat, f.makerY.toNat, 0⟩))
    ∧ (∀ f : FlashRead, c.stepRuns 1 = true →
        let a := f.copy0
        let b := f.copy1
        let takes := fun x : DirCopy => Completes (.stepFlash f) s (fun d =>
          c.StepEnded d 1 stDone 0 ∧ d.power.st = c.power.st ∧ d.power.dirRead = true
          ∧ (c.power.dirRead = false → d.power.fwActive = x.active ∧ d.power.fwPend = x.pending.map Fin.val)
          ∧ (c.power.dirRead = true → d.power.fwActive = c.power.fwActive ∧ d.power.fwPend = c.power.fwPend))
        (f.ok = true → a.crcOk = true → (b.crcOk = false ∨ b.seq ≤ a.seq) → takes a)
        ∧ (f.ok = true → b.crcOk = true → (a.crcOk = false ∨ a.seq < b.seq) → takes b)
        ∧ ((f.ok = false ∨ (a.crcOk = false ∧ b.crcOk = false)) → Completes (.stepFlash f) s (fun d =>
            c.StepEnded d 1 stFailed 0 ∧ d.power.st = .safe)))
    ∧ (c.stepRuns 2 = true → c.afterPor = true → ∀ a b : List Word,
        let good := fun k => c.signedBy 3 (c.fwSlot k a b)
        let act := c.power.fwActive
        let runs := fun k => Completes (.stepFirmware a b) s (fun d => c.StepEnded d 2 stDone 0
          ∧ d.power.wmLaunch = watermark (c.fwSlot k a b) ∧ d.power.fwActive = k ∧ d.power.fwPend = none)
        (∀ k, c.power.fwPend = some k → good k = true → runs k)
        ∧ ((∀ k, c.power.fwPend = some k → good k = false) →
          (good act = true → runs act)
          ∧ (good act = false → good (1 - act) = true → runs (1 - act))
          ∧ (good act = false → good (1 - act) = false → Completes (.stepFirmware a b) s (fun d =>
              c.StepEnded d 2 stFailed 0 ∧ d.power.st = .safe))))
    ∧ (c.stepRuns 3 = true → ∀ b : BootCreds, b.chainOk = true →
        (c.power.credsRead = false → b.slots.length = 16 →
          Completes (.stepCredentials b) s (fun d => c.StepEnded d 3 stDone 0 ∧ d.roles.partner = b.partner.toNat
            ∧ (∀ (k : Nat) (x : CredSet), b.slots[k]? = some x →
                d.cred k = ⟨x.role, x.keyId.toNat, x.x.toNat, x.y.toNat, 0⟩)))
        ∧ (c.power.credsRead = true → Completes (.stepCredentials b) s (fun d => c.StepEnded d 3 stDone 0
            ∧ d.roles.creds = c.roles.creds ∧ d.roles.partner = c.roles.partner
            ∧ d.live 0x007 0x102 = c.roles.oppol % 2 ^ 32 ∧ d.live 0x007 0x106 = c.roles.roleCfg
            ∧ d.live 0x005 0x112
                = if c.signedBy 2 b.parm then b.twait.toNat + b.pwait.toNat * 2 ^ 16 else c.live 0x005 0x112)))
    ∧ (c.stepRuns 4 = true → Completes (.stepClocks 0x3F) s (fun d => c.StepEnded d 4 stDone 0 ∧ d.fld 0x001 0x100 7 0 = 253)
      ∧ Completes (.stepClocks 0x3E) s (fun d => c.StepEnded d 4 stFailed 0 ∧ d.power.st = .safe))

/-- R331, R340, R352, R371, R383, R434, R439, R440: the steps QDR to PLANT train and zero the channels, train both controllers,
but not LPD1 with masks of its own, measure the world images, apply a port table that an installer signed and set TB. The
model's choices it rests on: log entries 4, 11, 46, 97. -/
def Obligations.StartUpReachesItsPorts : Prop :=
  ∀ s : State,
    let c := s.chip
    (c.stepRuns 5 = true → Completes (.stepQdr 0xF) s (fun d => c.StepEnded d 5 stDone 0 ∧ (∀ ch, ch < 4 → (d.qd ch).st = .live)
        ∧ d.ext.qpoison = [] ∧ d.ext.qbad = []
        ∧ (∀ a, readByte d.mem a = if a < 2 * qdrEnd then 0 else readByte c.mem a))
      ∧ (∀ i : Fin 4, Completes (.stepQdr (0xF - BitVec.ofNat 4 (2 ^ i.val))) s (fun d => c.StepEnded d 5 stFailed i
          ∧ (d.qd i).st = .failed ∧ d.power.st = .safe)))
    ∧ (c.stepRuns 6 = true → c.afterPor = true →
      ((c.loadTraining (lpdPage 0)).masksDiffer 1 = false → Completes (.stepLpddr 3) s (fun d => c.StepEnded d 6 stDone 0
        ∧ (d.lp 0).st = .live ∧ (d.lp 1).st = .live ∧ d.ext.enc = [] ∧ d.ext.keys = 7
        ∧ (∀ a, 2 * lpdBase ≤ a → a < 2 * devBase → readByte d.mem a = 0)))
      ∧ ((c.loadTraining (lpdPage 0)).masksDiffer 1 = true → Completes (.stepLpddr 3) s (fun d =>
        c.StepEnded d 6 stPartial 1 ∧ (d.lp 0).st = .live ∧ (d.lp 1).st = .down))
      ∧ Completes (.stepLpddr 0) s (fun d => c.StepEnded d 6 stFailed 0 ∧ d.power.st = .safe))
    ∧ (c.stepRuns 7 = true → c.afterPor = true → ∀ web deckle : List Word,
        imageForm false web = true → c.signedBy 2 web = true → imageForm true deckle = true → c.signedBy 2 deckle = true →
        Completes (.stepWorlds web deckle) s (fun d => c.StepEnded d 7 stDone 0 ∧ d.web.st = .starting ∧ d.web.img = web
          ∧ d.web.wm = watermark web ∧ d.deckle.st = .starting ∧ d.deckle.img = deckle ∧ d.deckle.wm = watermark deckle))
    ∧ (c.stepRuns 8 = true → ∀ (ws : List Word) (f : FieldSet),
        (c.signedBy 2 ws = true → Completes (.stepField ⟨ws, [f]⟩) s (fun d => c.StepEnded d 8 stDone 0
          ∧ d.live (fpPage f.port) 0x030 = f.p0.toNat % 2 ^ 26 ∧ d.live (fpPage f.port) 0x032 = f.p1.toNat
          ∧ d.live (fpPage f.port) 0x034 = f.p2.toNat))
        ∧ (c.signedBy 2 ws = false → Completes (.stepField ⟨ws, [f]⟩) s (fun d => c.StepEnded d 8 stDone 0
          ∧ d.fp = c.fp ∧ (∀ off, d.live (fpPage f.port) off = c.live (fpPage f.port) off))))
    ∧ (c.stepRuns 9 = true → ∀ tb : Quad, let now := c.fld 0x004 0x100 1 0
        let src := if now = 0 ∧ (c.pair.st = .attention ∨ c.inGo = true) then 2 else now
        (∀ k, k < 2 → c.fld (pltPage k) 0x020 1 1 = 0 ∨ c.pltLink k = true) →
        (c.fld 0x004 0x100 3 3 = 1 ∨ c.pair.st = .attention ∨ c.inGo = true) →
        Completes (.stepPlant tb) s (fun d => c.StepEnded d 9 stDone 0 ∧ d.live 0x005 0x18E = src
          ∧ (src ≠ 0 → c.planHolds = false → d.now = Nat.max c.now tb.toNat)))

/-- R428, R441, R443, R444: ADMIT takes the first plan that is admitted or leads to SAFE; PAIR ends; RELEASE arms the first
catch at least 1 ms ahead, or takes the one the chips have named. The model's choices it rests on: log entries 42, 50. -/
def Obligations.StartUpReleasesThePlan : Prop :=
  ∀ s : State,
    let c := s.chip
    (c.stepRuns 10 = true → ∀ image : List Word, let ws := (c.firstImage image).1
      (c.planFault ws true = none → Completes (.stepAdmit image) s (fun d => c.StepEnded d 10 stDone 0
        ∧ d.bankA = ⟨.admitted, some (readPlan ws), ws⟩ ∧ d.isLive = c.isLive
        ∧ (∀ e, e < 8 → (readPlan ws).usesEight e = true → (c.eight e).pwr = .gated → (d.eight e).pwr = .up)))
      ∧ (∀ code x y, c.planFault ws true = some (code, x, y) → Completes (.stepAdmit image) s (fun d =>
        c.StepEnded d 10 stFailed code ∧ d.power.st = .safe ∧ d.bankA = c.bankA)))
    ∧ (c.stepRuns 11 = true →
      ((c.fld 0x005 0x114 0 0 = 0 ∨ c.inGo = true ∨ c.pair.goAt.isSome = true) →
        Completes .stepPair s (fun d => c.StepEnded d 11 stDone 0))
      ∧ (c.fld 0x005 0x114 0 0 = 1 → c.pair.goAt = none → c.inGo = false → Completes .stepPair s (fun d =>
        c.StepEnded d 11 stPartial 0)))
    ∧ (∀ p, c.stepRuns 12 = true → c.bankA.plan = some p → c.power.releasing = false → c.pair.goAt = none →
        p.stroke ≠ 0 → (∀ e, e < 8 → p.usesEight e = true → (c.eight e).pwr = .on) →
        Completes .stepRelease s (fun d => d.power.releasing = true ∧ d.bankA = { c.bankA with st := .armed }
          ∧ d.pair.active = true ∧ (∃ t, d.armedAt = some t ∧ c.now + 1000000 ≤ t ∧ p.epoch ≤ t
            ∧ (t - p.epoch) % (p.stroke * 1000) = 0)))
    ∧ (∀ p g t, c.stepRuns 12 = true → c.bankA.plan = some p → c.power.releasing = false → c.pair.goAt = some g →
        c.armedAt = some t → p.stroke ≠ 0 → (∀ e, e < 8 → p.usesEight e = true → (c.eight e).pwr = .on) →
        (c.pair.active = false ∨ c.now + 1000000 ≤ t → Completes .stepRelease s (fun d => d.power.releasing = true
          ∧ d.armedAt = some t ∧ d.pair = c.pair))
        ∧ (c.pair.active = true → t < c.now + 1000000 → Completes .stepRelease s (fun d => d.power.releasing = true
          ∧ (∃ u, d.armedAt = some u ∧ d.pair.goAt = some u ∧ c.now + 1000000 ≤ u))))

/-! ### Register space (chapter "Address Map and Register Spaces") -/

/-- R4, R360, R450 to R454: GO captures the staged set; a captured register loads at its safe point; ERRINJ arms one injection;
a read clears RC fields; a write sets RW bits, clears W1C bits, or reaches the staged copy; a reserved offset sets BADOFF. The
model's choices it rests on: log entries 15, 16. -/
def Obligations.RegistersFollowTheirCodes : Prop :=
  ∀ s : State,
    let c := s.chip
    (∀ (u : Fin 67) (page : Fin 512) (r : Requester), c.MayWrite u page 0x00C r → (page ≠ 6 ∨ r.party = none) →
      ∀ (off : Nat) (sp : SafePt), (off, sp) ∈ stagedOffs page → trcBanked page off = false → c.loadsNow sp = false →
        Completes (.commitGo u page) s (fun d => tget 0 d.captured (regKey page off) = c.stagedVal page off + 1
          ∧ d.live page off = c.live page off))
    ∧ (∀ (page : Fin 512) (off v : Nat), (off, .catch_) ∈ stagedOffs page → page.val ≠ 0x0E8 → page.val ≠ 0x0E9 →
        tget 0 c.captured (regKey page off) = v + 1 →
        let at_ := (tget ({} : Capture) c.caps page).at_
        (at_ + 20 ≤ c.now → Completes (.safePointLoad page .catch_) s (fun d =>
          d.live page off = replaced page off v ∧ tget 0 d.captured (regKey page off) = 0))
        ∧ (c.now < at_ + 20 → Completes (.safePointLoad page .catch_) s (fun d =>
          tget 0 d.captured (regKey page off) = v + 1 ∧ d.live page off = c.live page off)))
    ∧ (∀ (u : Fin 67) (page : Fin 512) (kind : Fin 4) (r : Requester), c.MayWrite u page 0x012 r → c.debugOpen = true →
        (u.val = 64 ∨ u.val = 66) → (page.val < 0x100 ∨ 0x120 ≤ page.val) → (pageBlk page).isSome = true → kind ≠ 3 →
        Completes (.errinjArm u page kind) s (fun d => d.live page 0x012 = 2 * kind + 2 ^ 7 + u * 2 ^ 8
          ∧ d.armed page = some kind.val))
    ∧ (∀ (u : Fin 67) (page : Fin 512) (off : Fin 2048) (r : Requester) (rd : RegD), c.Reaches u page off r →
        regD page off = some rd → rd.isStaged = false → (page.val < 0x020 ∨ 0x0E0 ≤ page.val) →
        (off.val < 0x400 ∨ (0x100 ≤ page.val ∧ page.val < 0x120)) →
        (u.val ≤ 64 ∨ inWindow page off = false) →
        Completes (.rcRead u page off) s (fun d => d.reply = c.regView r page off
          ∧ d.live page off = if c.windowOnly r page then c.live page off
              else c.live page off - (c.live page off &&& rd.rc)))
    ∧ (∀ (u : Fin 67) (page : Fin 512) (off : Fin 2048) (x : Pair) (r : Requester), c.MayWrite u page off r →
        (page.val = 0x007 ∨ (0x010 ≤ page.val ∧ page.val < 0x018) ∨ page.val = 0x073 ∨ (0x080 ≤ page.val ∧ page.val < 0x084)
          ∨ (0x0E0 ≤ page.val ∧ page.val < 0x0F4)) →
        (∀ rd, regD page off = some rd → rd.isStaged = false → 0x016 ≤ off.val → off.val < 0x400 →
          Completes (.registerWrite u page off x) s (fun d => ∀ i, (d.live page off).testBit i =
            if rd.rw.testBit i then x.toNat.testBit i
            else (c.live page off).testBit i && !(rd.w1c.testBit i && x.toNat.testBit i)))
        ∧ (∀ rd, regD page off = some rd → rd.isStaged = true → off.val ≠ 0x020 → off.val < 0x400 →
          Completes (.registerWrite u page off x) s
            (fun d => d.stagedVal page off = x.toNat &&& rd.rw ∧ d.live page off = c.live page off))
        ∧ (regD page off = none → off.val < 0x400 → Completes (.registerWrite u page off x) s (fun d =>
            bitN (d.live page 0x00E) 1 = true ∧ d.mem = c.mem)))
end

