-- ==== Sys2Proof/Laws/Table.lean ====
section
/-! SUPPORT. The laws of the sparse tables: a read after a write, and that every table operation keeps the canonical form. -/

namespace Sys2Proof.Machine

variable {α : Type}

/-- A table's keys rise and none holds what an unlisted key reads as. -/
theorem twf_iff [DecidableEq α] (d : α) (t : Tbl α) :
    twf d t = true ↔ (∀ e ∈ t, e.2 ≠ d) ∧ t.Pairwise (fun a b => a.1 < b.1) := by
  simp [twf]

@[simp] theorem twf_nil [DecidableEq α] (d : α) : twf d ([] : Tbl α) = true := by simp [twf_iff]

theorem mem_terase (t : Tbl α) (k : Nat) (e : Nat × α) : e ∈ terase t k ↔ e ∈ t ∧ e.1 ≠ k := by
  induction t with
  | nil => simp [terase]
  | cons x t ih =>
    obtain ⟨j, y⟩ := x
    by_cases h : j = k
    · subst h
      simp only [terase, if_true, ih, List.mem_cons]
      constructor
      · rintro ⟨h1, h2⟩; exact ⟨.inr h1, h2⟩
      · rintro ⟨rfl | h1, h2⟩
        · exact absurd rfl h2
        · exact ⟨h1, h2⟩
    · simp only [terase, if_neg h, List.mem_cons, ih]
      constructor
      · rintro (rfl | ⟨h1, h2⟩)
        · exact ⟨.inl rfl, h⟩
        · exact ⟨.inr h1, h2⟩
      · rintro ⟨rfl | h1, h2⟩
        · exact .inl rfl
        · exact .inr ⟨h1, h2⟩

theorem pairwise_terase (t : Tbl α) (k : Nat) (h : t.Pairwise (fun a b => a.1 < b.1)) :
    (terase t k).Pairwise (fun a b => a.1 < b.1) := by
  induction t with
  | nil => simp [terase]
  | cons x t ih =>
    obtain ⟨j, y⟩ := x
    rw [List.pairwise_cons] at h
    by_cases hk : j = k
    · simpa [terase, hk] using ih h.2
    · simp only [terase, if_neg hk, List.pairwise_cons]
      exact ⟨fun e he => h.1 e ((mem_terase t k e).1 he).1, ih h.2⟩

theorem mem_tinsert (t : Tbl α) (k : Nat) (v : α) (e : Nat × α) : e ∈ tinsert t k v ↔ e = (k, v) ∨ e ∈ t := by
  induction t with
  | nil => simp [tinsert]
  | cons x t ih =>
    obtain ⟨j, y⟩ := x
    by_cases h : k < j
    · simp [tinsert, h]
    · simp only [tinsert, if_neg h, List.mem_cons, ih]
      exact or_left_comm

theorem pairwise_tinsert (t : Tbl α) (k : Nat) (v : α) (h : t.Pairwise (fun a b => a.1 < b.1))
    (hk : ∀ e ∈ t, e.1 ≠ k) : (tinsert t k v).Pairwise (fun a b => a.1 < b.1) := by
  induction t with
  | nil => simp [tinsert]
  | cons x t ih =>
    obtain ⟨j, y⟩ := x
    rw [List.pairwise_cons] at h
    have hj : j ≠ k := hk (j, y) (by simp)
    by_cases hlt : k < j
    · simp only [tinsert, if_pos hlt, List.pairwise_cons, List.mem_cons]
      refine ⟨?_, h.1, h.2⟩
      rintro e (rfl | he)
      · exact hlt
      · exact Nat.lt_trans hlt (h.1 e he)
    · simp only [tinsert, if_neg hlt, List.pairwise_cons]
      refine ⟨fun e he => ?_, ih h.2 (fun e he => hk e (by simp [he]))⟩
      rcases (mem_tinsert t k v e).1 he with rfl | he
      · show j < k; omega
      · exact h.1 e he

/-- A write keeps the canonical form. -/
theorem twf_tset [DecidableEq α] (d : α) (t : Tbl α) (k : Nat) (v : α) (h : twf d t = true) : twf d (tset d t k v) = true := by
  rw [twf_iff] at h ⊢
  obtain ⟨h1, h2⟩ := h
  unfold tset
  split
  · exact ⟨fun e he => h1 e ((mem_terase t k e).1 he).1, pairwise_terase t k h2⟩
  · refine ⟨fun e he => ?_, pairwise_tinsert _ k v (pairwise_terase t k h2) (fun e he => ((mem_terase t k e).1 he).2)⟩
    rcases (mem_tinsert _ k v e).1 he with rfl | he
    · assumption
    · exact h1 e ((mem_terase t k e).1 he).1

/-- Leaving pairs out keeps the canonical form. -/
theorem twf_filter [DecidableEq α] (d : α) (t : Tbl α) (p : Nat × α → Bool) (h : twf d t = true) :
    twf d (t.filter p) = true := by
  rw [twf_iff] at h ⊢
  exact ⟨fun e he => h.1 e (List.mem_filter.1 he).1, h.2.filter p⟩

/-- Clearing a range keeps the canonical form. -/
theorem twf_tclear [DecidableEq α] (d : α) (t : Tbl α) (lo n : Nat) (h : twf d t = true) : twf d (tclear t lo n) = true :=
  twf_filter d t _ h

/-- Replacing a range by pairs in canonical form that lie within it keeps the canonical form. -/
theorem twf_tsplice [DecidableEq α] (d : α) (t xs : Tbl α) (lo n : Nat) (h : twf d t = true) (hx : twf d xs = true)
    (hr : ∀ e ∈ xs, lo ≤ e.1 ∧ e.1 < lo + n) : twf d (tsplice t lo n xs) = true := by
  have h1 := (twf_iff d _).1 (twf_filter d t (fun e => e.1 < lo) h)
  have h2 := (twf_iff d _).1 (twf_filter d t (fun e => lo + n ≤ e.1) h)
  rw [twf_iff] at hx
  unfold tsplice
  rw [twf_iff]
  constructor
  · intro e he
    simp only [List.append_assoc, List.mem_append] at he
    rcases he with he | he | he
    · exact h1.1 e he
    · exact hx.1 e he
    · exact h2.1 e he
  · rw [List.pairwise_append, List.pairwise_append]
    refine ⟨⟨h1.2, hx.2, fun a ha b hb => ?_⟩, h2.2, fun a ha b hb => ?_⟩
    · have := List.mem_filter.1 ha
      have := hr b hb
      simp at *; omega
    · have hb' := List.mem_filter.1 hb
      rcases List.mem_append.1 ha with ha | ha
      · have := List.mem_filter.1 ha
        simp at *; omega
      · have := hr a ha
        simp at *; omega

/-- Copying a range keeps the canonical form. -/
theorem twf_tcopy [DecidableEq α] (d : α) (t : Tbl α) (src dst n : Nat) (h : twf d t = true) :
    twf d (tcopy t src dst n) = true := by
  have h1 := (twf_iff d _).1 (twf_filter d t (fun e => src ≤ e.1 && e.1 < src + n) h)
  refine twf_tsplice d t _ dst n h ?_ ?_
  · rw [twf_iff]
    refine ⟨fun e he => ?_, ?_⟩
    · obtain ⟨x, hx, rfl⟩ := List.mem_map.1 he
      exact h1.1 x hx
    · rw [List.pairwise_map]
      refine h1.2.imp_of_mem (fun {a b} ha hb hab => ?_)
      have ha' := (List.mem_filter.1 ha).2
      have hb' := (List.mem_filter.1 hb).2
      simp at ha' hb' ⊢; omega
  · intro e he
    obtain ⟨x, hx, rfl⟩ := List.mem_map.1 he
    have hx' := (List.mem_filter.1 hx).2
    simp at hx' ⊢; omega

/-! ### Reads after writes -/

theorem tget_terase_self (d : α) (t : Tbl α) (k : Nat) : tget d (terase t k) k = d := by
  induction t with
  | nil => rfl
  | cons x t ih =>
    obtain ⟨j, y⟩ := x
    by_cases h : j = k
    · simp [terase, h, ih]
    · simp [terase, tget, h, ih]

theorem tget_terase_ne (d : α) (t : Tbl α) (k i : Nat) (hi : i ≠ k) : tget d (terase t k) i = tget d t i := by
  induction t with
  | nil => rfl
  | cons x t ih =>
    obtain ⟨j, y⟩ := x
    by_cases h : j = k
    · have hne : ¬ j = i := fun e => hi (by omega)
      simp only [terase, if_pos h, tget, if_neg hne, ih]
    · simp only [terase, if_neg h, tget, ih]

theorem tget_tinsert_self (d : α) (t : Tbl α) (k : Nat) (v : α) (hk : ∀ e ∈ t, e.1 ≠ k) : tget d (tinsert t k v) k = v := by
  induction t with
  | nil => simp [tinsert, tget]
  | cons x t ih =>
    obtain ⟨j, y⟩ := x
    have hj : j ≠ k := hk (j, y) (by simp)
    by_cases h : k < j
    · simp [tinsert, h, tget]
    · simp only [tinsert, if_neg h, tget, if_neg hj]
      exact ih (fun e he => hk e (by simp [he]))

theorem tget_tinsert_ne (d : α) (t : Tbl α) (k i : Nat) (v : α) (hi : i ≠ k) : tget d (tinsert t k v) i = tget d t i := by
  induction t with
  | nil => simp only [tinsert, tget, if_neg (Ne.symm hi)]
  | cons x t ih =>
    obtain ⟨j, y⟩ := x
    have hne : ¬ k = i := fun e => hi e.symm
    by_cases h : k < j
    · simp only [tinsert, if_pos h, tget, if_neg hne]
    · simp only [tinsert, if_neg h, tget, ih]

/-- A read of the key just written gives the value written. -/
@[simp] theorem tget_tset_self [DecidableEq α] (d : α) (t : Tbl α) (k : Nat) (v : α) : tget d (tset d t k v) k = v := by
  unfold tset
  split
  · rw [tget_terase_self]; exact Eq.symm ‹_›
  · exact tget_tinsert_self d _ k v (fun e he => ((mem_terase t k e).1 he).2)

/-- A write leaves every other key alone. -/
theorem tget_tset_ne [DecidableEq α] (d : α) (t : Tbl α) (k i : Nat) (v : α) (hi : i ≠ k) :
    tget d (tset d t k v) i = tget d t i := by
  unfold tset
  split
  · exact tget_terase_ne d t k i hi
  · rw [tget_tinsert_ne d _ k i v hi, tget_terase_ne d t k i hi]

/-- The same where the write was made by another value of unlisted keys. -/
theorem tget_tset_ne_of [DecidableEq α] (d d' : α) (t : Tbl α) (k i : Nat) (v : α) (hi : i ≠ k) :
    tget d (tset d' t k v) i = tget d t i := by
  unfold tset
  split
  · exact tget_terase_ne d t k i hi
  · rw [tget_tinsert_ne d _ k i v hi, tget_terase_ne d t k i hi]

/-- A read after a write, whichever the keys. -/
theorem tget_tset [DecidableEq α] (d : α) (t : Tbl α) (k i : Nat) (v : α) :
    tget d (tset d t k v) i = if i = k then v else tget d t i := by
  split
  · subst i; exact tget_tset_self d t k v
  · exact tget_tset_ne d t k i v ‹_›

/-- An entry of a table in canonical form is what a read of its key gives. -/
theorem tget_of_mem (d : α) (t : Tbl α) (e : Nat × α) (h : t.Pairwise (fun a b => a.1 < b.1)) (he : e ∈ t) :
    tget d t e.1 = e.2 := by
  induction t with
  | nil => simp at he
  | cons x t ih =>
    obtain ⟨j, y⟩ := x
    rw [List.pairwise_cons] at h
    rcases List.mem_cons.1 he with rfl | he
    · simp [tget]
    · have hlt := h.1 e he
      have hne : ¬ j = e.1 := by simp at hlt; omega
      simp only [tget, if_neg hne]
      exact ih h.2 he

/-- A key that no entry has reads as the default. -/
theorem tget_of_not_mem (d : α) (t : Tbl α) (k : Nat) (h : ∀ e ∈ t, e.1 ≠ k) : tget d t k = d := by
  induction t with
  | nil => rfl
  | cons x t ih =>
    obtain ⟨j, y⟩ := x
    have hj : ¬ j = k := h (j, y) (by simp)
    simp only [tget, if_neg hj]
    exact ih (fun e he => h e (by simp [he]))

/-- Tables in canonical form that read alike are equal. -/
theorem tbl_ext [DecidableEq α] (d : α) (t u : Tbl α) (ht : twf d t = true) (hu : twf d u = true)
    (h : ∀ k, tget d t k = tget d u k) : t = u := by
  rw [twf_iff] at ht hu
  induction t generalizing u with
  | nil =>
    cases u with
    | nil => rfl
    | cons y u =>
      have := h y.1
      rw [tget_of_mem d (y :: u) y hu.2 (by simp)] at this
      exact absurd this.symm (hu.1 y (by simp))
  | cons x t ih =>
    cases u with
    | nil =>
      have := h x.1
      rw [tget_of_mem d (x :: t) x ht.2 (by simp)] at this
      exact absurd this (ht.1 x (by simp))
    | cons y u =>
      have hx := h x.1
      rw [tget_of_mem d (x :: t) x ht.2 (by simp)] at hx
      have hy := h y.1
      rw [tget_of_mem d (y :: u) y hu.2 (by simp)] at hy
      have hxt := List.pairwise_cons.1 ht.2
      have hyu := List.pairwise_cons.1 hu.2
      have hkey : x.1 = y.1 := by
        rcases Nat.lt_trichotomy x.1 y.1 with hlt | heq | hgt
        · have : tget d (y :: u) x.1 = d := tget_of_not_mem d _ _ (by
            intro e he
            rcases List.mem_cons.1 he with rfl | he
            · omega
            · have := hyu.1 e he; omega)
          exact absurd (hx.trans this) (ht.1 x (by simp))
        · exact heq
        · have : tget d (x :: t) y.1 = d := tget_of_not_mem d _ _ (by
            intro e he
            rcases List.mem_cons.1 he with rfl | he
            · omega
            · have := hxt.1 e he; omega)
          exact absurd (hy.symm.trans this) (hu.1 y (by simp))
      have hxy : x = y := by
        refine Prod.ext hkey ?_
        rw [hkey, tget_of_mem d (y :: u) y hu.2 (by simp)] at hx
        exact hx
      subst hxy
      congr 1
      refine ih u ⟨fun e he => ht.1 e (by simp [he]), hxt.2⟩ ⟨fun e he => hu.1 e (by simp [he]), hyu.2⟩ (fun k => ?_)
      by_cases hk : k = x.1
      · subst hk
        rw [tget_of_not_mem d t _ (fun e he => by have := hxt.1 e he; omega),
          tget_of_not_mem d u _ (fun e he => by have := hyu.1 e he; omega)]
      · have := h k
        have hne : ¬ x.1 = k := fun e => hk e.symm
        simpa [tget, hne] using this

end Sys2Proof.Machine
end

