-- ==== Sys2Proof/Laws/State.lean ====
section
/-! SUPPORT. What each update of the chip leaves as it was: one lemma for each field, and what the field it writes then
holds. -/

namespace Sys2Proof.Machine

/-! ### setPipe -/

@[simp] theorem Chip.setPipe_sets (c : Chip) (p : Nat) (x : Pipe) : (c.setPipe p x).sets = c.sets := rfl
@[simp] theorem Chip.setPipe_eights (c : Chip) (p : Nat) (x : Pipe) : (c.setPipe p x).eights = c.eights := rfl
@[simp] theorem Chip.setPipe_mem (c : Chip) (p : Nat) (x : Pipe) : (c.setPipe p x).mem = c.mem := rfl
@[simp] theorem Chip.setPipe_tmBad (c : Chip) (p : Nat) (x : Pipe) : (c.setPipe p x).tmBad = c.tmBad := rfl
@[simp] theorem Chip.setPipe_ext (c : Chip) (p : Nat) (x : Pipe) : (c.setPipe p x).ext = c.ext := rfl
@[simp] theorem Chip.setPipe_rings (c : Chip) (p : Nat) (x : Pipe) : (c.setPipe p x).rings = c.rings := rfl
@[simp] theorem Chip.setPipe_lane (c : Chip) (p : Nat) (x : Pipe) : (c.setPipe p x).lane = c.lane := rfl
@[simp] theorem Chip.setPipe_saved (c : Chip) (p : Nat) (x : Pipe) : (c.setPipe p x).saved = c.saved := rfl
@[simp] theorem Chip.setPipe_hand (c : Chip) (p : Nat) (x : Pipe) : (c.setPipe p x).hand = c.hand := rfl
@[simp] theorem Chip.setPipe_handN (c : Chip) (p : Nat) (x : Pipe) : (c.setPipe p x).handN = c.handN := rfl
@[simp] theorem Chip.setPipe_armRec (c : Chip) (p : Nat) (x : Pipe) : (c.setPipe p x).armRec = c.armRec := rfl
@[simp] theorem Chip.setPipe_gated (c : Chip) (p : Nat) (x : Pipe) : (c.setPipe p x).gated = c.gated := rfl
@[simp] theorem Chip.setPipe_free (c : Chip) (p : Nat) (x : Pipe) : (c.setPipe p x).free = c.free := rfl
@[simp] theorem Chip.setPipe_trace (c : Chip) (p : Nat) (x : Pipe) : (c.setPipe p x).trace = c.trace := rfl
@[simp] theorem Chip.setPipe_blk (c : Chip) (p : Nat) (x : Pipe) : (c.setPipe p x).blk = c.blk := rfl
@[simp] theorem Chip.setPipe_blkAt (c : Chip) (p : Nat) (x : Pipe) : (c.setPipe p x).blkAt = c.blkAt := rfl
@[simp] theorem Chip.setPipe_roles (c : Chip) (p : Nat) (x : Pipe) : (c.setPipe p x).roles = c.roles := rfl
@[simp] theorem Chip.setPipe_web (c : Chip) (p : Nat) (x : Pipe) : (c.setPipe p x).web = c.web := rfl
@[simp] theorem Chip.setPipe_deckle (c : Chip) (p : Nat) (x : Pipe) : (c.setPipe p x).deckle = c.deckle := rfl
@[simp] theorem Chip.setPipe_dfail (c : Chip) (p : Nat) (x : Pipe) : (c.setPipe p x).dfail = c.dfail := rfl
@[simp] theorem Chip.setPipe_wdAt (c : Chip) (p : Nat) (x : Pipe) : (c.setPipe p x).wdAt = c.wdAt := rfl
@[simp] theorem Chip.setPipe_parts (c : Chip) (p : Nat) (x : Pipe) : (c.setPipe p x).parts = c.parts := rfl
@[simp] theorem Chip.setPipe_yieldDue (c : Chip) (p : Nat) (x : Pipe) : (c.setPipe p x).yieldDue = c.yieldDue := rfl
@[simp] theorem Chip.setPipe_fp (c : Chip) (p : Nat) (x : Pipe) : (c.setPipe p x).fp = c.fp := rfl
@[simp] theorem Chip.setPipe_plt (c : Chip) (p : Nat) (x : Pipe) : (c.setPipe p x).plt = c.plt := rfl
@[simp] theorem Chip.setPipe_pair (c : Chip) (p : Nat) (x : Pipe) : (c.setPipe p x).pair = c.pair := rfl
@[simp] theorem Chip.setPipe_lockAt (c : Chip) (p : Nat) (x : Pipe) : (c.setPipe p x).lockAt = c.lockAt := rfl
@[simp] theorem Chip.setPipe_power (c : Chip) (p : Nat) (x : Pipe) : (c.setPipe p x).power = c.power := rfl
@[simp] theorem Chip.setPipe_regs (c : Chip) (p : Nat) (x : Pipe) : (c.setPipe p x).regs = c.regs := rfl
@[simp] theorem Chip.setPipe_staged (c : Chip) (p : Nat) (x : Pipe) : (c.setPipe p x).staged = c.staged := rfl
@[simp] theorem Chip.setPipe_captured (c : Chip) (p : Nat) (x : Pipe) : (c.setPipe p x).captured = c.captured := rfl
@[simp] theorem Chip.setPipe_caps (c : Chip) (p : Nat) (x : Pipe) : (c.setPipe p x).caps = c.caps := rfl
@[simp] theorem Chip.setPipe_banked (c : Chip) (p : Nat) (x : Pipe) : (c.setPipe p x).banked = c.banked := rfl
@[simp] theorem Chip.setPipe_hub (c : Chip) (p : Nat) (x : Pipe) : (c.setPipe p x).hub = c.hub := rfl
@[simp] theorem Chip.setPipe_reply (c : Chip) (p : Nat) (x : Pipe) : (c.setPipe p x).reply = c.reply := rfl
@[simp] theorem Chip.setPipe_bankA (c : Chip) (p : Nat) (x : Pipe) : (c.setPipe p x).bankA = c.bankA := rfl
@[simp] theorem Chip.setPipe_bankB (c : Chip) (p : Nat) (x : Pipe) : (c.setPipe p x).bankB = c.bankB := rfl
@[simp] theorem Chip.setPipe_liveB (c : Chip) (p : Nat) (x : Pipe) : (c.setPipe p x).liveB = c.liveB := rfl
@[simp] theorem Chip.setPipe_isLive (c : Chip) (p : Nat) (x : Pipe) : (c.setPipe p x).isLive = c.isLive := rfl
@[simp] theorem Chip.setPipe_armedAt (c : Chip) (p : Nat) (x : Pipe) : (c.setPipe p x).armedAt = c.armedAt := rfl
@[simp] theorem Chip.setPipe_committed (c : Chip) (p : Nat) (x : Pipe) : (c.setPipe p x).committed = c.committed := rfl
@[simp] theorem Chip.setPipe_now (c : Chip) (p : Nat) (x : Pipe) : (c.setPipe p x).now = c.now := rfl
@[simp] theorem Chip.setPipe_nowFrac (c : Chip) (p : Nat) (x : Pipe) : (c.setPipe p x).nowFrac = c.nowFrac := rfl
@[simp] theorem Chip.setPipe_catchAt (c : Chip) (p : Nat) (x : Pipe) : (c.setPipe p x).catchAt = c.catchAt := rfl
@[simp] theorem Chip.setPipe_stroke (c : Chip) (p : Nat) (x : Pipe) : (c.setPipe p x).stroke = c.stroke := rfl
@[simp] theorem Chip.setPipe_strokeOn (c : Chip) (p : Nat) (x : Pipe) : (c.setPipe p x).strokeOn = c.strokeOn := rfl

/-! ### setArr -/

@[simp] theorem Chip.setArr_pipes (c : Chip) (k : Nat) (x : ArraySet) : (c.setArr k x).pipes = c.pipes := rfl
@[simp] theorem Chip.setArr_eights (c : Chip) (k : Nat) (x : ArraySet) : (c.setArr k x).eights = c.eights := rfl
@[simp] theorem Chip.setArr_mem (c : Chip) (k : Nat) (x : ArraySet) : (c.setArr k x).mem = c.mem := rfl
@[simp] theorem Chip.setArr_tmBad (c : Chip) (k : Nat) (x : ArraySet) : (c.setArr k x).tmBad = c.tmBad := rfl
@[simp] theorem Chip.setArr_ext (c : Chip) (k : Nat) (x : ArraySet) : (c.setArr k x).ext = c.ext := rfl
@[simp] theorem Chip.setArr_rings (c : Chip) (k : Nat) (x : ArraySet) : (c.setArr k x).rings = c.rings := rfl
@[simp] theorem Chip.setArr_lane (c : Chip) (k : Nat) (x : ArraySet) : (c.setArr k x).lane = c.lane := rfl
@[simp] theorem Chip.setArr_saved (c : Chip) (k : Nat) (x : ArraySet) : (c.setArr k x).saved = c.saved := rfl
@[simp] theorem Chip.setArr_hand (c : Chip) (k : Nat) (x : ArraySet) : (c.setArr k x).hand = c.hand := rfl
@[simp] theorem Chip.setArr_handN (c : Chip) (k : Nat) (x : ArraySet) : (c.setArr k x).handN = c.handN := rfl
@[simp] theorem Chip.setArr_armRec (c : Chip) (k : Nat) (x : ArraySet) : (c.setArr k x).armRec = c.armRec := rfl
@[simp] theorem Chip.setArr_gated (c : Chip) (k : Nat) (x : ArraySet) : (c.setArr k x).gated = c.gated := rfl
@[simp] theorem Chip.setArr_free (c : Chip) (k : Nat) (x : ArraySet) : (c.setArr k x).free = c.free := rfl
@[simp] theorem Chip.setArr_trace (c : Chip) (k : Nat) (x : ArraySet) : (c.setArr k x).trace = c.trace := rfl
@[simp] theorem Chip.setArr_blk (c : Chip) (k : Nat) (x : ArraySet) : (c.setArr k x).blk = c.blk := rfl
@[simp] theorem Chip.setArr_blkAt (c : Chip) (k : Nat) (x : ArraySet) : (c.setArr k x).blkAt = c.blkAt := rfl
@[simp] theorem Chip.setArr_roles (c : Chip) (k : Nat) (x : ArraySet) : (c.setArr k x).roles = c.roles := rfl
@[simp] theorem Chip.setArr_web (c : Chip) (k : Nat) (x : ArraySet) : (c.setArr k x).web = c.web := rfl
@[simp] theorem Chip.setArr_deckle (c : Chip) (k : Nat) (x : ArraySet) : (c.setArr k x).deckle = c.deckle := rfl
@[simp] theorem Chip.setArr_dfail (c : Chip) (k : Nat) (x : ArraySet) : (c.setArr k x).dfail = c.dfail := rfl
@[simp] theorem Chip.setArr_wdAt (c : Chip) (k : Nat) (x : ArraySet) : (c.setArr k x).wdAt = c.wdAt := rfl
@[simp] theorem Chip.setArr_parts (c : Chip) (k : Nat) (x : ArraySet) : (c.setArr k x).parts = c.parts := rfl
@[simp] theorem Chip.setArr_yieldDue (c : Chip) (k : Nat) (x : ArraySet) : (c.setArr k x).yieldDue = c.yieldDue := rfl
@[simp] theorem Chip.setArr_fp (c : Chip) (k : Nat) (x : ArraySet) : (c.setArr k x).fp = c.fp := rfl
@[simp] theorem Chip.setArr_plt (c : Chip) (k : Nat) (x : ArraySet) : (c.setArr k x).plt = c.plt := rfl
@[simp] theorem Chip.setArr_pair (c : Chip) (k : Nat) (x : ArraySet) : (c.setArr k x).pair = c.pair := rfl
@[simp] theorem Chip.setArr_lockAt (c : Chip) (k : Nat) (x : ArraySet) : (c.setArr k x).lockAt = c.lockAt := rfl
@[simp] theorem Chip.setArr_power (c : Chip) (k : Nat) (x : ArraySet) : (c.setArr k x).power = c.power := rfl
@[simp] theorem Chip.setArr_regs (c : Chip) (k : Nat) (x : ArraySet) : (c.setArr k x).regs = c.regs := rfl
@[simp] theorem Chip.setArr_staged (c : Chip) (k : Nat) (x : ArraySet) : (c.setArr k x).staged = c.staged := rfl
@[simp] theorem Chip.setArr_captured (c : Chip) (k : Nat) (x : ArraySet) : (c.setArr k x).captured = c.captured := rfl
@[simp] theorem Chip.setArr_caps (c : Chip) (k : Nat) (x : ArraySet) : (c.setArr k x).caps = c.caps := rfl
@[simp] theorem Chip.setArr_banked (c : Chip) (k : Nat) (x : ArraySet) : (c.setArr k x).banked = c.banked := rfl
@[simp] theorem Chip.setArr_hub (c : Chip) (k : Nat) (x : ArraySet) : (c.setArr k x).hub = c.hub := rfl
@[simp] theorem Chip.setArr_reply (c : Chip) (k : Nat) (x : ArraySet) : (c.setArr k x).reply = c.reply := rfl
@[simp] theorem Chip.setArr_bankA (c : Chip) (k : Nat) (x : ArraySet) : (c.setArr k x).bankA = c.bankA := rfl
@[simp] theorem Chip.setArr_bankB (c : Chip) (k : Nat) (x : ArraySet) : (c.setArr k x).bankB = c.bankB := rfl
@[simp] theorem Chip.setArr_liveB (c : Chip) (k : Nat) (x : ArraySet) : (c.setArr k x).liveB = c.liveB := rfl
@[simp] theorem Chip.setArr_isLive (c : Chip) (k : Nat) (x : ArraySet) : (c.setArr k x).isLive = c.isLive := rfl
@[simp] theorem Chip.setArr_armedAt (c : Chip) (k : Nat) (x : ArraySet) : (c.setArr k x).armedAt = c.armedAt := rfl
@[simp] theorem Chip.setArr_committed (c : Chip) (k : Nat) (x : ArraySet) : (c.setArr k x).committed = c.committed := rfl
@[simp] theorem Chip.setArr_now (c : Chip) (k : Nat) (x : ArraySet) : (c.setArr k x).now = c.now := rfl
@[simp] theorem Chip.setArr_nowFrac (c : Chip) (k : Nat) (x : ArraySet) : (c.setArr k x).nowFrac = c.nowFrac := rfl
@[simp] theorem Chip.setArr_catchAt (c : Chip) (k : Nat) (x : ArraySet) : (c.setArr k x).catchAt = c.catchAt := rfl
@[simp] theorem Chip.setArr_stroke (c : Chip) (k : Nat) (x : ArraySet) : (c.setArr k x).stroke = c.stroke := rfl
@[simp] theorem Chip.setArr_strokeOn (c : Chip) (k : Nat) (x : ArraySet) : (c.setArr k x).strokeOn = c.strokeOn := rfl

/-! ### setEight -/

@[simp] theorem Chip.setEight_pipes (c : Chip) (e : Nat) (x : Eight) : (c.setEight e x).pipes = c.pipes := rfl
@[simp] theorem Chip.setEight_sets (c : Chip) (e : Nat) (x : Eight) : (c.setEight e x).sets = c.sets := rfl
@[simp] theorem Chip.setEight_mem (c : Chip) (e : Nat) (x : Eight) : (c.setEight e x).mem = c.mem := rfl
@[simp] theorem Chip.setEight_tmBad (c : Chip) (e : Nat) (x : Eight) : (c.setEight e x).tmBad = c.tmBad := rfl
@[simp] theorem Chip.setEight_ext (c : Chip) (e : Nat) (x : Eight) : (c.setEight e x).ext = c.ext := rfl
@[simp] theorem Chip.setEight_rings (c : Chip) (e : Nat) (x : Eight) : (c.setEight e x).rings = c.rings := rfl
@[simp] theorem Chip.setEight_lane (c : Chip) (e : Nat) (x : Eight) : (c.setEight e x).lane = c.lane := rfl
@[simp] theorem Chip.setEight_saved (c : Chip) (e : Nat) (x : Eight) : (c.setEight e x).saved = c.saved := rfl
@[simp] theorem Chip.setEight_hand (c : Chip) (e : Nat) (x : Eight) : (c.setEight e x).hand = c.hand := rfl
@[simp] theorem Chip.setEight_handN (c : Chip) (e : Nat) (x : Eight) : (c.setEight e x).handN = c.handN := rfl
@[simp] theorem Chip.setEight_armRec (c : Chip) (e : Nat) (x : Eight) : (c.setEight e x).armRec = c.armRec := rfl
@[simp] theorem Chip.setEight_gated (c : Chip) (e : Nat) (x : Eight) : (c.setEight e x).gated = c.gated := rfl
@[simp] theorem Chip.setEight_free (c : Chip) (e : Nat) (x : Eight) : (c.setEight e x).free = c.free := rfl
@[simp] theorem Chip.setEight_trace (c : Chip) (e : Nat) (x : Eight) : (c.setEight e x).trace = c.trace := rfl
@[simp] theorem Chip.setEight_blk (c : Chip) (e : Nat) (x : Eight) : (c.setEight e x).blk = c.blk := rfl
@[simp] theorem Chip.setEight_blkAt (c : Chip) (e : Nat) (x : Eight) : (c.setEight e x).blkAt = c.blkAt := rfl
@[simp] theorem Chip.setEight_roles (c : Chip) (e : Nat) (x : Eight) : (c.setEight e x).roles = c.roles := rfl
@[simp] theorem Chip.setEight_web (c : Chip) (e : Nat) (x : Eight) : (c.setEight e x).web = c.web := rfl
@[simp] theorem Chip.setEight_deckle (c : Chip) (e : Nat) (x : Eight) : (c.setEight e x).deckle = c.deckle := rfl
@[simp] theorem Chip.setEight_dfail (c : Chip) (e : Nat) (x : Eight) : (c.setEight e x).dfail = c.dfail := rfl
@[simp] theorem Chip.setEight_wdAt (c : Chip) (e : Nat) (x : Eight) : (c.setEight e x).wdAt = c.wdAt := rfl
@[simp] theorem Chip.setEight_parts (c : Chip) (e : Nat) (x : Eight) : (c.setEight e x).parts = c.parts := rfl
@[simp] theorem Chip.setEight_yieldDue (c : Chip) (e : Nat) (x : Eight) : (c.setEight e x).yieldDue = c.yieldDue := rfl
@[simp] theorem Chip.setEight_fp (c : Chip) (e : Nat) (x : Eight) : (c.setEight e x).fp = c.fp := rfl
@[simp] theorem Chip.setEight_plt (c : Chip) (e : Nat) (x : Eight) : (c.setEight e x).plt = c.plt := rfl
@[simp] theorem Chip.setEight_pair (c : Chip) (e : Nat) (x : Eight) : (c.setEight e x).pair = c.pair := rfl
@[simp] theorem Chip.setEight_lockAt (c : Chip) (e : Nat) (x : Eight) : (c.setEight e x).lockAt = c.lockAt := rfl
@[simp] theorem Chip.setEight_power (c : Chip) (e : Nat) (x : Eight) : (c.setEight e x).power = c.power := rfl
@[simp] theorem Chip.setEight_regs (c : Chip) (e : Nat) (x : Eight) : (c.setEight e x).regs = c.regs := rfl
@[simp] theorem Chip.setEight_staged (c : Chip) (e : Nat) (x : Eight) : (c.setEight e x).staged = c.staged := rfl
@[simp] theorem Chip.setEight_captured (c : Chip) (e : Nat) (x : Eight) : (c.setEight e x).captured = c.captured := rfl
@[simp] theorem Chip.setEight_caps (c : Chip) (e : Nat) (x : Eight) : (c.setEight e x).caps = c.caps := rfl
@[simp] theorem Chip.setEight_banked (c : Chip) (e : Nat) (x : Eight) : (c.setEight e x).banked = c.banked := rfl
@[simp] theorem Chip.setEight_hub (c : Chip) (e : Nat) (x : Eight) : (c.setEight e x).hub = c.hub := rfl
@[simp] theorem Chip.setEight_reply (c : Chip) (e : Nat) (x : Eight) : (c.setEight e x).reply = c.reply := rfl
@[simp] theorem Chip.setEight_bankA (c : Chip) (e : Nat) (x : Eight) : (c.setEight e x).bankA = c.bankA := rfl
@[simp] theorem Chip.setEight_bankB (c : Chip) (e : Nat) (x : Eight) : (c.setEight e x).bankB = c.bankB := rfl
@[simp] theorem Chip.setEight_liveB (c : Chip) (e : Nat) (x : Eight) : (c.setEight e x).liveB = c.liveB := rfl
@[simp] theorem Chip.setEight_isLive (c : Chip) (e : Nat) (x : Eight) : (c.setEight e x).isLive = c.isLive := rfl
@[simp] theorem Chip.setEight_armedAt (c : Chip) (e : Nat) (x : Eight) : (c.setEight e x).armedAt = c.armedAt := rfl
@[simp] theorem Chip.setEight_committed (c : Chip) (e : Nat) (x : Eight) : (c.setEight e x).committed = c.committed := rfl
@[simp] theorem Chip.setEight_now (c : Chip) (e : Nat) (x : Eight) : (c.setEight e x).now = c.now := rfl
@[simp] theorem Chip.setEight_nowFrac (c : Chip) (e : Nat) (x : Eight) : (c.setEight e x).nowFrac = c.nowFrac := rfl
@[simp] theorem Chip.setEight_catchAt (c : Chip) (e : Nat) (x : Eight) : (c.setEight e x).catchAt = c.catchAt := rfl
@[simp] theorem Chip.setEight_stroke (c : Chip) (e : Nat) (x : Eight) : (c.setEight e x).stroke = c.stroke := rfl
@[simp] theorem Chip.setEight_strokeOn (c : Chip) (e : Nat) (x : Eight) : (c.setEight e x).strokeOn = c.strokeOn := rfl

/-! ### setSaved -/

@[simp] theorem Chip.setSaved_pipes (c : Chip) (core ctx : Nat) (x : Saved) : (c.setSaved core ctx x).pipes = c.pipes := rfl
@[simp] theorem Chip.setSaved_sets (c : Chip) (core ctx : Nat) (x : Saved) : (c.setSaved core ctx x).sets = c.sets := rfl
@[simp] theorem Chip.setSaved_eights (c : Chip) (core ctx : Nat) (x : Saved) : (c.setSaved core ctx x).eights = c.eights := rfl
@[simp] theorem Chip.setSaved_mem (c : Chip) (core ctx : Nat) (x : Saved) : (c.setSaved core ctx x).mem = c.mem := rfl
@[simp] theorem Chip.setSaved_tmBad (c : Chip) (core ctx : Nat) (x : Saved) : (c.setSaved core ctx x).tmBad = c.tmBad := rfl
@[simp] theorem Chip.setSaved_ext (c : Chip) (core ctx : Nat) (x : Saved) : (c.setSaved core ctx x).ext = c.ext := rfl
@[simp] theorem Chip.setSaved_rings (c : Chip) (core ctx : Nat) (x : Saved) : (c.setSaved core ctx x).rings = c.rings := rfl
@[simp] theorem Chip.setSaved_lane (c : Chip) (core ctx : Nat) (x : Saved) : (c.setSaved core ctx x).lane = c.lane := rfl
@[simp] theorem Chip.setSaved_hand (c : Chip) (core ctx : Nat) (x : Saved) : (c.setSaved core ctx x).hand = c.hand := rfl
@[simp] theorem Chip.setSaved_handN (c : Chip) (core ctx : Nat) (x : Saved) : (c.setSaved core ctx x).handN = c.handN := rfl
@[simp] theorem Chip.setSaved_armRec (c : Chip) (core ctx : Nat) (x : Saved) : (c.setSaved core ctx x).armRec = c.armRec := rfl
@[simp] theorem Chip.setSaved_gated (c : Chip) (core ctx : Nat) (x : Saved) : (c.setSaved core ctx x).gated = c.gated := rfl
@[simp] theorem Chip.setSaved_free (c : Chip) (core ctx : Nat) (x : Saved) : (c.setSaved core ctx x).free = c.free := rfl
@[simp] theorem Chip.setSaved_trace (c : Chip) (core ctx : Nat) (x : Saved) : (c.setSaved core ctx x).trace = c.trace := rfl
@[simp] theorem Chip.setSaved_blk (c : Chip) (core ctx : Nat) (x : Saved) : (c.setSaved core ctx x).blk = c.blk := rfl
@[simp] theorem Chip.setSaved_blkAt (c : Chip) (core ctx : Nat) (x : Saved) : (c.setSaved core ctx x).blkAt = c.blkAt := rfl
@[simp] theorem Chip.setSaved_roles (c : Chip) (core ctx : Nat) (x : Saved) : (c.setSaved core ctx x).roles = c.roles := rfl
@[simp] theorem Chip.setSaved_web (c : Chip) (core ctx : Nat) (x : Saved) : (c.setSaved core ctx x).web = c.web := rfl
@[simp] theorem Chip.setSaved_deckle (c : Chip) (core ctx : Nat) (x : Saved) : (c.setSaved core ctx x).deckle = c.deckle := rfl
@[simp] theorem Chip.setSaved_dfail (c : Chip) (core ctx : Nat) (x : Saved) : (c.setSaved core ctx x).dfail = c.dfail := rfl
@[simp] theorem Chip.setSaved_wdAt (c : Chip) (core ctx : Nat) (x : Saved) : (c.setSaved core ctx x).wdAt = c.wdAt := rfl
@[simp] theorem Chip.setSaved_parts (c : Chip) (core ctx : Nat) (x : Saved) : (c.setSaved core ctx x).parts = c.parts := rfl
@[simp] theorem Chip.setSaved_yieldDue (c : Chip) (core ctx : Nat) (x : Saved) : (c.setSaved core ctx x).yieldDue = c.yieldDue := rfl
@[simp] theorem Chip.setSaved_fp (c : Chip) (core ctx : Nat) (x : Saved) : (c.setSaved core ctx x).fp = c.fp := rfl
@[simp] theorem Chip.setSaved_plt (c : Chip) (core ctx : Nat) (x : Saved) : (c.setSaved core ctx x).plt = c.plt := rfl
@[simp] theorem Chip.setSaved_pair (c : Chip) (core ctx : Nat) (x : Saved) : (c.setSaved core ctx x).pair = c.pair := rfl
@[simp] theorem Chip.setSaved_lockAt (c : Chip) (core ctx : Nat) (x : Saved) : (c.setSaved core ctx x).lockAt = c.lockAt := rfl
@[simp] theorem Chip.setSaved_power (c : Chip) (core ctx : Nat) (x : Saved) : (c.setSaved core ctx x).power = c.power := rfl
@[simp] theorem Chip.setSaved_regs (c : Chip) (core ctx : Nat) (x : Saved) : (c.setSaved core ctx x).regs = c.regs := rfl
@[simp] theorem Chip.setSaved_staged (c : Chip) (core ctx : Nat) (x : Saved) : (c.setSaved core ctx x).staged = c.staged := rfl
@[simp] theorem Chip.setSaved_captured (c : Chip) (core ctx : Nat) (x : Saved) : (c.setSaved core ctx x).captured = c.captured := rfl
@[simp] theorem Chip.setSaved_caps (c : Chip) (core ctx : Nat) (x : Saved) : (c.setSaved core ctx x).caps = c.caps := rfl
@[simp] theorem Chip.setSaved_banked (c : Chip) (core ctx : Nat) (x : Saved) : (c.setSaved core ctx x).banked = c.banked := rfl
@[simp] theorem Chip.setSaved_hub (c : Chip) (core ctx : Nat) (x : Saved) : (c.setSaved core ctx x).hub = c.hub := rfl
@[simp] theorem Chip.setSaved_reply (c : Chip) (core ctx : Nat) (x : Saved) : (c.setSaved core ctx x).reply = c.reply := rfl
@[simp] theorem Chip.setSaved_bankA (c : Chip) (core ctx : Nat) (x : Saved) : (c.setSaved core ctx x).bankA = c.bankA := rfl
@[simp] theorem Chip.setSaved_bankB (c : Chip) (core ctx : Nat) (x : Saved) : (c.setSaved core ctx x).bankB = c.bankB := rfl
@[simp] theorem Chip.setSaved_liveB (c : Chip) (core ctx : Nat) (x : Saved) : (c.setSaved core ctx x).liveB = c.liveB := rfl
@[simp] theorem Chip.setSaved_isLive (c : Chip) (core ctx : Nat) (x : Saved) : (c.setSaved core ctx x).isLive = c.isLive := rfl
@[simp] theorem Chip.setSaved_armedAt (c : Chip) (core ctx : Nat) (x : Saved) : (c.setSaved core ctx x).armedAt = c.armedAt := rfl
@[simp] theorem Chip.setSaved_committed (c : Chip) (core ctx : Nat) (x : Saved) : (c.setSaved core ctx x).committed = c.committed := rfl
@[simp] theorem Chip.setSaved_now (c : Chip) (core ctx : Nat) (x : Saved) : (c.setSaved core ctx x).now = c.now := rfl
@[simp] theorem Chip.setSaved_nowFrac (c : Chip) (core ctx : Nat) (x : Saved) : (c.setSaved core ctx x).nowFrac = c.nowFrac := rfl
@[simp] theorem Chip.setSaved_catchAt (c : Chip) (core ctx : Nat) (x : Saved) : (c.setSaved core ctx x).catchAt = c.catchAt := rfl
@[simp] theorem Chip.setSaved_stroke (c : Chip) (core ctx : Nat) (x : Saved) : (c.setSaved core ctx x).stroke = c.stroke := rfl
@[simp] theorem Chip.setSaved_strokeOn (c : Chip) (core ctx : Nat) (x : Saved) : (c.setSaved core ctx x).strokeOn = c.strokeOn := rfl

/-! ### setLive -/

@[simp] theorem Chip.setLive_pipes (c : Chip) (page off v : Nat) : (c.setLive page off v).pipes = c.pipes := rfl
@[simp] theorem Chip.setLive_sets (c : Chip) (page off v : Nat) : (c.setLive page off v).sets = c.sets := rfl
@[simp] theorem Chip.setLive_eights (c : Chip) (page off v : Nat) : (c.setLive page off v).eights = c.eights := rfl
@[simp] theorem Chip.setLive_mem (c : Chip) (page off v : Nat) : (c.setLive page off v).mem = c.mem := rfl
@[simp] theorem Chip.setLive_tmBad (c : Chip) (page off v : Nat) : (c.setLive page off v).tmBad = c.tmBad := rfl
@[simp] theorem Chip.setLive_ext (c : Chip) (page off v : Nat) : (c.setLive page off v).ext = c.ext := rfl
@[simp] theorem Chip.setLive_rings (c : Chip) (page off v : Nat) : (c.setLive page off v).rings = c.rings := rfl
@[simp] theorem Chip.setLive_lane (c : Chip) (page off v : Nat) : (c.setLive page off v).lane = c.lane := rfl
@[simp] theorem Chip.setLive_saved (c : Chip) (page off v : Nat) : (c.setLive page off v).saved = c.saved := rfl
@[simp] theorem Chip.setLive_hand (c : Chip) (page off v : Nat) : (c.setLive page off v).hand = c.hand := rfl
@[simp] theorem Chip.setLive_handN (c : Chip) (page off v : Nat) : (c.setLive page off v).handN = c.handN := rfl
@[simp] theorem Chip.setLive_armRec (c : Chip) (page off v : Nat) : (c.setLive page off v).armRec = c.armRec := rfl
@[simp] theorem Chip.setLive_gated (c : Chip) (page off v : Nat) : (c.setLive page off v).gated = c.gated := rfl
@[simp] theorem Chip.setLive_free (c : Chip) (page off v : Nat) : (c.setLive page off v).free = c.free := rfl
@[simp] theorem Chip.setLive_trace (c : Chip) (page off v : Nat) : (c.setLive page off v).trace = c.trace := rfl
@[simp] theorem Chip.setLive_blk (c : Chip) (page off v : Nat) : (c.setLive page off v).blk = c.blk := rfl
@[simp] theorem Chip.setLive_blkAt (c : Chip) (page off v : Nat) : (c.setLive page off v).blkAt = c.blkAt := rfl
@[simp] theorem Chip.setLive_roles (c : Chip) (page off v : Nat) : (c.setLive page off v).roles = c.roles := rfl
@[simp] theorem Chip.setLive_web (c : Chip) (page off v : Nat) : (c.setLive page off v).web = c.web := rfl
@[simp] theorem Chip.setLive_deckle (c : Chip) (page off v : Nat) : (c.setLive page off v).deckle = c.deckle := rfl
@[simp] theorem Chip.setLive_dfail (c : Chip) (page off v : Nat) : (c.setLive page off v).dfail = c.dfail := rfl
@[simp] theorem Chip.setLive_wdAt (c : Chip) (page off v : Nat) : (c.setLive page off v).wdAt = c.wdAt := rfl
@[simp] theorem Chip.setLive_parts (c : Chip) (page off v : Nat) : (c.setLive page off v).parts = c.parts := rfl
@[simp] theorem Chip.setLive_yieldDue (c : Chip) (page off v : Nat) : (c.setLive page off v).yieldDue = c.yieldDue := rfl
@[simp] theorem Chip.setLive_fp (c : Chip) (page off v : Nat) : (c.setLive page off v).fp = c.fp := rfl
@[simp] theorem Chip.setLive_plt (c : Chip) (page off v : Nat) : (c.setLive page off v).plt = c.plt := rfl
@[simp] theorem Chip.setLive_pair (c : Chip) (page off v : Nat) : (c.setLive page off v).pair = c.pair := rfl
@[simp] theorem Chip.setLive_lockAt (c : Chip) (page off v : Nat) : (c.setLive page off v).lockAt = c.lockAt := rfl
@[simp] theorem Chip.setLive_power (c : Chip) (page off v : Nat) : (c.setLive page off v).power = c.power := rfl
@[simp] theorem Chip.setLive_staged (c : Chip) (page off v : Nat) : (c.setLive page off v).staged = c.staged := rfl
@[simp] theorem Chip.setLive_captured (c : Chip) (page off v : Nat) : (c.setLive page off v).captured = c.captured := rfl
@[simp] theorem Chip.setLive_caps (c : Chip) (page off v : Nat) : (c.setLive page off v).caps = c.caps := rfl
@[simp] theorem Chip.setLive_banked (c : Chip) (page off v : Nat) : (c.setLive page off v).banked = c.banked := rfl
@[simp] theorem Chip.setLive_hub (c : Chip) (page off v : Nat) : (c.setLive page off v).hub = c.hub := rfl
@[simp] theorem Chip.setLive_reply (c : Chip) (page off v : Nat) : (c.setLive page off v).reply = c.reply := rfl
@[simp] theorem Chip.setLive_bankA (c : Chip) (page off v : Nat) : (c.setLive page off v).bankA = c.bankA := rfl
@[simp] theorem Chip.setLive_bankB (c : Chip) (page off v : Nat) : (c.setLive page off v).bankB = c.bankB := rfl
@[simp] theorem Chip.setLive_liveB (c : Chip) (page off v : Nat) : (c.setLive page off v).liveB = c.liveB := rfl
@[simp] theorem Chip.setLive_isLive (c : Chip) (page off v : Nat) : (c.setLive page off v).isLive = c.isLive := rfl
@[simp] theorem Chip.setLive_armedAt (c : Chip) (page off v : Nat) : (c.setLive page off v).armedAt = c.armedAt := rfl
@[simp] theorem Chip.setLive_committed (c : Chip) (page off v : Nat) : (c.setLive page off v).committed = c.committed := rfl
@[simp] theorem Chip.setLive_now (c : Chip) (page off v : Nat) : (c.setLive page off v).now = c.now := rfl
@[simp] theorem Chip.setLive_nowFrac (c : Chip) (page off v : Nat) : (c.setLive page off v).nowFrac = c.nowFrac := rfl
@[simp] theorem Chip.setLive_catchAt (c : Chip) (page off v : Nat) : (c.setLive page off v).catchAt = c.catchAt := rfl
@[simp] theorem Chip.setLive_stroke (c : Chip) (page off v : Nat) : (c.setLive page off v).stroke = c.stroke := rfl
@[simp] theorem Chip.setLive_strokeOn (c : Chip) (page off v : Nat) : (c.setLive page off v).strokeOn = c.strokeOn := rfl

/-! ### setFld -/

@[simp] theorem Chip.setFld_pipes (c : Chip) (page off h l v : Nat) : (c.setFld page off h l v).pipes = c.pipes := rfl
@[simp] theorem Chip.setFld_sets (c : Chip) (page off h l v : Nat) : (c.setFld page off h l v).sets = c.sets := rfl
@[simp] theorem Chip.setFld_eights (c : Chip) (page off h l v : Nat) : (c.setFld page off h l v).eights = c.eights := rfl
@[simp] theorem Chip.setFld_mem (c : Chip) (page off h l v : Nat) : (c.setFld page off h l v).mem = c.mem := rfl
@[simp] theorem Chip.setFld_tmBad (c : Chip) (page off h l v : Nat) : (c.setFld page off h l v).tmBad = c.tmBad := rfl
@[simp] theorem Chip.setFld_ext (c : Chip) (page off h l v : Nat) : (c.setFld page off h l v).ext = c.ext := rfl
@[simp] theorem Chip.setFld_rings (c : Chip) (page off h l v : Nat) : (c.setFld page off h l v).rings = c.rings := rfl
@[simp] theorem Chip.setFld_lane (c : Chip) (page off h l v : Nat) : (c.setFld page off h l v).lane = c.lane := rfl
@[simp] theorem Chip.setFld_saved (c : Chip) (page off h l v : Nat) : (c.setFld page off h l v).saved = c.saved := rfl
@[simp] theorem Chip.setFld_hand (c : Chip) (page off h l v : Nat) : (c.setFld page off h l v).hand = c.hand := rfl
@[simp] theorem Chip.setFld_handN (c : Chip) (page off h l v : Nat) : (c.setFld page off h l v).handN = c.handN := rfl
@[simp] theorem Chip.setFld_armRec (c : Chip) (page off h l v : Nat) : (c.setFld page off h l v).armRec = c.armRec := rfl
@[simp] theorem Chip.setFld_gated (c : Chip) (page off h l v : Nat) : (c.setFld page off h l v).gated = c.gated := rfl
@[simp] theorem Chip.setFld_free (c : Chip) (page off h l v : Nat) : (c.setFld page off h l v).free = c.free := rfl
@[simp] theorem Chip.setFld_trace (c : Chip) (page off h l v : Nat) : (c.setFld page off h l v).trace = c.trace := rfl
@[simp] theorem Chip.setFld_blk (c : Chip) (page off h l v : Nat) : (c.setFld page off h l v).blk = c.blk := rfl
@[simp] theorem Chip.setFld_blkAt (c : Chip) (page off h l v : Nat) : (c.setFld page off h l v).blkAt = c.blkAt := rfl
@[simp] theorem Chip.setFld_roles (c : Chip) (page off h l v : Nat) : (c.setFld page off h l v).roles = c.roles := rfl
@[simp] theorem Chip.setFld_web (c : Chip) (page off h l v : Nat) : (c.setFld page off h l v).web = c.web := rfl
@[simp] theorem Chip.setFld_deckle (c : Chip) (page off h l v : Nat) : (c.setFld page off h l v).deckle = c.deckle := rfl
@[simp] theorem Chip.setFld_dfail (c : Chip) (page off h l v : Nat) : (c.setFld page off h l v).dfail = c.dfail := rfl
@[simp] theorem Chip.setFld_wdAt (c : Chip) (page off h l v : Nat) : (c.setFld page off h l v).wdAt = c.wdAt := rfl
@[simp] theorem Chip.setFld_parts (c : Chip) (page off h l v : Nat) : (c.setFld page off h l v).parts = c.parts := rfl
@[simp] theorem Chip.setFld_yieldDue (c : Chip) (page off h l v : Nat) : (c.setFld page off h l v).yieldDue = c.yieldDue := rfl
@[simp] theorem Chip.setFld_fp (c : Chip) (page off h l v : Nat) : (c.setFld page off h l v).fp = c.fp := rfl
@[simp] theorem Chip.setFld_plt (c : Chip) (page off h l v : Nat) : (c.setFld page off h l v).plt = c.plt := rfl
@[simp] theorem Chip.setFld_pair (c : Chip) (page off h l v : Nat) : (c.setFld page off h l v).pair = c.pair := rfl
@[simp] theorem Chip.setFld_lockAt (c : Chip) (page off h l v : Nat) : (c.setFld page off h l v).lockAt = c.lockAt := rfl
@[simp] theorem Chip.setFld_power (c : Chip) (page off h l v : Nat) : (c.setFld page off h l v).power = c.power := rfl
@[simp] theorem Chip.setFld_staged (c : Chip) (page off h l v : Nat) : (c.setFld page off h l v).staged = c.staged := rfl
@[simp] theorem Chip.setFld_captured (c : Chip) (page off h l v : Nat) : (c.setFld page off h l v).captured = c.captured := rfl
@[simp] theorem Chip.setFld_caps (c : Chip) (page off h l v : Nat) : (c.setFld page off h l v).caps = c.caps := rfl
@[simp] theorem Chip.setFld_banked (c : Chip) (page off h l v : Nat) : (c.setFld page off h l v).banked = c.banked := rfl
@[simp] theorem Chip.setFld_hub (c : Chip) (page off h l v : Nat) : (c.setFld page off h l v).hub = c.hub := rfl
@[simp] theorem Chip.setFld_reply (c : Chip) (page off h l v : Nat) : (c.setFld page off h l v).reply = c.reply := rfl
@[simp] theorem Chip.setFld_bankA (c : Chip) (page off h l v : Nat) : (c.setFld page off h l v).bankA = c.bankA := rfl
@[simp] theorem Chip.setFld_bankB (c : Chip) (page off h l v : Nat) : (c.setFld page off h l v).bankB = c.bankB := rfl
@[simp] theorem Chip.setFld_liveB (c : Chip) (page off h l v : Nat) : (c.setFld page off h l v).liveB = c.liveB := rfl
@[simp] theorem Chip.setFld_isLive (c : Chip) (page off h l v : Nat) : (c.setFld page off h l v).isLive = c.isLive := rfl
@[simp] theorem Chip.setFld_armedAt (c : Chip) (page off h l v : Nat) : (c.setFld page off h l v).armedAt = c.armedAt := rfl
@[simp] theorem Chip.setFld_committed (c : Chip) (page off h l v : Nat) : (c.setFld page off h l v).committed = c.committed := rfl
@[simp] theorem Chip.setFld_now (c : Chip) (page off h l v : Nat) : (c.setFld page off h l v).now = c.now := rfl
@[simp] theorem Chip.setFld_nowFrac (c : Chip) (page off h l v : Nat) : (c.setFld page off h l v).nowFrac = c.nowFrac := rfl
@[simp] theorem Chip.setFld_catchAt (c : Chip) (page off h l v : Nat) : (c.setFld page off h l v).catchAt = c.catchAt := rfl
@[simp] theorem Chip.setFld_stroke (c : Chip) (page off h l v : Nat) : (c.setFld page off h l v).stroke = c.stroke := rfl
@[simp] theorem Chip.setFld_strokeOn (c : Chip) (page off h l v : Nat) : (c.setFld page off h l v).strokeOn = c.strokeOn := rfl

/-! ### raise -/

@[simp] theorem Chip.raise_pipes (c : Chip) (n : Nat) : (c.raise n).pipes = c.pipes := rfl
@[simp] theorem Chip.raise_sets (c : Chip) (n : Nat) : (c.raise n).sets = c.sets := rfl
@[simp] theorem Chip.raise_eights (c : Chip) (n : Nat) : (c.raise n).eights = c.eights := rfl
@[simp] theorem Chip.raise_mem (c : Chip) (n : Nat) : (c.raise n).mem = c.mem := rfl
@[simp] theorem Chip.raise_tmBad (c : Chip) (n : Nat) : (c.raise n).tmBad = c.tmBad := rfl
@[simp] theorem Chip.raise_ext (c : Chip) (n : Nat) : (c.raise n).ext = c.ext := rfl
@[simp] theorem Chip.raise_rings (c : Chip) (n : Nat) : (c.raise n).rings = c.rings := rfl
@[simp] theorem Chip.raise_lane (c : Chip) (n : Nat) : (c.raise n).lane = c.lane := rfl
@[simp] theorem Chip.raise_saved (c : Chip) (n : Nat) : (c.raise n).saved = c.saved := rfl
@[simp] theorem Chip.raise_hand (c : Chip) (n : Nat) : (c.raise n).hand = c.hand := rfl
@[simp] theorem Chip.raise_handN (c : Chip) (n : Nat) : (c.raise n).handN = c.handN := rfl
@[simp] theorem Chip.raise_armRec (c : Chip) (n : Nat) : (c.raise n).armRec = c.armRec := rfl
@[simp] theorem Chip.raise_gated (c : Chip) (n : Nat) : (c.raise n).gated = c.gated := rfl
@[simp] theorem Chip.raise_free (c : Chip) (n : Nat) : (c.raise n).free = c.free := rfl
@[simp] theorem Chip.raise_trace (c : Chip) (n : Nat) : (c.raise n).trace = c.trace := rfl
@[simp] theorem Chip.raise_blk (c : Chip) (n : Nat) : (c.raise n).blk = c.blk := rfl
@[simp] theorem Chip.raise_blkAt (c : Chip) (n : Nat) : (c.raise n).blkAt = c.blkAt := rfl
@[simp] theorem Chip.raise_roles (c : Chip) (n : Nat) : (c.raise n).roles = c.roles := rfl
@[simp] theorem Chip.raise_web (c : Chip) (n : Nat) : (c.raise n).web = c.web := rfl
@[simp] theorem Chip.raise_deckle (c : Chip) (n : Nat) : (c.raise n).deckle = c.deckle := rfl
@[simp] theorem Chip.raise_dfail (c : Chip) (n : Nat) : (c.raise n).dfail = c.dfail := rfl
@[simp] theorem Chip.raise_wdAt (c : Chip) (n : Nat) : (c.raise n).wdAt = c.wdAt := rfl
@[simp] theorem Chip.raise_parts (c : Chip) (n : Nat) : (c.raise n).parts = c.parts := rfl
@[simp] theorem Chip.raise_yieldDue (c : Chip) (n : Nat) : (c.raise n).yieldDue = c.yieldDue := rfl
@[simp] theorem Chip.raise_fp (c : Chip) (n : Nat) : (c.raise n).fp = c.fp := rfl
@[simp] theorem Chip.raise_plt (c : Chip) (n : Nat) : (c.raise n).plt = c.plt := rfl
@[simp] theorem Chip.raise_pair (c : Chip) (n : Nat) : (c.raise n).pair = c.pair := rfl
@[simp] theorem Chip.raise_lockAt (c : Chip) (n : Nat) : (c.raise n).lockAt = c.lockAt := rfl
@[simp] theorem Chip.raise_power (c : Chip) (n : Nat) : (c.raise n).power = c.power := rfl
@[simp] theorem Chip.raise_regs (c : Chip) (n : Nat) : (c.raise n).regs = c.regs := rfl
@[simp] theorem Chip.raise_staged (c : Chip) (n : Nat) : (c.raise n).staged = c.staged := rfl
@[simp] theorem Chip.raise_captured (c : Chip) (n : Nat) : (c.raise n).captured = c.captured := rfl
@[simp] theorem Chip.raise_caps (c : Chip) (n : Nat) : (c.raise n).caps = c.caps := rfl
@[simp] theorem Chip.raise_banked (c : Chip) (n : Nat) : (c.raise n).banked = c.banked := rfl
@[simp] theorem Chip.raise_reply (c : Chip) (n : Nat) : (c.raise n).reply = c.reply := rfl
@[simp] theorem Chip.raise_bankA (c : Chip) (n : Nat) : (c.raise n).bankA = c.bankA := rfl
@[simp] theorem Chip.raise_bankB (c : Chip) (n : Nat) : (c.raise n).bankB = c.bankB := rfl
@[simp] theorem Chip.raise_liveB (c : Chip) (n : Nat) : (c.raise n).liveB = c.liveB := rfl
@[simp] theorem Chip.raise_isLive (c : Chip) (n : Nat) : (c.raise n).isLive = c.isLive := rfl
@[simp] theorem Chip.raise_armedAt (c : Chip) (n : Nat) : (c.raise n).armedAt = c.armedAt := rfl
@[simp] theorem Chip.raise_committed (c : Chip) (n : Nat) : (c.raise n).committed = c.committed := rfl
@[simp] theorem Chip.raise_now (c : Chip) (n : Nat) : (c.raise n).now = c.now := rfl
@[simp] theorem Chip.raise_nowFrac (c : Chip) (n : Nat) : (c.raise n).nowFrac = c.nowFrac := rfl
@[simp] theorem Chip.raise_catchAt (c : Chip) (n : Nat) : (c.raise n).catchAt = c.catchAt := rfl
@[simp] theorem Chip.raise_stroke (c : Chip) (n : Nat) : (c.raise n).stroke = c.stroke := rfl
@[simp] theorem Chip.raise_strokeOn (c : Chip) (n : Nat) : (c.raise n).strokeOn = c.strokeOn := rfl

/-! ### setEnc -/

@[simp] theorem Chip.setEnc_pipes (c : Chip) (core : Nat) (x : Enc) : (c.setEnc core x).pipes = c.pipes := rfl
@[simp] theorem Chip.setEnc_sets (c : Chip) (core : Nat) (x : Enc) : (c.setEnc core x).sets = c.sets := rfl
@[simp] theorem Chip.setEnc_eights (c : Chip) (core : Nat) (x : Enc) : (c.setEnc core x).eights = c.eights := rfl
@[simp] theorem Chip.setEnc_mem (c : Chip) (core : Nat) (x : Enc) : (c.setEnc core x).mem = c.mem := rfl
@[simp] theorem Chip.setEnc_tmBad (c : Chip) (core : Nat) (x : Enc) : (c.setEnc core x).tmBad = c.tmBad := rfl
@[simp] theorem Chip.setEnc_ext (c : Chip) (core : Nat) (x : Enc) : (c.setEnc core x).ext = c.ext := rfl
@[simp] theorem Chip.setEnc_rings (c : Chip) (core : Nat) (x : Enc) : (c.setEnc core x).rings = c.rings := rfl
@[simp] theorem Chip.setEnc_lane (c : Chip) (core : Nat) (x : Enc) : (c.setEnc core x).lane = c.lane := rfl
@[simp] theorem Chip.setEnc_saved (c : Chip) (core : Nat) (x : Enc) : (c.setEnc core x).saved = c.saved := rfl
@[simp] theorem Chip.setEnc_hand (c : Chip) (core : Nat) (x : Enc) : (c.setEnc core x).hand = c.hand := rfl
@[simp] theorem Chip.setEnc_handN (c : Chip) (core : Nat) (x : Enc) : (c.setEnc core x).handN = c.handN := rfl
@[simp] theorem Chip.setEnc_armRec (c : Chip) (core : Nat) (x : Enc) : (c.setEnc core x).armRec = c.armRec := rfl
@[simp] theorem Chip.setEnc_gated (c : Chip) (core : Nat) (x : Enc) : (c.setEnc core x).gated = c.gated := rfl
@[simp] theorem Chip.setEnc_free (c : Chip) (core : Nat) (x : Enc) : (c.setEnc core x).free = c.free := rfl
@[simp] theorem Chip.setEnc_blk (c : Chip) (core : Nat) (x : Enc) : (c.setEnc core x).blk = c.blk := rfl
@[simp] theorem Chip.setEnc_blkAt (c : Chip) (core : Nat) (x : Enc) : (c.setEnc core x).blkAt = c.blkAt := rfl
@[simp] theorem Chip.setEnc_roles (c : Chip) (core : Nat) (x : Enc) : (c.setEnc core x).roles = c.roles := rfl
@[simp] theorem Chip.setEnc_web (c : Chip) (core : Nat) (x : Enc) : (c.setEnc core x).web = c.web := rfl
@[simp] theorem Chip.setEnc_deckle (c : Chip) (core : Nat) (x : Enc) : (c.setEnc core x).deckle = c.deckle := rfl
@[simp] theorem Chip.setEnc_dfail (c : Chip) (core : Nat) (x : Enc) : (c.setEnc core x).dfail = c.dfail := rfl
@[simp] theorem Chip.setEnc_wdAt (c : Chip) (core : Nat) (x : Enc) : (c.setEnc core x).wdAt = c.wdAt := rfl
@[simp] theorem Chip.setEnc_parts (c : Chip) (core : Nat) (x : Enc) : (c.setEnc core x).parts = c.parts := rfl
@[simp] theorem Chip.setEnc_yieldDue (c : Chip) (core : Nat) (x : Enc) : (c.setEnc core x).yieldDue = c.yieldDue := rfl
@[simp] theorem Chip.setEnc_fp (c : Chip) (core : Nat) (x : Enc) : (c.setEnc core x).fp = c.fp := rfl
@[simp] theorem Chip.setEnc_plt (c : Chip) (core : Nat) (x : Enc) : (c.setEnc core x).plt = c.plt := rfl
@[simp] theorem Chip.setEnc_pair (c : Chip) (core : Nat) (x : Enc) : (c.setEnc core x).pair = c.pair := rfl
@[simp] theorem Chip.setEnc_lockAt (c : Chip) (core : Nat) (x : Enc) : (c.setEnc core x).lockAt = c.lockAt := rfl
@[simp] theorem Chip.setEnc_power (c : Chip) (core : Nat) (x : Enc) : (c.setEnc core x).power = c.power := rfl
@[simp] theorem Chip.setEnc_regs (c : Chip) (core : Nat) (x : Enc) : (c.setEnc core x).regs = c.regs := rfl
@[simp] theorem Chip.setEnc_staged (c : Chip) (core : Nat) (x : Enc) : (c.setEnc core x).staged = c.staged := rfl
@[simp] theorem Chip.setEnc_captured (c : Chip) (core : Nat) (x : Enc) : (c.setEnc core x).captured = c.captured := rfl
@[simp] theorem Chip.setEnc_caps (c : Chip) (core : Nat) (x : Enc) : (c.setEnc core x).caps = c.caps := rfl
@[simp] theorem Chip.setEnc_banked (c : Chip) (core : Nat) (x : Enc) : (c.setEnc core x).banked = c.banked := rfl
@[simp] theorem Chip.setEnc_hub (c : Chip) (core : Nat) (x : Enc) : (c.setEnc core x).hub = c.hub := rfl
@[simp] theorem Chip.setEnc_reply (c : Chip) (core : Nat) (x : Enc) : (c.setEnc core x).reply = c.reply := rfl
@[simp] theorem Chip.setEnc_bankA (c : Chip) (core : Nat) (x : Enc) : (c.setEnc core x).bankA = c.bankA := rfl
@[simp] theorem Chip.setEnc_bankB (c : Chip) (core : Nat) (x : Enc) : (c.setEnc core x).bankB = c.bankB := rfl
@[simp] theorem Chip.setEnc_liveB (c : Chip) (core : Nat) (x : Enc) : (c.setEnc core x).liveB = c.liveB := rfl
@[simp] theorem Chip.setEnc_isLive (c : Chip) (core : Nat) (x : Enc) : (c.setEnc core x).isLive = c.isLive := rfl
@[simp] theorem Chip.setEnc_armedAt (c : Chip) (core : Nat) (x : Enc) : (c.setEnc core x).armedAt = c.armedAt := rfl
@[simp] theorem Chip.setEnc_committed (c : Chip) (core : Nat) (x : Enc) : (c.setEnc core x).committed = c.committed := rfl
@[simp] theorem Chip.setEnc_now (c : Chip) (core : Nat) (x : Enc) : (c.setEnc core x).now = c.now := rfl
@[simp] theorem Chip.setEnc_nowFrac (c : Chip) (core : Nat) (x : Enc) : (c.setEnc core x).nowFrac = c.nowFrac := rfl
@[simp] theorem Chip.setEnc_catchAt (c : Chip) (core : Nat) (x : Enc) : (c.setEnc core x).catchAt = c.catchAt := rfl
@[simp] theorem Chip.setEnc_stroke (c : Chip) (core : Nat) (x : Enc) : (c.setEnc core x).stroke = c.stroke := rfl
@[simp] theorem Chip.setEnc_strokeOn (c : Chip) (core : Nat) (x : Enc) : (c.setEnc core x).strokeOn = c.strokeOn := rfl

/-! ### setQd -/

@[simp] theorem Chip.setQd_pipes (c : Chip) (ch : Nat) (x : Qdr) : (c.setQd ch x).pipes = c.pipes := rfl
@[simp] theorem Chip.setQd_sets (c : Chip) (ch : Nat) (x : Qdr) : (c.setQd ch x).sets = c.sets := rfl
@[simp] theorem Chip.setQd_eights (c : Chip) (ch : Nat) (x : Qdr) : (c.setQd ch x).eights = c.eights := rfl
@[simp] theorem Chip.setQd_mem (c : Chip) (ch : Nat) (x : Qdr) : (c.setQd ch x).mem = c.mem := rfl
@[simp] theorem Chip.setQd_tmBad (c : Chip) (ch : Nat) (x : Qdr) : (c.setQd ch x).tmBad = c.tmBad := rfl
@[simp] theorem Chip.setQd_rings (c : Chip) (ch : Nat) (x : Qdr) : (c.setQd ch x).rings = c.rings := rfl
@[simp] theorem Chip.setQd_lane (c : Chip) (ch : Nat) (x : Qdr) : (c.setQd ch x).lane = c.lane := rfl
@[simp] theorem Chip.setQd_saved (c : Chip) (ch : Nat) (x : Qdr) : (c.setQd ch x).saved = c.saved := rfl
@[simp] theorem Chip.setQd_hand (c : Chip) (ch : Nat) (x : Qdr) : (c.setQd ch x).hand = c.hand := rfl
@[simp] theorem Chip.setQd_handN (c : Chip) (ch : Nat) (x : Qdr) : (c.setQd ch x).handN = c.handN := rfl
@[simp] theorem Chip.setQd_armRec (c : Chip) (ch : Nat) (x : Qdr) : (c.setQd ch x).armRec = c.armRec := rfl
@[simp] theorem Chip.setQd_gated (c : Chip) (ch : Nat) (x : Qdr) : (c.setQd ch x).gated = c.gated := rfl
@[simp] theorem Chip.setQd_free (c : Chip) (ch : Nat) (x : Qdr) : (c.setQd ch x).free = c.free := rfl
@[simp] theorem Chip.setQd_trace (c : Chip) (ch : Nat) (x : Qdr) : (c.setQd ch x).trace = c.trace := rfl
@[simp] theorem Chip.setQd_blk (c : Chip) (ch : Nat) (x : Qdr) : (c.setQd ch x).blk = c.blk := rfl
@[simp] theorem Chip.setQd_blkAt (c : Chip) (ch : Nat) (x : Qdr) : (c.setQd ch x).blkAt = c.blkAt := rfl
@[simp] theorem Chip.setQd_roles (c : Chip) (ch : Nat) (x : Qdr) : (c.setQd ch x).roles = c.roles := rfl
@[simp] theorem Chip.setQd_web (c : Chip) (ch : Nat) (x : Qdr) : (c.setQd ch x).web = c.web := rfl
@[simp] theorem Chip.setQd_deckle (c : Chip) (ch : Nat) (x : Qdr) : (c.setQd ch x).deckle = c.deckle := rfl
@[simp] theorem Chip.setQd_dfail (c : Chip) (ch : Nat) (x : Qdr) : (c.setQd ch x).dfail = c.dfail := rfl
@[simp] theorem Chip.setQd_wdAt (c : Chip) (ch : Nat) (x : Qdr) : (c.setQd ch x).wdAt = c.wdAt := rfl
@[simp] theorem Chip.setQd_parts (c : Chip) (ch : Nat) (x : Qdr) : (c.setQd ch x).parts = c.parts := rfl
@[simp] theorem Chip.setQd_yieldDue (c : Chip) (ch : Nat) (x : Qdr) : (c.setQd ch x).yieldDue = c.yieldDue := rfl
@[simp] theorem Chip.setQd_fp (c : Chip) (ch : Nat) (x : Qdr) : (c.setQd ch x).fp = c.fp := rfl
@[simp] theorem Chip.setQd_plt (c : Chip) (ch : Nat) (x : Qdr) : (c.setQd ch x).plt = c.plt := rfl
@[simp] theorem Chip.setQd_pair (c : Chip) (ch : Nat) (x : Qdr) : (c.setQd ch x).pair = c.pair := rfl
@[simp] theorem Chip.setQd_lockAt (c : Chip) (ch : Nat) (x : Qdr) : (c.setQd ch x).lockAt = c.lockAt := rfl
@[simp] theorem Chip.setQd_power (c : Chip) (ch : Nat) (x : Qdr) : (c.setQd ch x).power = c.power := rfl
@[simp] theorem Chip.setQd_regs (c : Chip) (ch : Nat) (x : Qdr) : (c.setQd ch x).regs = c.regs := rfl
@[simp] theorem Chip.setQd_staged (c : Chip) (ch : Nat) (x : Qdr) : (c.setQd ch x).staged = c.staged := rfl
@[simp] theorem Chip.setQd_captured (c : Chip) (ch : Nat) (x : Qdr) : (c.setQd ch x).captured = c.captured := rfl
@[simp] theorem Chip.setQd_caps (c : Chip) (ch : Nat) (x : Qdr) : (c.setQd ch x).caps = c.caps := rfl
@[simp] theorem Chip.setQd_banked (c : Chip) (ch : Nat) (x : Qdr) : (c.setQd ch x).banked = c.banked := rfl
@[simp] theorem Chip.setQd_hub (c : Chip) (ch : Nat) (x : Qdr) : (c.setQd ch x).hub = c.hub := rfl
@[simp] theorem Chip.setQd_reply (c : Chip) (ch : Nat) (x : Qdr) : (c.setQd ch x).reply = c.reply := rfl
@[simp] theorem Chip.setQd_bankA (c : Chip) (ch : Nat) (x : Qdr) : (c.setQd ch x).bankA = c.bankA := rfl
@[simp] theorem Chip.setQd_bankB (c : Chip) (ch : Nat) (x : Qdr) : (c.setQd ch x).bankB = c.bankB := rfl
@[simp] theorem Chip.setQd_liveB (c : Chip) (ch : Nat) (x : Qdr) : (c.setQd ch x).liveB = c.liveB := rfl
@[simp] theorem Chip.setQd_isLive (c : Chip) (ch : Nat) (x : Qdr) : (c.setQd ch x).isLive = c.isLive := rfl
@[simp] theorem Chip.setQd_armedAt (c : Chip) (ch : Nat) (x : Qdr) : (c.setQd ch x).armedAt = c.armedAt := rfl
@[simp] theorem Chip.setQd_committed (c : Chip) (ch : Nat) (x : Qdr) : (c.setQd ch x).committed = c.committed := rfl
@[simp] theorem Chip.setQd_now (c : Chip) (ch : Nat) (x : Qdr) : (c.setQd ch x).now = c.now := rfl
@[simp] theorem Chip.setQd_nowFrac (c : Chip) (ch : Nat) (x : Qdr) : (c.setQd ch x).nowFrac = c.nowFrac := rfl
@[simp] theorem Chip.setQd_catchAt (c : Chip) (ch : Nat) (x : Qdr) : (c.setQd ch x).catchAt = c.catchAt := rfl
@[simp] theorem Chip.setQd_stroke (c : Chip) (ch : Nat) (x : Qdr) : (c.setQd ch x).stroke = c.stroke := rfl
@[simp] theorem Chip.setQd_strokeOn (c : Chip) (ch : Nat) (x : Qdr) : (c.setQd ch x).strokeOn = c.strokeOn := rfl

/-! ### setLp -/

@[simp] theorem Chip.setLp_pipes (c : Chip) (k : Nat) (x : Lpd) : (c.setLp k x).pipes = c.pipes := rfl
@[simp] theorem Chip.setLp_sets (c : Chip) (k : Nat) (x : Lpd) : (c.setLp k x).sets = c.sets := rfl
@[simp] theorem Chip.setLp_eights (c : Chip) (k : Nat) (x : Lpd) : (c.setLp k x).eights = c.eights := rfl
@[simp] theorem Chip.setLp_mem (c : Chip) (k : Nat) (x : Lpd) : (c.setLp k x).mem = c.mem := rfl
@[simp] theorem Chip.setLp_tmBad (c : Chip) (k : Nat) (x : Lpd) : (c.setLp k x).tmBad = c.tmBad := rfl
@[simp] theorem Chip.setLp_rings (c : Chip) (k : Nat) (x : Lpd) : (c.setLp k x).rings = c.rings := rfl
@[simp] theorem Chip.setLp_lane (c : Chip) (k : Nat) (x : Lpd) : (c.setLp k x).lane = c.lane := rfl
@[simp] theorem Chip.setLp_saved (c : Chip) (k : Nat) (x : Lpd) : (c.setLp k x).saved = c.saved := rfl
@[simp] theorem Chip.setLp_hand (c : Chip) (k : Nat) (x : Lpd) : (c.setLp k x).hand = c.hand := rfl
@[simp] theorem Chip.setLp_handN (c : Chip) (k : Nat) (x : Lpd) : (c.setLp k x).handN = c.handN := rfl
@[simp] theorem Chip.setLp_armRec (c : Chip) (k : Nat) (x : Lpd) : (c.setLp k x).armRec = c.armRec := rfl
@[simp] theorem Chip.setLp_gated (c : Chip) (k : Nat) (x : Lpd) : (c.setLp k x).gated = c.gated := rfl
@[simp] theorem Chip.setLp_free (c : Chip) (k : Nat) (x : Lpd) : (c.setLp k x).free = c.free := rfl
@[simp] theorem Chip.setLp_trace (c : Chip) (k : Nat) (x : Lpd) : (c.setLp k x).trace = c.trace := rfl
@[simp] theorem Chip.setLp_blk (c : Chip) (k : Nat) (x : Lpd) : (c.setLp k x).blk = c.blk := rfl
@[simp] theorem Chip.setLp_blkAt (c : Chip) (k : Nat) (x : Lpd) : (c.setLp k x).blkAt = c.blkAt := rfl
@[simp] theorem Chip.setLp_roles (c : Chip) (k : Nat) (x : Lpd) : (c.setLp k x).roles = c.roles := rfl
@[simp] theorem Chip.setLp_web (c : Chip) (k : Nat) (x : Lpd) : (c.setLp k x).web = c.web := rfl
@[simp] theorem Chip.setLp_deckle (c : Chip) (k : Nat) (x : Lpd) : (c.setLp k x).deckle = c.deckle := rfl
@[simp] theorem Chip.setLp_dfail (c : Chip) (k : Nat) (x : Lpd) : (c.setLp k x).dfail = c.dfail := rfl
@[simp] theorem Chip.setLp_wdAt (c : Chip) (k : Nat) (x : Lpd) : (c.setLp k x).wdAt = c.wdAt := rfl
@[simp] theorem Chip.setLp_parts (c : Chip) (k : Nat) (x : Lpd) : (c.setLp k x).parts = c.parts := rfl
@[simp] theorem Chip.setLp_yieldDue (c : Chip) (k : Nat) (x : Lpd) : (c.setLp k x).yieldDue = c.yieldDue := rfl
@[simp] theorem Chip.setLp_fp (c : Chip) (k : Nat) (x : Lpd) : (c.setLp k x).fp = c.fp := rfl
@[simp] theorem Chip.setLp_plt (c : Chip) (k : Nat) (x : Lpd) : (c.setLp k x).plt = c.plt := rfl
@[simp] theorem Chip.setLp_pair (c : Chip) (k : Nat) (x : Lpd) : (c.setLp k x).pair = c.pair := rfl
@[simp] theorem Chip.setLp_lockAt (c : Chip) (k : Nat) (x : Lpd) : (c.setLp k x).lockAt = c.lockAt := rfl
@[simp] theorem Chip.setLp_power (c : Chip) (k : Nat) (x : Lpd) : (c.setLp k x).power = c.power := rfl
@[simp] theorem Chip.setLp_regs (c : Chip) (k : Nat) (x : Lpd) : (c.setLp k x).regs = c.regs := rfl
@[simp] theorem Chip.setLp_staged (c : Chip) (k : Nat) (x : Lpd) : (c.setLp k x).staged = c.staged := rfl
@[simp] theorem Chip.setLp_captured (c : Chip) (k : Nat) (x : Lpd) : (c.setLp k x).captured = c.captured := rfl
@[simp] theorem Chip.setLp_caps (c : Chip) (k : Nat) (x : Lpd) : (c.setLp k x).caps = c.caps := rfl
@[simp] theorem Chip.setLp_banked (c : Chip) (k : Nat) (x : Lpd) : (c.setLp k x).banked = c.banked := rfl
@[simp] theorem Chip.setLp_hub (c : Chip) (k : Nat) (x : Lpd) : (c.setLp k x).hub = c.hub := rfl
@[simp] theorem Chip.setLp_reply (c : Chip) (k : Nat) (x : Lpd) : (c.setLp k x).reply = c.reply := rfl
@[simp] theorem Chip.setLp_bankA (c : Chip) (k : Nat) (x : Lpd) : (c.setLp k x).bankA = c.bankA := rfl
@[simp] theorem Chip.setLp_bankB (c : Chip) (k : Nat) (x : Lpd) : (c.setLp k x).bankB = c.bankB := rfl
@[simp] theorem Chip.setLp_liveB (c : Chip) (k : Nat) (x : Lpd) : (c.setLp k x).liveB = c.liveB := rfl
@[simp] theorem Chip.setLp_isLive (c : Chip) (k : Nat) (x : Lpd) : (c.setLp k x).isLive = c.isLive := rfl
@[simp] theorem Chip.setLp_armedAt (c : Chip) (k : Nat) (x : Lpd) : (c.setLp k x).armedAt = c.armedAt := rfl
@[simp] theorem Chip.setLp_committed (c : Chip) (k : Nat) (x : Lpd) : (c.setLp k x).committed = c.committed := rfl
@[simp] theorem Chip.setLp_now (c : Chip) (k : Nat) (x : Lpd) : (c.setLp k x).now = c.now := rfl
@[simp] theorem Chip.setLp_nowFrac (c : Chip) (k : Nat) (x : Lpd) : (c.setLp k x).nowFrac = c.nowFrac := rfl
@[simp] theorem Chip.setLp_catchAt (c : Chip) (k : Nat) (x : Lpd) : (c.setLp k x).catchAt = c.catchAt := rfl
@[simp] theorem Chip.setLp_stroke (c : Chip) (k : Nat) (x : Lpd) : (c.setLp k x).stroke = c.stroke := rfl
@[simp] theorem Chip.setLp_strokeOn (c : Chip) (k : Nat) (x : Lpd) : (c.setLp k x).strokeOn = c.strokeOn := rfl

/-! ### setLn -/

@[simp] theorem Chip.setLn_pipes (c : Chip) (l : Nat) (x : Lane) : (c.setLn l x).pipes = c.pipes := rfl
@[simp] theorem Chip.setLn_sets (c : Chip) (l : Nat) (x : Lane) : (c.setLn l x).sets = c.sets := rfl
@[simp] theorem Chip.setLn_eights (c : Chip) (l : Nat) (x : Lane) : (c.setLn l x).eights = c.eights := rfl
@[simp] theorem Chip.setLn_mem (c : Chip) (l : Nat) (x : Lane) : (c.setLn l x).mem = c.mem := rfl
@[simp] theorem Chip.setLn_tmBad (c : Chip) (l : Nat) (x : Lane) : (c.setLn l x).tmBad = c.tmBad := rfl
@[simp] theorem Chip.setLn_ext (c : Chip) (l : Nat) (x : Lane) : (c.setLn l x).ext = c.ext := rfl
@[simp] theorem Chip.setLn_rings (c : Chip) (l : Nat) (x : Lane) : (c.setLn l x).rings = c.rings := rfl
@[simp] theorem Chip.setLn_saved (c : Chip) (l : Nat) (x : Lane) : (c.setLn l x).saved = c.saved := rfl
@[simp] theorem Chip.setLn_hand (c : Chip) (l : Nat) (x : Lane) : (c.setLn l x).hand = c.hand := rfl
@[simp] theorem Chip.setLn_handN (c : Chip) (l : Nat) (x : Lane) : (c.setLn l x).handN = c.handN := rfl
@[simp] theorem Chip.setLn_armRec (c : Chip) (l : Nat) (x : Lane) : (c.setLn l x).armRec = c.armRec := rfl
@[simp] theorem Chip.setLn_gated (c : Chip) (l : Nat) (x : Lane) : (c.setLn l x).gated = c.gated := rfl
@[simp] theorem Chip.setLn_free (c : Chip) (l : Nat) (x : Lane) : (c.setLn l x).free = c.free := rfl
@[simp] theorem Chip.setLn_trace (c : Chip) (l : Nat) (x : Lane) : (c.setLn l x).trace = c.trace := rfl
@[simp] theorem Chip.setLn_blk (c : Chip) (l : Nat) (x : Lane) : (c.setLn l x).blk = c.blk := rfl
@[simp] theorem Chip.setLn_blkAt (c : Chip) (l : Nat) (x : Lane) : (c.setLn l x).blkAt = c.blkAt := rfl
@[simp] theorem Chip.setLn_roles (c : Chip) (l : Nat) (x : Lane) : (c.setLn l x).roles = c.roles := rfl
@[simp] theorem Chip.setLn_web (c : Chip) (l : Nat) (x : Lane) : (c.setLn l x).web = c.web := rfl
@[simp] theorem Chip.setLn_deckle (c : Chip) (l : Nat) (x : Lane) : (c.setLn l x).deckle = c.deckle := rfl
@[simp] theorem Chip.setLn_dfail (c : Chip) (l : Nat) (x : Lane) : (c.setLn l x).dfail = c.dfail := rfl
@[simp] theorem Chip.setLn_wdAt (c : Chip) (l : Nat) (x : Lane) : (c.setLn l x).wdAt = c.wdAt := rfl
@[simp] theorem Chip.setLn_parts (c : Chip) (l : Nat) (x : Lane) : (c.setLn l x).parts = c.parts := rfl
@[simp] theorem Chip.setLn_yieldDue (c : Chip) (l : Nat) (x : Lane) : (c.setLn l x).yieldDue = c.yieldDue := rfl
@[simp] theorem Chip.setLn_fp (c : Chip) (l : Nat) (x : Lane) : (c.setLn l x).fp = c.fp := rfl
@[simp] theorem Chip.setLn_plt (c : Chip) (l : Nat) (x : Lane) : (c.setLn l x).plt = c.plt := rfl
@[simp] theorem Chip.setLn_pair (c : Chip) (l : Nat) (x : Lane) : (c.setLn l x).pair = c.pair := rfl
@[simp] theorem Chip.setLn_lockAt (c : Chip) (l : Nat) (x : Lane) : (c.setLn l x).lockAt = c.lockAt := rfl
@[simp] theorem Chip.setLn_power (c : Chip) (l : Nat) (x : Lane) : (c.setLn l x).power = c.power := rfl
@[simp] theorem Chip.setLn_regs (c : Chip) (l : Nat) (x : Lane) : (c.setLn l x).regs = c.regs := rfl
@[simp] theorem Chip.setLn_staged (c : Chip) (l : Nat) (x : Lane) : (c.setLn l x).staged = c.staged := rfl
@[simp] theorem Chip.setLn_captured (c : Chip) (l : Nat) (x : Lane) : (c.setLn l x).captured = c.captured := rfl
@[simp] theorem Chip.setLn_caps (c : Chip) (l : Nat) (x : Lane) : (c.setLn l x).caps = c.caps := rfl
@[simp] theorem Chip.setLn_banked (c : Chip) (l : Nat) (x : Lane) : (c.setLn l x).banked = c.banked := rfl
@[simp] theorem Chip.setLn_hub (c : Chip) (l : Nat) (x : Lane) : (c.setLn l x).hub = c.hub := rfl
@[simp] theorem Chip.setLn_reply (c : Chip) (l : Nat) (x : Lane) : (c.setLn l x).reply = c.reply := rfl
@[simp] theorem Chip.setLn_bankA (c : Chip) (l : Nat) (x : Lane) : (c.setLn l x).bankA = c.bankA := rfl
@[simp] theorem Chip.setLn_bankB (c : Chip) (l : Nat) (x : Lane) : (c.setLn l x).bankB = c.bankB := rfl
@[simp] theorem Chip.setLn_liveB (c : Chip) (l : Nat) (x : Lane) : (c.setLn l x).liveB = c.liveB := rfl
@[simp] theorem Chip.setLn_isLive (c : Chip) (l : Nat) (x : Lane) : (c.setLn l x).isLive = c.isLive := rfl
@[simp] theorem Chip.setLn_armedAt (c : Chip) (l : Nat) (x : Lane) : (c.setLn l x).armedAt = c.armedAt := rfl
@[simp] theorem Chip.setLn_committed (c : Chip) (l : Nat) (x : Lane) : (c.setLn l x).committed = c.committed := rfl
@[simp] theorem Chip.setLn_now (c : Chip) (l : Nat) (x : Lane) : (c.setLn l x).now = c.now := rfl
@[simp] theorem Chip.setLn_nowFrac (c : Chip) (l : Nat) (x : Lane) : (c.setLn l x).nowFrac = c.nowFrac := rfl
@[simp] theorem Chip.setLn_catchAt (c : Chip) (l : Nat) (x : Lane) : (c.setLn l x).catchAt = c.catchAt := rfl
@[simp] theorem Chip.setLn_stroke (c : Chip) (l : Nat) (x : Lane) : (c.setLn l x).stroke = c.stroke := rfl
@[simp] theorem Chip.setLn_strokeOn (c : Chip) (l : Nat) (x : Lane) : (c.setLn l x).strokeOn = c.strokeOn := rfl

/-! ### setHandles -/

@[simp] theorem Chip.setHandles_pipes (c : Chip) (party : Nat) (x : Handles) : (c.setHandles party x).pipes = c.pipes := rfl
@[simp] theorem Chip.setHandles_sets (c : Chip) (party : Nat) (x : Handles) : (c.setHandles party x).sets = c.sets := rfl
@[simp] theorem Chip.setHandles_eights (c : Chip) (party : Nat) (x : Handles) : (c.setHandles party x).eights = c.eights := rfl
@[simp] theorem Chip.setHandles_mem (c : Chip) (party : Nat) (x : Handles) : (c.setHandles party x).mem = c.mem := rfl
@[simp] theorem Chip.setHandles_tmBad (c : Chip) (party : Nat) (x : Handles) : (c.setHandles party x).tmBad = c.tmBad := rfl
@[simp] theorem Chip.setHandles_ext (c : Chip) (party : Nat) (x : Handles) : (c.setHandles party x).ext = c.ext := rfl
@[simp] theorem Chip.setHandles_rings (c : Chip) (party : Nat) (x : Handles) : (c.setHandles party x).rings = c.rings := rfl
@[simp] theorem Chip.setHandles_saved (c : Chip) (party : Nat) (x : Handles) : (c.setHandles party x).saved = c.saved := rfl
@[simp] theorem Chip.setHandles_hand (c : Chip) (party : Nat) (x : Handles) : (c.setHandles party x).hand = c.hand := rfl
@[simp] theorem Chip.setHandles_handN (c : Chip) (party : Nat) (x : Handles) : (c.setHandles party x).handN = c.handN := rfl
@[simp] theorem Chip.setHandles_armRec (c : Chip) (party : Nat) (x : Handles) : (c.setHandles party x).armRec = c.armRec := rfl
@[simp] theorem Chip.setHandles_gated (c : Chip) (party : Nat) (x : Handles) : (c.setHandles party x).gated = c.gated := rfl
@[simp] theorem Chip.setHandles_free (c : Chip) (party : Nat) (x : Handles) : (c.setHandles party x).free = c.free := rfl
@[simp] theorem Chip.setHandles_trace (c : Chip) (party : Nat) (x : Handles) : (c.setHandles party x).trace = c.trace := rfl
@[simp] theorem Chip.setHandles_blk (c : Chip) (party : Nat) (x : Handles) : (c.setHandles party x).blk = c.blk := rfl
@[simp] theorem Chip.setHandles_blkAt (c : Chip) (party : Nat) (x : Handles) : (c.setHandles party x).blkAt = c.blkAt := rfl
@[simp] theorem Chip.setHandles_roles (c : Chip) (party : Nat) (x : Handles) : (c.setHandles party x).roles = c.roles := rfl
@[simp] theorem Chip.setHandles_web (c : Chip) (party : Nat) (x : Handles) : (c.setHandles party x).web = c.web := rfl
@[simp] theorem Chip.setHandles_deckle (c : Chip) (party : Nat) (x : Handles) : (c.setHandles party x).deckle = c.deckle := rfl
@[simp] theorem Chip.setHandles_dfail (c : Chip) (party : Nat) (x : Handles) : (c.setHandles party x).dfail = c.dfail := rfl
@[simp] theorem Chip.setHandles_wdAt (c : Chip) (party : Nat) (x : Handles) : (c.setHandles party x).wdAt = c.wdAt := rfl
@[simp] theorem Chip.setHandles_parts (c : Chip) (party : Nat) (x : Handles) : (c.setHandles party x).parts = c.parts := rfl
@[simp] theorem Chip.setHandles_yieldDue (c : Chip) (party : Nat) (x : Handles) : (c.setHandles party x).yieldDue = c.yieldDue := rfl
@[simp] theorem Chip.setHandles_fp (c : Chip) (party : Nat) (x : Handles) : (c.setHandles party x).fp = c.fp := rfl
@[simp] theorem Chip.setHandles_plt (c : Chip) (party : Nat) (x : Handles) : (c.setHandles party x).plt = c.plt := rfl
@[simp] theorem Chip.setHandles_pair (c : Chip) (party : Nat) (x : Handles) : (c.setHandles party x).pair = c.pair := rfl
@[simp] theorem Chip.setHandles_lockAt (c : Chip) (party : Nat) (x : Handles) : (c.setHandles party x).lockAt = c.lockAt := rfl
@[simp] theorem Chip.setHandles_power (c : Chip) (party : Nat) (x : Handles) : (c.setHandles party x).power = c.power := rfl
@[simp] theorem Chip.setHandles_regs (c : Chip) (party : Nat) (x : Handles) : (c.setHandles party x).regs = c.regs := rfl
@[simp] theorem Chip.setHandles_staged (c : Chip) (party : Nat) (x : Handles) : (c.setHandles party x).staged = c.staged := rfl
@[simp] theorem Chip.setHandles_captured (c : Chip) (party : Nat) (x : Handles) : (c.setHandles party x).captured = c.captured := rfl
@[simp] theorem Chip.setHandles_caps (c : Chip) (party : Nat) (x : Handles) : (c.setHandles party x).caps = c.caps := rfl
@[simp] theorem Chip.setHandles_banked (c : Chip) (party : Nat) (x : Handles) : (c.setHandles party x).banked = c.banked := rfl
@[simp] theorem Chip.setHandles_hub (c : Chip) (party : Nat) (x : Handles) : (c.setHandles party x).hub = c.hub := rfl
@[simp] theorem Chip.setHandles_reply (c : Chip) (party : Nat) (x : Handles) : (c.setHandles party x).reply = c.reply := rfl
@[simp] theorem Chip.setHandles_bankA (c : Chip) (party : Nat) (x : Handles) : (c.setHandles party x).bankA = c.bankA := rfl
@[simp] theorem Chip.setHandles_bankB (c : Chip) (party : Nat) (x : Handles) : (c.setHandles party x).bankB = c.bankB := rfl
@[simp] theorem Chip.setHandles_liveB (c : Chip) (party : Nat) (x : Handles) : (c.setHandles party x).liveB = c.liveB := rfl
@[simp] theorem Chip.setHandles_isLive (c : Chip) (party : Nat) (x : Handles) : (c.setHandles party x).isLive = c.isLive := rfl
@[simp] theorem Chip.setHandles_armedAt (c : Chip) (party : Nat) (x : Handles) : (c.setHandles party x).armedAt = c.armedAt := rfl
@[simp] theorem Chip.setHandles_committed (c : Chip) (party : Nat) (x : Handles) : (c.setHandles party x).committed = c.committed := rfl
@[simp] theorem Chip.setHandles_now (c : Chip) (party : Nat) (x : Handles) : (c.setHandles party x).now = c.now := rfl
@[simp] theorem Chip.setHandles_nowFrac (c : Chip) (party : Nat) (x : Handles) : (c.setHandles party x).nowFrac = c.nowFrac := rfl
@[simp] theorem Chip.setHandles_catchAt (c : Chip) (party : Nat) (x : Handles) : (c.setHandles party x).catchAt = c.catchAt := rfl
@[simp] theorem Chip.setHandles_stroke (c : Chip) (party : Nat) (x : Handles) : (c.setHandles party x).stroke = c.stroke := rfl
@[simp] theorem Chip.setHandles_strokeOn (c : Chip) (party : Nat) (x : Handles) : (c.setHandles party x).strokeOn = c.strokeOn := rfl

/-! ### setFport -/

@[simp] theorem Chip.setFport_pipes (c : Chip) (n : Nat) (x : FPort) : (c.setFport n x).pipes = c.pipes := rfl
@[simp] theorem Chip.setFport_sets (c : Chip) (n : Nat) (x : FPort) : (c.setFport n x).sets = c.sets := rfl
@[simp] theorem Chip.setFport_eights (c : Chip) (n : Nat) (x : FPort) : (c.setFport n x).eights = c.eights := rfl
@[simp] theorem Chip.setFport_mem (c : Chip) (n : Nat) (x : FPort) : (c.setFport n x).mem = c.mem := rfl
@[simp] theorem Chip.setFport_tmBad (c : Chip) (n : Nat) (x : FPort) : (c.setFport n x).tmBad = c.tmBad := rfl
@[simp] theorem Chip.setFport_ext (c : Chip) (n : Nat) (x : FPort) : (c.setFport n x).ext = c.ext := rfl
@[simp] theorem Chip.setFport_rings (c : Chip) (n : Nat) (x : FPort) : (c.setFport n x).rings = c.rings := rfl
@[simp] theorem Chip.setFport_lane (c : Chip) (n : Nat) (x : FPort) : (c.setFport n x).lane = c.lane := rfl
@[simp] theorem Chip.setFport_saved (c : Chip) (n : Nat) (x : FPort) : (c.setFport n x).saved = c.saved := rfl
@[simp] theorem Chip.setFport_hand (c : Chip) (n : Nat) (x : FPort) : (c.setFport n x).hand = c.hand := rfl
@[simp] theorem Chip.setFport_handN (c : Chip) (n : Nat) (x : FPort) : (c.setFport n x).handN = c.handN := rfl
@[simp] theorem Chip.setFport_armRec (c : Chip) (n : Nat) (x : FPort) : (c.setFport n x).armRec = c.armRec := rfl
@[simp] theorem Chip.setFport_gated (c : Chip) (n : Nat) (x : FPort) : (c.setFport n x).gated = c.gated := rfl
@[simp] theorem Chip.setFport_free (c : Chip) (n : Nat) (x : FPort) : (c.setFport n x).free = c.free := rfl
@[simp] theorem Chip.setFport_trace (c : Chip) (n : Nat) (x : FPort) : (c.setFport n x).trace = c.trace := rfl
@[simp] theorem Chip.setFport_blk (c : Chip) (n : Nat) (x : FPort) : (c.setFport n x).blk = c.blk := rfl
@[simp] theorem Chip.setFport_blkAt (c : Chip) (n : Nat) (x : FPort) : (c.setFport n x).blkAt = c.blkAt := rfl
@[simp] theorem Chip.setFport_roles (c : Chip) (n : Nat) (x : FPort) : (c.setFport n x).roles = c.roles := rfl
@[simp] theorem Chip.setFport_web (c : Chip) (n : Nat) (x : FPort) : (c.setFport n x).web = c.web := rfl
@[simp] theorem Chip.setFport_deckle (c : Chip) (n : Nat) (x : FPort) : (c.setFport n x).deckle = c.deckle := rfl
@[simp] theorem Chip.setFport_dfail (c : Chip) (n : Nat) (x : FPort) : (c.setFport n x).dfail = c.dfail := rfl
@[simp] theorem Chip.setFport_wdAt (c : Chip) (n : Nat) (x : FPort) : (c.setFport n x).wdAt = c.wdAt := rfl
@[simp] theorem Chip.setFport_parts (c : Chip) (n : Nat) (x : FPort) : (c.setFport n x).parts = c.parts := rfl
@[simp] theorem Chip.setFport_yieldDue (c : Chip) (n : Nat) (x : FPort) : (c.setFport n x).yieldDue = c.yieldDue := rfl
@[simp] theorem Chip.setFport_plt (c : Chip) (n : Nat) (x : FPort) : (c.setFport n x).plt = c.plt := rfl
@[simp] theorem Chip.setFport_pair (c : Chip) (n : Nat) (x : FPort) : (c.setFport n x).pair = c.pair := rfl
@[simp] theorem Chip.setFport_lockAt (c : Chip) (n : Nat) (x : FPort) : (c.setFport n x).lockAt = c.lockAt := rfl
@[simp] theorem Chip.setFport_power (c : Chip) (n : Nat) (x : FPort) : (c.setFport n x).power = c.power := rfl
@[simp] theorem Chip.setFport_regs (c : Chip) (n : Nat) (x : FPort) : (c.setFport n x).regs = c.regs := rfl
@[simp] theorem Chip.setFport_staged (c : Chip) (n : Nat) (x : FPort) : (c.setFport n x).staged = c.staged := rfl
@[simp] theorem Chip.setFport_captured (c : Chip) (n : Nat) (x : FPort) : (c.setFport n x).captured = c.captured := rfl
@[simp] theorem Chip.setFport_caps (c : Chip) (n : Nat) (x : FPort) : (c.setFport n x).caps = c.caps := rfl
@[simp] theorem Chip.setFport_banked (c : Chip) (n : Nat) (x : FPort) : (c.setFport n x).banked = c.banked := rfl
@[simp] theorem Chip.setFport_hub (c : Chip) (n : Nat) (x : FPort) : (c.setFport n x).hub = c.hub := rfl
@[simp] theorem Chip.setFport_reply (c : Chip) (n : Nat) (x : FPort) : (c.setFport n x).reply = c.reply := rfl
@[simp] theorem Chip.setFport_bankA (c : Chip) (n : Nat) (x : FPort) : (c.setFport n x).bankA = c.bankA := rfl
@[simp] theorem Chip.setFport_bankB (c : Chip) (n : Nat) (x : FPort) : (c.setFport n x).bankB = c.bankB := rfl
@[simp] theorem Chip.setFport_liveB (c : Chip) (n : Nat) (x : FPort) : (c.setFport n x).liveB = c.liveB := rfl
@[simp] theorem Chip.setFport_isLive (c : Chip) (n : Nat) (x : FPort) : (c.setFport n x).isLive = c.isLive := rfl
@[simp] theorem Chip.setFport_armedAt (c : Chip) (n : Nat) (x : FPort) : (c.setFport n x).armedAt = c.armedAt := rfl
@[simp] theorem Chip.setFport_committed (c : Chip) (n : Nat) (x : FPort) : (c.setFport n x).committed = c.committed := rfl
@[simp] theorem Chip.setFport_now (c : Chip) (n : Nat) (x : FPort) : (c.setFport n x).now = c.now := rfl
@[simp] theorem Chip.setFport_nowFrac (c : Chip) (n : Nat) (x : FPort) : (c.setFport n x).nowFrac = c.nowFrac := rfl
@[simp] theorem Chip.setFport_catchAt (c : Chip) (n : Nat) (x : FPort) : (c.setFport n x).catchAt = c.catchAt := rfl
@[simp] theorem Chip.setFport_stroke (c : Chip) (n : Nat) (x : FPort) : (c.setFport n x).stroke = c.stroke := rfl
@[simp] theorem Chip.setFport_strokeOn (c : Chip) (n : Nat) (x : FPort) : (c.setFport n x).strokeOn = c.strokeOn := rfl

/-! ### setPport -/

@[simp] theorem Chip.setPport_pipes (c : Chip) (k : Nat) (x : PPort) : (c.setPport k x).pipes = c.pipes := rfl
@[simp] theorem Chip.setPport_sets (c : Chip) (k : Nat) (x : PPort) : (c.setPport k x).sets = c.sets := rfl
@[simp] theorem Chip.setPport_eights (c : Chip) (k : Nat) (x : PPort) : (c.setPport k x).eights = c.eights := rfl
@[simp] theorem Chip.setPport_mem (c : Chip) (k : Nat) (x : PPort) : (c.setPport k x).mem = c.mem := rfl
@[simp] theorem Chip.setPport_tmBad (c : Chip) (k : Nat) (x : PPort) : (c.setPport k x).tmBad = c.tmBad := rfl
@[simp] theorem Chip.setPport_ext (c : Chip) (k : Nat) (x : PPort) : (c.setPport k x).ext = c.ext := rfl
@[simp] theorem Chip.setPport_rings (c : Chip) (k : Nat) (x : PPort) : (c.setPport k x).rings = c.rings := rfl
@[simp] theorem Chip.setPport_lane (c : Chip) (k : Nat) (x : PPort) : (c.setPport k x).lane = c.lane := rfl
@[simp] theorem Chip.setPport_saved (c : Chip) (k : Nat) (x : PPort) : (c.setPport k x).saved = c.saved := rfl
@[simp] theorem Chip.setPport_hand (c : Chip) (k : Nat) (x : PPort) : (c.setPport k x).hand = c.hand := rfl
@[simp] theorem Chip.setPport_handN (c : Chip) (k : Nat) (x : PPort) : (c.setPport k x).handN = c.handN := rfl
@[simp] theorem Chip.setPport_armRec (c : Chip) (k : Nat) (x : PPort) : (c.setPport k x).armRec = c.armRec := rfl
@[simp] theorem Chip.setPport_gated (c : Chip) (k : Nat) (x : PPort) : (c.setPport k x).gated = c.gated := rfl
@[simp] theorem Chip.setPport_free (c : Chip) (k : Nat) (x : PPort) : (c.setPport k x).free = c.free := rfl
@[simp] theorem Chip.setPport_trace (c : Chip) (k : Nat) (x : PPort) : (c.setPport k x).trace = c.trace := rfl
@[simp] theorem Chip.setPport_blk (c : Chip) (k : Nat) (x : PPort) : (c.setPport k x).blk = c.blk := rfl
@[simp] theorem Chip.setPport_blkAt (c : Chip) (k : Nat) (x : PPort) : (c.setPport k x).blkAt = c.blkAt := rfl
@[simp] theorem Chip.setPport_roles (c : Chip) (k : Nat) (x : PPort) : (c.setPport k x).roles = c.roles := rfl
@[simp] theorem Chip.setPport_web (c : Chip) (k : Nat) (x : PPort) : (c.setPport k x).web = c.web := rfl
@[simp] theorem Chip.setPport_deckle (c : Chip) (k : Nat) (x : PPort) : (c.setPport k x).deckle = c.deckle := rfl
@[simp] theorem Chip.setPport_dfail (c : Chip) (k : Nat) (x : PPort) : (c.setPport k x).dfail = c.dfail := rfl
@[simp] theorem Chip.setPport_wdAt (c : Chip) (k : Nat) (x : PPort) : (c.setPport k x).wdAt = c.wdAt := rfl
@[simp] theorem Chip.setPport_parts (c : Chip) (k : Nat) (x : PPort) : (c.setPport k x).parts = c.parts := rfl
@[simp] theorem Chip.setPport_yieldDue (c : Chip) (k : Nat) (x : PPort) : (c.setPport k x).yieldDue = c.yieldDue := rfl
@[simp] theorem Chip.setPport_fp (c : Chip) (k : Nat) (x : PPort) : (c.setPport k x).fp = c.fp := rfl
@[simp] theorem Chip.setPport_pair (c : Chip) (k : Nat) (x : PPort) : (c.setPport k x).pair = c.pair := rfl
@[simp] theorem Chip.setPport_lockAt (c : Chip) (k : Nat) (x : PPort) : (c.setPport k x).lockAt = c.lockAt := rfl
@[simp] theorem Chip.setPport_power (c : Chip) (k : Nat) (x : PPort) : (c.setPport k x).power = c.power := rfl
@[simp] theorem Chip.setPport_regs (c : Chip) (k : Nat) (x : PPort) : (c.setPport k x).regs = c.regs := rfl
@[simp] theorem Chip.setPport_staged (c : Chip) (k : Nat) (x : PPort) : (c.setPport k x).staged = c.staged := rfl
@[simp] theorem Chip.setPport_captured (c : Chip) (k : Nat) (x : PPort) : (c.setPport k x).captured = c.captured := rfl
@[simp] theorem Chip.setPport_caps (c : Chip) (k : Nat) (x : PPort) : (c.setPport k x).caps = c.caps := rfl
@[simp] theorem Chip.setPport_banked (c : Chip) (k : Nat) (x : PPort) : (c.setPport k x).banked = c.banked := rfl
@[simp] theorem Chip.setPport_hub (c : Chip) (k : Nat) (x : PPort) : (c.setPport k x).hub = c.hub := rfl
@[simp] theorem Chip.setPport_reply (c : Chip) (k : Nat) (x : PPort) : (c.setPport k x).reply = c.reply := rfl
@[simp] theorem Chip.setPport_bankA (c : Chip) (k : Nat) (x : PPort) : (c.setPport k x).bankA = c.bankA := rfl
@[simp] theorem Chip.setPport_bankB (c : Chip) (k : Nat) (x : PPort) : (c.setPport k x).bankB = c.bankB := rfl
@[simp] theorem Chip.setPport_liveB (c : Chip) (k : Nat) (x : PPort) : (c.setPport k x).liveB = c.liveB := rfl
@[simp] theorem Chip.setPport_isLive (c : Chip) (k : Nat) (x : PPort) : (c.setPport k x).isLive = c.isLive := rfl
@[simp] theorem Chip.setPport_armedAt (c : Chip) (k : Nat) (x : PPort) : (c.setPport k x).armedAt = c.armedAt := rfl
@[simp] theorem Chip.setPport_committed (c : Chip) (k : Nat) (x : PPort) : (c.setPport k x).committed = c.committed := rfl
@[simp] theorem Chip.setPport_now (c : Chip) (k : Nat) (x : PPort) : (c.setPport k x).now = c.now := rfl
@[simp] theorem Chip.setPport_nowFrac (c : Chip) (k : Nat) (x : PPort) : (c.setPport k x).nowFrac = c.nowFrac := rfl
@[simp] theorem Chip.setPport_catchAt (c : Chip) (k : Nat) (x : PPort) : (c.setPport k x).catchAt = c.catchAt := rfl
@[simp] theorem Chip.setPport_stroke (c : Chip) (k : Nat) (x : PPort) : (c.setPport k x).stroke = c.stroke := rfl
@[simp] theorem Chip.setPport_strokeOn (c : Chip) (k : Nat) (x : PPort) : (c.setPport k x).strokeOn = c.strokeOn := rfl

/-! ### setPart -/

@[simp] theorem Chip.setPart_pipes (c : Chip) (k : Nat) (x : PartS) : (c.setPart k x).pipes = c.pipes := rfl
@[simp] theorem Chip.setPart_sets (c : Chip) (k : Nat) (x : PartS) : (c.setPart k x).sets = c.sets := rfl
@[simp] theorem Chip.setPart_eights (c : Chip) (k : Nat) (x : PartS) : (c.setPart k x).eights = c.eights := rfl
@[simp] theorem Chip.setPart_mem (c : Chip) (k : Nat) (x : PartS) : (c.setPart k x).mem = c.mem := rfl
@[simp] theorem Chip.setPart_tmBad (c : Chip) (k : Nat) (x : PartS) : (c.setPart k x).tmBad = c.tmBad := rfl
@[simp] theorem Chip.setPart_ext (c : Chip) (k : Nat) (x : PartS) : (c.setPart k x).ext = c.ext := rfl
@[simp] theorem Chip.setPart_rings (c : Chip) (k : Nat) (x : PartS) : (c.setPart k x).rings = c.rings := rfl
@[simp] theorem Chip.setPart_lane (c : Chip) (k : Nat) (x : PartS) : (c.setPart k x).lane = c.lane := rfl
@[simp] theorem Chip.setPart_saved (c : Chip) (k : Nat) (x : PartS) : (c.setPart k x).saved = c.saved := rfl
@[simp] theorem Chip.setPart_hand (c : Chip) (k : Nat) (x : PartS) : (c.setPart k x).hand = c.hand := rfl
@[simp] theorem Chip.setPart_handN (c : Chip) (k : Nat) (x : PartS) : (c.setPart k x).handN = c.handN := rfl
@[simp] theorem Chip.setPart_armRec (c : Chip) (k : Nat) (x : PartS) : (c.setPart k x).armRec = c.armRec := rfl
@[simp] theorem Chip.setPart_gated (c : Chip) (k : Nat) (x : PartS) : (c.setPart k x).gated = c.gated := rfl
@[simp] theorem Chip.setPart_free (c : Chip) (k : Nat) (x : PartS) : (c.setPart k x).free = c.free := rfl
@[simp] theorem Chip.setPart_trace (c : Chip) (k : Nat) (x : PartS) : (c.setPart k x).trace = c.trace := rfl
@[simp] theorem Chip.setPart_blk (c : Chip) (k : Nat) (x : PartS) : (c.setPart k x).blk = c.blk := rfl
@[simp] theorem Chip.setPart_blkAt (c : Chip) (k : Nat) (x : PartS) : (c.setPart k x).blkAt = c.blkAt := rfl
@[simp] theorem Chip.setPart_roles (c : Chip) (k : Nat) (x : PartS) : (c.setPart k x).roles = c.roles := rfl
@[simp] theorem Chip.setPart_web (c : Chip) (k : Nat) (x : PartS) : (c.setPart k x).web = c.web := rfl
@[simp] theorem Chip.setPart_deckle (c : Chip) (k : Nat) (x : PartS) : (c.setPart k x).deckle = c.deckle := rfl
@[simp] theorem Chip.setPart_dfail (c : Chip) (k : Nat) (x : PartS) : (c.setPart k x).dfail = c.dfail := rfl
@[simp] theorem Chip.setPart_wdAt (c : Chip) (k : Nat) (x : PartS) : (c.setPart k x).wdAt = c.wdAt := rfl
@[simp] theorem Chip.setPart_yieldDue (c : Chip) (k : Nat) (x : PartS) : (c.setPart k x).yieldDue = c.yieldDue := rfl
@[simp] theorem Chip.setPart_fp (c : Chip) (k : Nat) (x : PartS) : (c.setPart k x).fp = c.fp := rfl
@[simp] theorem Chip.setPart_plt (c : Chip) (k : Nat) (x : PartS) : (c.setPart k x).plt = c.plt := rfl
@[simp] theorem Chip.setPart_pair (c : Chip) (k : Nat) (x : PartS) : (c.setPart k x).pair = c.pair := rfl
@[simp] theorem Chip.setPart_lockAt (c : Chip) (k : Nat) (x : PartS) : (c.setPart k x).lockAt = c.lockAt := rfl
@[simp] theorem Chip.setPart_power (c : Chip) (k : Nat) (x : PartS) : (c.setPart k x).power = c.power := rfl
@[simp] theorem Chip.setPart_regs (c : Chip) (k : Nat) (x : PartS) : (c.setPart k x).regs = c.regs := rfl
@[simp] theorem Chip.setPart_staged (c : Chip) (k : Nat) (x : PartS) : (c.setPart k x).staged = c.staged := rfl
@[simp] theorem Chip.setPart_captured (c : Chip) (k : Nat) (x : PartS) : (c.setPart k x).captured = c.captured := rfl
@[simp] theorem Chip.setPart_caps (c : Chip) (k : Nat) (x : PartS) : (c.setPart k x).caps = c.caps := rfl
@[simp] theorem Chip.setPart_banked (c : Chip) (k : Nat) (x : PartS) : (c.setPart k x).banked = c.banked := rfl
@[simp] theorem Chip.setPart_hub (c : Chip) (k : Nat) (x : PartS) : (c.setPart k x).hub = c.hub := rfl
@[simp] theorem Chip.setPart_reply (c : Chip) (k : Nat) (x : PartS) : (c.setPart k x).reply = c.reply := rfl
@[simp] theorem Chip.setPart_bankA (c : Chip) (k : Nat) (x : PartS) : (c.setPart k x).bankA = c.bankA := rfl
@[simp] theorem Chip.setPart_bankB (c : Chip) (k : Nat) (x : PartS) : (c.setPart k x).bankB = c.bankB := rfl
@[simp] theorem Chip.setPart_liveB (c : Chip) (k : Nat) (x : PartS) : (c.setPart k x).liveB = c.liveB := rfl
@[simp] theorem Chip.setPart_isLive (c : Chip) (k : Nat) (x : PartS) : (c.setPart k x).isLive = c.isLive := rfl
@[simp] theorem Chip.setPart_armedAt (c : Chip) (k : Nat) (x : PartS) : (c.setPart k x).armedAt = c.armedAt := rfl
@[simp] theorem Chip.setPart_committed (c : Chip) (k : Nat) (x : PartS) : (c.setPart k x).committed = c.committed := rfl
@[simp] theorem Chip.setPart_now (c : Chip) (k : Nat) (x : PartS) : (c.setPart k x).now = c.now := rfl
@[simp] theorem Chip.setPart_nowFrac (c : Chip) (k : Nat) (x : PartS) : (c.setPart k x).nowFrac = c.nowFrac := rfl
@[simp] theorem Chip.setPart_catchAt (c : Chip) (k : Nat) (x : PartS) : (c.setPart k x).catchAt = c.catchAt := rfl
@[simp] theorem Chip.setPart_stroke (c : Chip) (k : Nat) (x : PartS) : (c.setPart k x).stroke = c.stroke := rfl
@[simp] theorem Chip.setPart_strokeOn (c : Chip) (k : Nat) (x : PartS) : (c.setPart k x).strokeOn = c.strokeOn := rfl

/-! ### bumpFld -/

@[simp] theorem Chip.bumpFld_pipes (c : Chip) (page off h l : Nat) : (c.bumpFld page off h l).pipes = c.pipes := by
  unfold Chip.bumpFld; dsimp only; split <;> rfl
@[simp] theorem Chip.bumpFld_sets (c : Chip) (page off h l : Nat) : (c.bumpFld page off h l).sets = c.sets := by
  unfold Chip.bumpFld; dsimp only; split <;> rfl
@[simp] theorem Chip.bumpFld_eights (c : Chip) (page off h l : Nat) : (c.bumpFld page off h l).eights = c.eights := by
  unfold Chip.bumpFld; dsimp only; split <;> rfl
@[simp] theorem Chip.bumpFld_mem (c : Chip) (page off h l : Nat) : (c.bumpFld page off h l).mem = c.mem := by
  unfold Chip.bumpFld; dsimp only; split <;> rfl
@[simp] theorem Chip.bumpFld_tmBad (c : Chip) (page off h l : Nat) : (c.bumpFld page off h l).tmBad = c.tmBad := by
  unfold Chip.bumpFld; dsimp only; split <;> rfl
@[simp] theorem Chip.bumpFld_ext (c : Chip) (page off h l : Nat) : (c.bumpFld page off h l).ext = c.ext := by
  unfold Chip.bumpFld; dsimp only; split <;> rfl
@[simp] theorem Chip.bumpFld_rings (c : Chip) (page off h l : Nat) : (c.bumpFld page off h l).rings = c.rings := by
  unfold Chip.bumpFld; dsimp only; split <;> rfl
@[simp] theorem Chip.bumpFld_lane (c : Chip) (page off h l : Nat) : (c.bumpFld page off h l).lane = c.lane := by
  unfold Chip.bumpFld; dsimp only; split <;> rfl
@[simp] theorem Chip.bumpFld_saved (c : Chip) (page off h l : Nat) : (c.bumpFld page off h l).saved = c.saved := by
  unfold Chip.bumpFld; dsimp only; split <;> rfl
@[simp] theorem Chip.bumpFld_hand (c : Chip) (page off h l : Nat) : (c.bumpFld page off h l).hand = c.hand := by
  unfold Chip.bumpFld; dsimp only; split <;> rfl
@[simp] theorem Chip.bumpFld_handN (c : Chip) (page off h l : Nat) : (c.bumpFld page off h l).handN = c.handN := by
  unfold Chip.bumpFld; dsimp only; split <;> rfl
@[simp] theorem Chip.bumpFld_armRec (c : Chip) (page off h l : Nat) : (c.bumpFld page off h l).armRec = c.armRec := by
  unfold Chip.bumpFld; dsimp only; split <;> rfl
@[simp] theorem Chip.bumpFld_gated (c : Chip) (page off h l : Nat) : (c.bumpFld page off h l).gated = c.gated := by
  unfold Chip.bumpFld; dsimp only; split <;> rfl
@[simp] theorem Chip.bumpFld_free (c : Chip) (page off h l : Nat) : (c.bumpFld page off h l).free = c.free := by
  unfold Chip.bumpFld; dsimp only; split <;> rfl
@[simp] theorem Chip.bumpFld_trace (c : Chip) (page off h l : Nat) : (c.bumpFld page off h l).trace = c.trace := by
  unfold Chip.bumpFld; dsimp only; split <;> rfl
@[simp] theorem Chip.bumpFld_blk (c : Chip) (page off h l : Nat) : (c.bumpFld page off h l).blk = c.blk := by
  unfold Chip.bumpFld; dsimp only; split <;> rfl
@[simp] theorem Chip.bumpFld_blkAt (c : Chip) (page off h l : Nat) : (c.bumpFld page off h l).blkAt = c.blkAt := by
  unfold Chip.bumpFld; dsimp only; split <;> rfl
@[simp] theorem Chip.bumpFld_roles (c : Chip) (page off h l : Nat) : (c.bumpFld page off h l).roles = c.roles := by
  unfold Chip.bumpFld; dsimp only; split <;> rfl
@[simp] theorem Chip.bumpFld_web (c : Chip) (page off h l : Nat) : (c.bumpFld page off h l).web = c.web := by
  unfold Chip.bumpFld; dsimp only; split <;> rfl
@[simp] theorem Chip.bumpFld_deckle (c : Chip) (page off h l : Nat) : (c.bumpFld page off h l).deckle = c.deckle := by
  unfold Chip.bumpFld; dsimp only; split <;> rfl
@[simp] theorem Chip.bumpFld_dfail (c : Chip) (page off h l : Nat) : (c.bumpFld page off h l).dfail = c.dfail := by
  unfold Chip.bumpFld; dsimp only; split <;> rfl
@[simp] theorem Chip.bumpFld_wdAt (c : Chip) (page off h l : Nat) : (c.bumpFld page off h l).wdAt = c.wdAt := by
  unfold Chip.bumpFld; dsimp only; split <;> rfl
@[simp] theorem Chip.bumpFld_parts (c : Chip) (page off h l : Nat) : (c.bumpFld page off h l).parts = c.parts := by
  unfold Chip.bumpFld; dsimp only; split <;> rfl
@[simp] theorem Chip.bumpFld_yieldDue (c : Chip) (page off h l : Nat) : (c.bumpFld page off h l).yieldDue = c.yieldDue := by
  unfold Chip.bumpFld; dsimp only; split <;> rfl
@[simp] theorem Chip.bumpFld_fp (c : Chip) (page off h l : Nat) : (c.bumpFld page off h l).fp = c.fp := by
  unfold Chip.bumpFld; dsimp only; split <;> rfl
@[simp] theorem Chip.bumpFld_plt (c : Chip) (page off h l : Nat) : (c.bumpFld page off h l).plt = c.plt := by
  unfold Chip.bumpFld; dsimp only; split <;> rfl
@[simp] theorem Chip.bumpFld_pair (c : Chip) (page off h l : Nat) : (c.bumpFld page off h l).pair = c.pair := by
  unfold Chip.bumpFld; dsimp only; split <;> rfl
@[simp] theorem Chip.bumpFld_lockAt (c : Chip) (page off h l : Nat) : (c.bumpFld page off h l).lockAt = c.lockAt := by
  unfold Chip.bumpFld; dsimp only; split <;> rfl
@[simp] theorem Chip.bumpFld_power (c : Chip) (page off h l : Nat) : (c.bumpFld page off h l).power = c.power := by
  unfold Chip.bumpFld; dsimp only; split <;> rfl
@[simp] theorem Chip.bumpFld_staged (c : Chip) (page off h l : Nat) : (c.bumpFld page off h l).staged = c.staged := by
  unfold Chip.bumpFld; dsimp only; split <;> rfl
@[simp] theorem Chip.bumpFld_captured (c : Chip) (page off h l : Nat) : (c.bumpFld page off h l).captured = c.captured := by
  unfold Chip.bumpFld; dsimp only; split <;> rfl
@[simp] theorem Chip.bumpFld_caps (c : Chip) (page off h l : Nat) : (c.bumpFld page off h l).caps = c.caps := by
  unfold Chip.bumpFld; dsimp only; split <;> rfl
@[simp] theorem Chip.bumpFld_banked (c : Chip) (page off h l : Nat) : (c.bumpFld page off h l).banked = c.banked := by
  unfold Chip.bumpFld; dsimp only; split <;> rfl
@[simp] theorem Chip.bumpFld_hub (c : Chip) (page off h l : Nat) : (c.bumpFld page off h l).hub = c.hub := by
  unfold Chip.bumpFld; dsimp only; split <;> rfl
@[simp] theorem Chip.bumpFld_reply (c : Chip) (page off h l : Nat) : (c.bumpFld page off h l).reply = c.reply := by
  unfold Chip.bumpFld; dsimp only; split <;> rfl
@[simp] theorem Chip.bumpFld_bankA (c : Chip) (page off h l : Nat) : (c.bumpFld page off h l).bankA = c.bankA := by
  unfold Chip.bumpFld; dsimp only; split <;> rfl
@[simp] theorem Chip.bumpFld_bankB (c : Chip) (page off h l : Nat) : (c.bumpFld page off h l).bankB = c.bankB := by
  unfold Chip.bumpFld; dsimp only; split <;> rfl
@[simp] theorem Chip.bumpFld_liveB (c : Chip) (page off h l : Nat) : (c.bumpFld page off h l).liveB = c.liveB := by
  unfold Chip.bumpFld; dsimp only; split <;> rfl
@[simp] theorem Chip.bumpFld_isLive (c : Chip) (page off h l : Nat) : (c.bumpFld page off h l).isLive = c.isLive := by
  unfold Chip.bumpFld; dsimp only; split <;> rfl
@[simp] theorem Chip.bumpFld_armedAt (c : Chip) (page off h l : Nat) : (c.bumpFld page off h l).armedAt = c.armedAt := by
  unfold Chip.bumpFld; dsimp only; split <;> rfl
@[simp] theorem Chip.bumpFld_committed (c : Chip) (page off h l : Nat) : (c.bumpFld page off h l).committed = c.committed := by
  unfold Chip.bumpFld; dsimp only; split <;> rfl
@[simp] theorem Chip.bumpFld_now (c : Chip) (page off h l : Nat) : (c.bumpFld page off h l).now = c.now := by
  unfold Chip.bumpFld; dsimp only; split <;> rfl
@[simp] theorem Chip.bumpFld_nowFrac (c : Chip) (page off h l : Nat) : (c.bumpFld page off h l).nowFrac = c.nowFrac := by
  unfold Chip.bumpFld; dsimp only; split <;> rfl
@[simp] theorem Chip.bumpFld_catchAt (c : Chip) (page off h l : Nat) : (c.bumpFld page off h l).catchAt = c.catchAt := by
  unfold Chip.bumpFld; dsimp only; split <;> rfl
@[simp] theorem Chip.bumpFld_stroke (c : Chip) (page off h l : Nat) : (c.bumpFld page off h l).stroke = c.stroke := by
  unfold Chip.bumpFld; dsimp only; split <;> rfl
@[simp] theorem Chip.bumpFld_strokeOn (c : Chip) (page off h l : Nat) : (c.bumpFld page off h l).strokeOn = c.strokeOn := by
  unfold Chip.bumpFld; dsimp only; split <;> rfl

/-! ### reach -/

@[simp] theorem Chip.reach_pipes (c : Chip) (t : Nat) : (c.reach t).pipes = c.pipes := by
  unfold Chip.reach; split <;> rfl
@[simp] theorem Chip.reach_sets (c : Chip) (t : Nat) : (c.reach t).sets = c.sets := by
  unfold Chip.reach; split <;> rfl
@[simp] theorem Chip.reach_eights (c : Chip) (t : Nat) : (c.reach t).eights = c.eights := by
  unfold Chip.reach; split <;> rfl
@[simp] theorem Chip.reach_mem (c : Chip) (t : Nat) : (c.reach t).mem = c.mem := by
  unfold Chip.reach; split <;> rfl
@[simp] theorem Chip.reach_tmBad (c : Chip) (t : Nat) : (c.reach t).tmBad = c.tmBad := by
  unfold Chip.reach; split <;> rfl
@[simp] theorem Chip.reach_ext (c : Chip) (t : Nat) : (c.reach t).ext = c.ext := by
  unfold Chip.reach; split <;> rfl
@[simp] theorem Chip.reach_rings (c : Chip) (t : Nat) : (c.reach t).rings = c.rings := by
  unfold Chip.reach; split <;> rfl
@[simp] theorem Chip.reach_lane (c : Chip) (t : Nat) : (c.reach t).lane = c.lane := by
  unfold Chip.reach; split <;> rfl
@[simp] theorem Chip.reach_saved (c : Chip) (t : Nat) : (c.reach t).saved = c.saved := by
  unfold Chip.reach; split <;> rfl
@[simp] theorem Chip.reach_hand (c : Chip) (t : Nat) : (c.reach t).hand = c.hand := by
  unfold Chip.reach; split <;> rfl
@[simp] theorem Chip.reach_handN (c : Chip) (t : Nat) : (c.reach t).handN = c.handN := by
  unfold Chip.reach; split <;> rfl
@[simp] theorem Chip.reach_armRec (c : Chip) (t : Nat) : (c.reach t).armRec = c.armRec := by
  unfold Chip.reach; split <;> rfl
@[simp] theorem Chip.reach_gated (c : Chip) (t : Nat) : (c.reach t).gated = c.gated := by
  unfold Chip.reach; split <;> rfl
@[simp] theorem Chip.reach_free (c : Chip) (t : Nat) : (c.reach t).free = c.free := by
  unfold Chip.reach; split <;> rfl
@[simp] theorem Chip.reach_trace (c : Chip) (t : Nat) : (c.reach t).trace = c.trace := by
  unfold Chip.reach; split <;> rfl
@[simp] theorem Chip.reach_blk (c : Chip) (t : Nat) : (c.reach t).blk = c.blk := by
  unfold Chip.reach; split <;> rfl
@[simp] theorem Chip.reach_blkAt (c : Chip) (t : Nat) : (c.reach t).blkAt = c.blkAt := by
  unfold Chip.reach; split <;> rfl
@[simp] theorem Chip.reach_roles (c : Chip) (t : Nat) : (c.reach t).roles = c.roles := by
  unfold Chip.reach; split <;> rfl
@[simp] theorem Chip.reach_web (c : Chip) (t : Nat) : (c.reach t).web = c.web := by
  unfold Chip.reach; split <;> rfl
@[simp] theorem Chip.reach_deckle (c : Chip) (t : Nat) : (c.reach t).deckle = c.deckle := by
  unfold Chip.reach; split <;> rfl
@[simp] theorem Chip.reach_dfail (c : Chip) (t : Nat) : (c.reach t).dfail = c.dfail := by
  unfold Chip.reach; split <;> rfl
@[simp] theorem Chip.reach_wdAt (c : Chip) (t : Nat) : (c.reach t).wdAt = c.wdAt := by
  unfold Chip.reach; split <;> rfl
@[simp] theorem Chip.reach_parts (c : Chip) (t : Nat) : (c.reach t).parts = c.parts := by
  unfold Chip.reach; split <;> rfl
@[simp] theorem Chip.reach_yieldDue (c : Chip) (t : Nat) : (c.reach t).yieldDue = c.yieldDue := by
  unfold Chip.reach; split <;> rfl
@[simp] theorem Chip.reach_fp (c : Chip) (t : Nat) : (c.reach t).fp = c.fp := by
  unfold Chip.reach; split <;> rfl
@[simp] theorem Chip.reach_plt (c : Chip) (t : Nat) : (c.reach t).plt = c.plt := by
  unfold Chip.reach; split <;> rfl
@[simp] theorem Chip.reach_pair (c : Chip) (t : Nat) : (c.reach t).pair = c.pair := by
  unfold Chip.reach; split <;> rfl
@[simp] theorem Chip.reach_lockAt (c : Chip) (t : Nat) : (c.reach t).lockAt = c.lockAt := by
  unfold Chip.reach; split <;> rfl
@[simp] theorem Chip.reach_power (c : Chip) (t : Nat) : (c.reach t).power = c.power := by
  unfold Chip.reach; split <;> rfl
@[simp] theorem Chip.reach_regs (c : Chip) (t : Nat) : (c.reach t).regs = c.regs := by
  unfold Chip.reach; split <;> rfl
@[simp] theorem Chip.reach_staged (c : Chip) (t : Nat) : (c.reach t).staged = c.staged := by
  unfold Chip.reach; split <;> rfl
@[simp] theorem Chip.reach_captured (c : Chip) (t : Nat) : (c.reach t).captured = c.captured := by
  unfold Chip.reach; split <;> rfl
@[simp] theorem Chip.reach_caps (c : Chip) (t : Nat) : (c.reach t).caps = c.caps := by
  unfold Chip.reach; split <;> rfl
@[simp] theorem Chip.reach_banked (c : Chip) (t : Nat) : (c.reach t).banked = c.banked := by
  unfold Chip.reach; split <;> rfl
@[simp] theorem Chip.reach_hub (c : Chip) (t : Nat) : (c.reach t).hub = c.hub := by
  unfold Chip.reach; split <;> rfl
@[simp] theorem Chip.reach_reply (c : Chip) (t : Nat) : (c.reach t).reply = c.reply := by
  unfold Chip.reach; split <;> rfl
@[simp] theorem Chip.reach_bankA (c : Chip) (t : Nat) : (c.reach t).bankA = c.bankA := by
  unfold Chip.reach; split <;> rfl
@[simp] theorem Chip.reach_bankB (c : Chip) (t : Nat) : (c.reach t).bankB = c.bankB := by
  unfold Chip.reach; split <;> rfl
@[simp] theorem Chip.reach_liveB (c : Chip) (t : Nat) : (c.reach t).liveB = c.liveB := by
  unfold Chip.reach; split <;> rfl
@[simp] theorem Chip.reach_isLive (c : Chip) (t : Nat) : (c.reach t).isLive = c.isLive := by
  unfold Chip.reach; split <;> rfl
@[simp] theorem Chip.reach_armedAt (c : Chip) (t : Nat) : (c.reach t).armedAt = c.armedAt := by
  unfold Chip.reach; split <;> rfl
@[simp] theorem Chip.reach_committed (c : Chip) (t : Nat) : (c.reach t).committed = c.committed := by
  unfold Chip.reach; split <;> rfl
@[simp] theorem Chip.reach_catchAt (c : Chip) (t : Nat) : (c.reach t).catchAt = c.catchAt := by
  unfold Chip.reach; split <;> rfl
@[simp] theorem Chip.reach_stroke (c : Chip) (t : Nat) : (c.reach t).stroke = c.stroke := by
  unfold Chip.reach; split <;> rfl
@[simp] theorem Chip.reach_strokeOn (c : Chip) (t : Nat) : (c.reach t).strokeOn = c.strokeOn := by
  unfold Chip.reach; split <;> rfl

/-! ### setAlt -/

@[simp] theorem Chip.setAlt_pipes (c : Chip) (b : Bank) : (c.setAlt b).pipes = c.pipes := by
  unfold Chip.setAlt; split <;> rfl
@[simp] theorem Chip.setAlt_sets (c : Chip) (b : Bank) : (c.setAlt b).sets = c.sets := by
  unfold Chip.setAlt; split <;> rfl
@[simp] theorem Chip.setAlt_eights (c : Chip) (b : Bank) : (c.setAlt b).eights = c.eights := by
  unfold Chip.setAlt; split <;> rfl
@[simp] theorem Chip.setAlt_mem (c : Chip) (b : Bank) : (c.setAlt b).mem = c.mem := by
  unfold Chip.setAlt; split <;> rfl
@[simp] theorem Chip.setAlt_tmBad (c : Chip) (b : Bank) : (c.setAlt b).tmBad = c.tmBad := by
  unfold Chip.setAlt; split <;> rfl
@[simp] theorem Chip.setAlt_ext (c : Chip) (b : Bank) : (c.setAlt b).ext = c.ext := by
  unfold Chip.setAlt; split <;> rfl
@[simp] theorem Chip.setAlt_rings (c : Chip) (b : Bank) : (c.setAlt b).rings = c.rings := by
  unfold Chip.setAlt; split <;> rfl
@[simp] theorem Chip.setAlt_lane (c : Chip) (b : Bank) : (c.setAlt b).lane = c.lane := by
  unfold Chip.setAlt; split <;> rfl
@[simp] theorem Chip.setAlt_saved (c : Chip) (b : Bank) : (c.setAlt b).saved = c.saved := by
  unfold Chip.setAlt; split <;> rfl
@[simp] theorem Chip.setAlt_hand (c : Chip) (b : Bank) : (c.setAlt b).hand = c.hand := by
  unfold Chip.setAlt; split <;> rfl
@[simp] theorem Chip.setAlt_handN (c : Chip) (b : Bank) : (c.setAlt b).handN = c.handN := by
  unfold Chip.setAlt; split <;> rfl
@[simp] theorem Chip.setAlt_armRec (c : Chip) (b : Bank) : (c.setAlt b).armRec = c.armRec := by
  unfold Chip.setAlt; split <;> rfl
@[simp] theorem Chip.setAlt_gated (c : Chip) (b : Bank) : (c.setAlt b).gated = c.gated := by
  unfold Chip.setAlt; split <;> rfl
@[simp] theorem Chip.setAlt_free (c : Chip) (b : Bank) : (c.setAlt b).free = c.free := by
  unfold Chip.setAlt; split <;> rfl
@[simp] theorem Chip.setAlt_trace (c : Chip) (b : Bank) : (c.setAlt b).trace = c.trace := by
  unfold Chip.setAlt; split <;> rfl
@[simp] theorem Chip.setAlt_blk (c : Chip) (b : Bank) : (c.setAlt b).blk = c.blk := by
  unfold Chip.setAlt; split <;> rfl
@[simp] theorem Chip.setAlt_blkAt (c : Chip) (b : Bank) : (c.setAlt b).blkAt = c.blkAt := by
  unfold Chip.setAlt; split <;> rfl
@[simp] theorem Chip.setAlt_roles (c : Chip) (b : Bank) : (c.setAlt b).roles = c.roles := by
  unfold Chip.setAlt; split <;> rfl
@[simp] theorem Chip.setAlt_web (c : Chip) (b : Bank) : (c.setAlt b).web = c.web := by
  unfold Chip.setAlt; split <;> rfl
@[simp] theorem Chip.setAlt_deckle (c : Chip) (b : Bank) : (c.setAlt b).deckle = c.deckle := by
  unfold Chip.setAlt; split <;> rfl
@[simp] theorem Chip.setAlt_dfail (c : Chip) (b : Bank) : (c.setAlt b).dfail = c.dfail := by
  unfold Chip.setAlt; split <;> rfl
@[simp] theorem Chip.setAlt_wdAt (c : Chip) (b : Bank) : (c.setAlt b).wdAt = c.wdAt := by
  unfold Chip.setAlt; split <;> rfl
@[simp] theorem Chip.setAlt_parts (c : Chip) (b : Bank) : (c.setAlt b).parts = c.parts := by
  unfold Chip.setAlt; split <;> rfl
@[simp] theorem Chip.setAlt_yieldDue (c : Chip) (b : Bank) : (c.setAlt b).yieldDue = c.yieldDue := by
  unfold Chip.setAlt; split <;> rfl
@[simp] theorem Chip.setAlt_fp (c : Chip) (b : Bank) : (c.setAlt b).fp = c.fp := by
  unfold Chip.setAlt; split <;> rfl
@[simp] theorem Chip.setAlt_plt (c : Chip) (b : Bank) : (c.setAlt b).plt = c.plt := by
  unfold Chip.setAlt; split <;> rfl
@[simp] theorem Chip.setAlt_pair (c : Chip) (b : Bank) : (c.setAlt b).pair = c.pair := by
  unfold Chip.setAlt; split <;> rfl
@[simp] theorem Chip.setAlt_lockAt (c : Chip) (b : Bank) : (c.setAlt b).lockAt = c.lockAt := by
  unfold Chip.setAlt; split <;> rfl
@[simp] theorem Chip.setAlt_power (c : Chip) (b : Bank) : (c.setAlt b).power = c.power := by
  unfold Chip.setAlt; split <;> rfl
@[simp] theorem Chip.setAlt_regs (c : Chip) (b : Bank) : (c.setAlt b).regs = c.regs := by
  unfold Chip.setAlt; split <;> rfl
@[simp] theorem Chip.setAlt_staged (c : Chip) (b : Bank) : (c.setAlt b).staged = c.staged := by
  unfold Chip.setAlt; split <;> rfl
@[simp] theorem Chip.setAlt_captured (c : Chip) (b : Bank) : (c.setAlt b).captured = c.captured := by
  unfold Chip.setAlt; split <;> rfl
@[simp] theorem Chip.setAlt_caps (c : Chip) (b : Bank) : (c.setAlt b).caps = c.caps := by
  unfold Chip.setAlt; split <;> rfl
@[simp] theorem Chip.setAlt_banked (c : Chip) (b : Bank) : (c.setAlt b).banked = c.banked := by
  unfold Chip.setAlt; split <;> rfl
@[simp] theorem Chip.setAlt_hub (c : Chip) (b : Bank) : (c.setAlt b).hub = c.hub := by
  unfold Chip.setAlt; split <;> rfl
@[simp] theorem Chip.setAlt_reply (c : Chip) (b : Bank) : (c.setAlt b).reply = c.reply := by
  unfold Chip.setAlt; split <;> rfl
@[simp] theorem Chip.setAlt_liveB (c : Chip) (b : Bank) : (c.setAlt b).liveB = c.liveB := by
  unfold Chip.setAlt; split <;> rfl
@[simp] theorem Chip.setAlt_isLive (c : Chip) (b : Bank) : (c.setAlt b).isLive = c.isLive := by
  unfold Chip.setAlt; split <;> rfl
@[simp] theorem Chip.setAlt_armedAt (c : Chip) (b : Bank) : (c.setAlt b).armedAt = c.armedAt := by
  unfold Chip.setAlt; split <;> rfl
@[simp] theorem Chip.setAlt_committed (c : Chip) (b : Bank) : (c.setAlt b).committed = c.committed := by
  unfold Chip.setAlt; split <;> rfl
@[simp] theorem Chip.setAlt_now (c : Chip) (b : Bank) : (c.setAlt b).now = c.now := by
  unfold Chip.setAlt; split <;> rfl
@[simp] theorem Chip.setAlt_nowFrac (c : Chip) (b : Bank) : (c.setAlt b).nowFrac = c.nowFrac := by
  unfold Chip.setAlt; split <;> rfl
@[simp] theorem Chip.setAlt_catchAt (c : Chip) (b : Bank) : (c.setAlt b).catchAt = c.catchAt := by
  unfold Chip.setAlt; split <;> rfl
@[simp] theorem Chip.setAlt_stroke (c : Chip) (b : Bank) : (c.setAlt b).stroke = c.stroke := by
  unfold Chip.setAlt; split <;> rfl
@[simp] theorem Chip.setAlt_strokeOn (c : Chip) (b : Bank) : (c.setAlt b).strokeOn = c.strokeOn := by
  unfold Chip.setAlt; split <;> rfl

/-! ### setWorld -/

@[simp] theorem Chip.setWorld_pipes (c : Chip) (w : Bool) (x : WorldS) : (c.setWorld w x).pipes = c.pipes := by
  unfold Chip.setWorld; split <;> rfl
@[simp] theorem Chip.setWorld_sets (c : Chip) (w : Bool) (x : WorldS) : (c.setWorld w x).sets = c.sets := by
  unfold Chip.setWorld; split <;> rfl
@[simp] theorem Chip.setWorld_eights (c : Chip) (w : Bool) (x : WorldS) : (c.setWorld w x).eights = c.eights := by
  unfold Chip.setWorld; split <;> rfl
@[simp] theorem Chip.setWorld_mem (c : Chip) (w : Bool) (x : WorldS) : (c.setWorld w x).mem = c.mem := by
  unfold Chip.setWorld; split <;> rfl
@[simp] theorem Chip.setWorld_tmBad (c : Chip) (w : Bool) (x : WorldS) : (c.setWorld w x).tmBad = c.tmBad := by
  unfold Chip.setWorld; split <;> rfl
@[simp] theorem Chip.setWorld_ext (c : Chip) (w : Bool) (x : WorldS) : (c.setWorld w x).ext = c.ext := by
  unfold Chip.setWorld; split <;> rfl
@[simp] theorem Chip.setWorld_rings (c : Chip) (w : Bool) (x : WorldS) : (c.setWorld w x).rings = c.rings := by
  unfold Chip.setWorld; split <;> rfl
@[simp] theorem Chip.setWorld_lane (c : Chip) (w : Bool) (x : WorldS) : (c.setWorld w x).lane = c.lane := by
  unfold Chip.setWorld; split <;> rfl
@[simp] theorem Chip.setWorld_saved (c : Chip) (w : Bool) (x : WorldS) : (c.setWorld w x).saved = c.saved := by
  unfold Chip.setWorld; split <;> rfl
@[simp] theorem Chip.setWorld_hand (c : Chip) (w : Bool) (x : WorldS) : (c.setWorld w x).hand = c.hand := by
  unfold Chip.setWorld; split <;> rfl
@[simp] theorem Chip.setWorld_handN (c : Chip) (w : Bool) (x : WorldS) : (c.setWorld w x).handN = c.handN := by
  unfold Chip.setWorld; split <;> rfl
@[simp] theorem Chip.setWorld_armRec (c : Chip) (w : Bool) (x : WorldS) : (c.setWorld w x).armRec = c.armRec := by
  unfold Chip.setWorld; split <;> rfl
@[simp] theorem Chip.setWorld_gated (c : Chip) (w : Bool) (x : WorldS) : (c.setWorld w x).gated = c.gated := by
  unfold Chip.setWorld; split <;> rfl
@[simp] theorem Chip.setWorld_free (c : Chip) (w : Bool) (x : WorldS) : (c.setWorld w x).free = c.free := by
  unfold Chip.setWorld; split <;> rfl
@[simp] theorem Chip.setWorld_trace (c : Chip) (w : Bool) (x : WorldS) : (c.setWorld w x).trace = c.trace := by
  unfold Chip.setWorld; split <;> rfl
@[simp] theorem Chip.setWorld_blk (c : Chip) (w : Bool) (x : WorldS) : (c.setWorld w x).blk = c.blk := by
  unfold Chip.setWorld; split <;> rfl
@[simp] theorem Chip.setWorld_blkAt (c : Chip) (w : Bool) (x : WorldS) : (c.setWorld w x).blkAt = c.blkAt := by
  unfold Chip.setWorld; split <;> rfl
@[simp] theorem Chip.setWorld_roles (c : Chip) (w : Bool) (x : WorldS) : (c.setWorld w x).roles = c.roles := by
  unfold Chip.setWorld; split <;> rfl
@[simp] theorem Chip.setWorld_dfail (c : Chip) (w : Bool) (x : WorldS) : (c.setWorld w x).dfail = c.dfail := by
  unfold Chip.setWorld; split <;> rfl
@[simp] theorem Chip.setWorld_wdAt (c : Chip) (w : Bool) (x : WorldS) : (c.setWorld w x).wdAt = c.wdAt := by
  unfold Chip.setWorld; split <;> rfl
@[simp] theorem Chip.setWorld_parts (c : Chip) (w : Bool) (x : WorldS) : (c.setWorld w x).parts = c.parts := by
  unfold Chip.setWorld; split <;> rfl
@[simp] theorem Chip.setWorld_yieldDue (c : Chip) (w : Bool) (x : WorldS) : (c.setWorld w x).yieldDue = c.yieldDue := by
  unfold Chip.setWorld; split <;> rfl
@[simp] theorem Chip.setWorld_fp (c : Chip) (w : Bool) (x : WorldS) : (c.setWorld w x).fp = c.fp := by
  unfold Chip.setWorld; split <;> rfl
@[simp] theorem Chip.setWorld_plt (c : Chip) (w : Bool) (x : WorldS) : (c.setWorld w x).plt = c.plt := by
  unfold Chip.setWorld; split <;> rfl
@[simp] theorem Chip.setWorld_pair (c : Chip) (w : Bool) (x : WorldS) : (c.setWorld w x).pair = c.pair := by
  unfold Chip.setWorld; split <;> rfl
@[simp] theorem Chip.setWorld_lockAt (c : Chip) (w : Bool) (x : WorldS) : (c.setWorld w x).lockAt = c.lockAt := by
  unfold Chip.setWorld; split <;> rfl
@[simp] theorem Chip.setWorld_power (c : Chip) (w : Bool) (x : WorldS) : (c.setWorld w x).power = c.power := by
  unfold Chip.setWorld; split <;> rfl
@[simp] theorem Chip.setWorld_regs (c : Chip) (w : Bool) (x : WorldS) : (c.setWorld w x).regs = c.regs := by
  unfold Chip.setWorld; split <;> rfl
@[simp] theorem Chip.setWorld_staged (c : Chip) (w : Bool) (x : WorldS) : (c.setWorld w x).staged = c.staged := by
  unfold Chip.setWorld; split <;> rfl
@[simp] theorem Chip.setWorld_captured (c : Chip) (w : Bool) (x : WorldS) : (c.setWorld w x).captured = c.captured := by
  unfold Chip.setWorld; split <;> rfl
@[simp] theorem Chip.setWorld_caps (c : Chip) (w : Bool) (x : WorldS) : (c.setWorld w x).caps = c.caps := by
  unfold Chip.setWorld; split <;> rfl
@[simp] theorem Chip.setWorld_banked (c : Chip) (w : Bool) (x : WorldS) : (c.setWorld w x).banked = c.banked := by
  unfold Chip.setWorld; split <;> rfl
@[simp] theorem Chip.setWorld_hub (c : Chip) (w : Bool) (x : WorldS) : (c.setWorld w x).hub = c.hub := by
  unfold Chip.setWorld; split <;> rfl
@[simp] theorem Chip.setWorld_reply (c : Chip) (w : Bool) (x : WorldS) : (c.setWorld w x).reply = c.reply := by
  unfold Chip.setWorld; split <;> rfl
@[simp] theorem Chip.setWorld_bankA (c : Chip) (w : Bool) (x : WorldS) : (c.setWorld w x).bankA = c.bankA := by
  unfold Chip.setWorld; split <;> rfl
@[simp] theorem Chip.setWorld_bankB (c : Chip) (w : Bool) (x : WorldS) : (c.setWorld w x).bankB = c.bankB := by
  unfold Chip.setWorld; split <;> rfl
@[simp] theorem Chip.setWorld_liveB (c : Chip) (w : Bool) (x : WorldS) : (c.setWorld w x).liveB = c.liveB := by
  unfold Chip.setWorld; split <;> rfl
@[simp] theorem Chip.setWorld_isLive (c : Chip) (w : Bool) (x : WorldS) : (c.setWorld w x).isLive = c.isLive := by
  unfold Chip.setWorld; split <;> rfl
@[simp] theorem Chip.setWorld_armedAt (c : Chip) (w : Bool) (x : WorldS) : (c.setWorld w x).armedAt = c.armedAt := by
  unfold Chip.setWorld; split <;> rfl
@[simp] theorem Chip.setWorld_committed (c : Chip) (w : Bool) (x : WorldS) : (c.setWorld w x).committed = c.committed := by
  unfold Chip.setWorld; split <;> rfl
@[simp] theorem Chip.setWorld_now (c : Chip) (w : Bool) (x : WorldS) : (c.setWorld w x).now = c.now := by
  unfold Chip.setWorld; split <;> rfl
@[simp] theorem Chip.setWorld_nowFrac (c : Chip) (w : Bool) (x : WorldS) : (c.setWorld w x).nowFrac = c.nowFrac := by
  unfold Chip.setWorld; split <;> rfl
@[simp] theorem Chip.setWorld_catchAt (c : Chip) (w : Bool) (x : WorldS) : (c.setWorld w x).catchAt = c.catchAt := by
  unfold Chip.setWorld; split <;> rfl
@[simp] theorem Chip.setWorld_stroke (c : Chip) (w : Bool) (x : WorldS) : (c.setWorld w x).stroke = c.stroke := by
  unfold Chip.setWorld; split <;> rfl
@[simp] theorem Chip.setWorld_strokeOn (c : Chip) (w : Bool) (x : WorldS) : (c.setWorld w x).strokeOn = c.strokeOn := by
  unfold Chip.setWorld; split <;> rfl

/-! ### What a written field holds -/

@[simp] theorem Chip.pipe_setPipe (c : Chip) (p : Nat) (x : Pipe) : (c.setPipe p x).pipe p = x := by
  simp [Chip.pipe, Chip.setPipe]

theorem Chip.pipe_setPipe_ne (c : Chip) (p k : Nat) (x : Pipe) (h : k ≠ p) : (c.setPipe p x).pipe k = c.pipe k := by
  simp [Chip.pipe, Chip.setPipe, tget_tset_ne _ _ _ _ _ h]

@[simp] theorem Chip.arr_setArr (c : Chip) (k : Nat) (x : ArraySet) : (c.setArr k x).arr k = x := by
  simp [Chip.arr, Chip.setArr]

@[simp] theorem Chip.eight_setEight (c : Chip) (e : Nat) (x : Eight) : (c.setEight e x).eight e = x := by
  simp [Chip.eight, Chip.setEight]

theorem Chip.eight_setEight_ne (c : Chip) (e k : Nat) (x : Eight) (h : k ≠ e) : (c.setEight e x).eight k = c.eight k := by
  simp [Chip.eight, Chip.setEight, tget_tset_ne _ _ _ _ _ h]

@[simp] theorem Chip.savedCtx_setSaved (c : Chip) (core ctx : Nat) (x : Saved) :
    (c.setSaved core ctx x).savedCtx core ctx = x := by
  simp [Chip.savedCtx, Chip.setSaved]

@[simp] theorem Chip.live_setLive (c : Chip) (page off v : Nat) : (c.setLive page off v).live page off = v := by
  simp [Chip.live, Chip.setLive]

theorem Chip.live_setLive_ne (c : Chip) (page off v q o : Nat) (h : regKey q o ≠ regKey page off) :
    (c.setLive page off v).live q o = c.live q o := by
  exact tget_tset_ne_of _ _ _ _ _ _ h

@[simp] theorem Chip.live_setPipe (c : Chip) (p : Nat) (x : Pipe) (q o : Nat) : (c.setPipe p x).live q o = c.live q o := rfl

@[simp] theorem Chip.live_raise (c : Chip) (n q o : Nat) : (c.raise n).live q o = c.live q o := rfl

/-- Registers of different pages, or at different offsets of one page, have different keys. -/
theorem regKey_ne (p o q r : Nat) (ho : o < 0x800) (hr : r < 0x800) (h : p ≠ q ∨ o ≠ r) : regKey p o ≠ regKey q r := by
  unfold regKey; omega

end Sys2Proof.Machine
end

