-- ==== Sys2Proof/Laws/Observe.lean ====
section
/-! SUPPORT. What counting, tracing and issuing leave as it was: each operation once, as a `Chip.Frame`. -/

namespace Sys2Proof.Machine

/-! ### Frames -/

theorem Chip.Frame.refl (c : Chip) (pi : Nat) : c.Frame c pi := ⟨fun _ => rfl, fun _ _ => rfl, fun _ _ _ _ => rfl⟩

theorem Chip.Frame.trStream {c d : Chip} {pi : Nat} (h : c.Frame d pi) : d.trStream = c.trStream := by
  unfold Chip.trStream Chip.fld
  rw [h.2.2 0x0F4 0x020 (by omega) (Or.inl (by omega))]

theorem Chip.Frame.trans {c d f : Chip} {pi : Nat} (h : c.Frame d pi) (k : d.Frame f pi) : c.Frame f pi := by
  refine ⟨fun hs => ?_, fun i hi => (k.2.1 i hi).trans (h.2.1 i hi),
    fun pg off ho h1 => (k.2.2 pg off ho h1).trans (h.2.2 pg off ho h1)⟩
  have hd := h.1 hs
  have hf := k.1 (h.trStream.trans hs)
  rw [hf, hd]

theorem Chip.Frame.setPipe (c : Chip) (pi : Nat) (p : Pipe) : c.Frame (c.setPipe pi p) pi :=
  ⟨fun _ => rfl, fun _ hk => Chip.pipe_setPipe_ne c pi _ p hk, fun _ _ _ _ => rfl⟩

theorem Chip.Frame.raise (c : Chip) (pi n : Nat) : c.Frame (c.raise n) pi := by
  refine ⟨fun _ => ?_, fun _ _ => rfl, fun _ _ _ _ => rfl⟩
  unfold Chip.raise Hub.occur
  split <;> rfl

theorem Chip.Frame.setLive (c : Chip) (pi pg off v : Nat) (ho : 0x100 ≤ off) (h8 : off < 0x800)
    (h : pg = 0x020 + pi ∨ pg = 0x0F4) : c.Frame (c.setLive pg off v) pi :=
  ⟨fun _ => rfl, fun _ _ => rfl, fun q o h0 hq => Chip.live_setLive_ne c pg off v q o
    (regKey_ne _ _ _ _ h0 h8 (by rcases hq with hq | ⟨h1, h2⟩ <;> omega))⟩

theorem Chip.Frame.setFld (c : Chip) (pi pg off hi lo v : Nat) (ho : 0x100 ≤ off) (h8 : off < 0x800)
    (h : pg = 0x020 + pi ∨ pg = 0x0F4) : c.Frame (c.setFld pg off hi lo v) pi := Chip.Frame.setLive c pi pg off _ ho h8 h

theorem Chip.Frame.bumpFld (c : Chip) (pi pg off hi lo : Nat) (ho : 0x100 ≤ off) (h8 : off < 0x800)
    (h : pg = 0x020 + pi ∨ pg = 0x0F4) : c.Frame (c.bumpFld pg off hi lo) pi := by
  unfold Chip.bumpFld
  dsimp only
  split
  · exact Chip.Frame.setFld c pi pg off hi lo _ ho h8 h
  · exact Chip.Frame.refl c pi

theorem Chip.Frame.trace (c : Chip) (pi : Nat) (t : Trace) : c.Frame { c with trace := t } pi :=
  ⟨fun _ => rfl, fun _ _ => rfl, fun _ _ _ _ => rfl⟩

/-! ### Writes of external memory reach nothing else -/

theorem Chip.rekey_shape (c : Chip) (key a : Nat) : ∃ m x, c.rekey key a = { c with mem := m, ext := x } := by
  unfold Chip.rekey
  dsimp only
  split
  · exact ⟨_, _, rfl⟩
  · exact ⟨_, _, rfl⟩

theorem Chip.wrL_shape (ws : List Word) (c : Chip) (key a : Nat) :
    ∃ m x, c.wrL key a ws = { c with mem := m, ext := x } := by
  induction ws generalizing c a with
  | nil => exact ⟨_, _, rfl⟩
  | cons w ws ih =>
    unfold Chip.wrL
    obtain ⟨m, x, h⟩ := c.rekey_shape key a
    rw [h]
    obtain ⟨m', x', h'⟩ := ih { { c with mem := m, ext := x } with mem := writeW m a w } (a + 1)
    exact ⟨m', x', h'⟩

theorem Chip.memWrite_shape (c : Chip) (key a : Nat) (ws : List Word) :
    ∃ m x, c.memWrite key a ws = { c with mem := m, ext := x } := by
  unfold Chip.memWrite Chip.clearErr
  obtain ⟨m, x, h⟩ := c.wrL_shape ws key a
  rw [h]
  exact ⟨_, _, rfl⟩

/-! ### Trace -/

/-- Draining frames reaches memory and what trace counts, nothing else. -/
theorem Chip.trDrainN_shape (n : Nat) (c : Chip) : ∃ m x t, c.trDrainN n = { c with mem := m, ext := x, trace := t } := by
  induction n generalizing c with
  | zero => exact ⟨_, _, _, rfl⟩
  | succ n ih =>
    unfold Chip.trDrainN Chip.trDrainOne
    dsimp only
    obtain ⟨m, x, hm⟩ := c.memWrite_shape 0 (c.fld 0x0F4 0x02C 23 0 * 4096 + (c.trace.drained % c.sinkFrames) * 8)
      (toWords 8 (tget 0 c.trace.buf (c.trace.drained % traceFrames)).toNat)
    rw [hm]
    obtain ⟨m', x', t', h'⟩ := ih { c with mem := m, ext := x, trace := { c.trace with drained := c.trace.drained + 1 } }
    exact ⟨m', x', t', h'⟩

/-- The drain of STREAM mode is the one way in which trace reaches memory. -/
theorem Chip.Frame.trDrain (c : Chip) (pi : Nat) : c.Frame c.trDrain pi := by
  unfold Chip.trDrain
  dsimp only
  split
  · rename_i h
    obtain ⟨m, x, t, hm⟩ := c.trDrainN_shape (c.trace.wr - c.trace.drained)
    rw [hm]
    refine ⟨fun hs => ?_, fun _ _ => rfl, fun _ _ _ _ => rfl⟩
    simp [hs] at h
  · exact Chip.Frame.refl c pi

theorem Chip.Frame.funnelPut (c : Chip) (pi : Nat) (f : Oct) : c.Frame (c.funnelPut f) pi := by
  unfold Chip.funnelPut
  dsimp only
  refine .trans ?_ (Chip.Frame.trDrain _ pi)
  split
  · refine .trans ?_ (Chip.Frame.setFld _ pi _ _ _ _ _ (by omega) (by omega) (Or.inr rfl))
    exact .trans (Chip.Frame.trace c pi _) (Chip.Frame.setLive _ pi _ _ _ (by omega) (by omega) (Or.inr rfl))
  · exact .trans (Chip.Frame.trace c pi _) (Chip.Frame.setLive _ pi _ _ _ (by omega) (by omega) (Or.inr rfl))

theorem Chip.Frame.funnelOffer (c : Chip) (pi : Nat) (f : Oct) : c.Frame (c.funnelOffer f) pi := by
  unfold Chip.funnelOffer
  dsimp only
  split
  · exact .trans (Chip.Frame.trDrain c pi) (Chip.Frame.funnelPut _ pi _)
  · exact Chip.Frame.trDrain c pi

theorem Chip.Frame.setTrSt (c : Chip) (pi : Nat) (t : TrSt) : c.Frame (c.setTrSt t) pi := by
  unfold Chip.setTrSt
  exact .trans (Chip.Frame.setFld c pi _ _ _ _ _ (by omega) (by omega) (Or.inr rfl)) (Chip.Frame.trace _ pi _)

theorem Chip.Frame.trigger (c : Chip) (pi src : Nat) : c.Frame (c.trigger src) pi := by
  unfold Chip.trigger
  dsimp only
  generalize (if c.fld 0x0F4 0x026 2 0 ≥ 6 then 0 else c.fld 0x0F4 0x026 2 0) = sel
  split
  · exact Chip.Frame.refl c pi
  · split
    · exact Chip.Frame.bumpFld c pi _ _ _ _ (by omega) (by omega) (Or.inr rfl)
    · exact .trans (.trans (.trans (.trans (Chip.Frame.funnelOffer c pi _)
        (Chip.Frame.setLive _ pi _ _ _ (by omega) (by omega) (Or.inr rfl))) (Chip.Frame.setTrSt _ pi _))
        (Chip.Frame.trace _ pi _)) (Chip.Frame.raise _ pi _)

theorem Chip.Frame.setEnc (c : Chip) (pi core : Nat) (x : Enc) : c.Frame (c.setEnc core x) pi := Chip.Frame.trace c pi _

theorem Chip.Frame.emit (c : Chip) (pi core : Nat) (p : Pipe) (x : RunCtx) (k : List Word) :
    c.Frame (c.emit core p x k) pi := by
  unfold Chip.emit
  split
  · exact Chip.Frame.setEnc c pi _ _
  · exact Chip.Frame.refl c pi

theorem Chip.Frame.emitBranch (c : Chip) (pi core : Nat) (p : Pipe) (x : RunCtx) (b : Bool) :
    c.Frame (c.emitBranch core p x b) pi := by
  unfold Chip.emitBranch
  dsimp only
  split
  · exact Chip.Frame.setEnc c pi _ _
  · exact Chip.Frame.refl c pi

theorem Chip.Frame.emitTarget (c : Chip) (pi core : Nat) (p : Pipe) (x : RunCtx) (k n t : Nat) :
    c.Frame (c.emitTarget core p x k n t) pi := by
  unfold Chip.emitTarget
  split
  · exact Chip.Frame.emit c pi _ _ _ _
  · exact Chip.Frame.refl c pi

theorem Chip.Frame.emitData (c : Chip) (pi core : Nat) (p : Pipe) (x : RunCtx) (r a z : Nat) (w f n : Bool) (v : Oct) :
    c.Frame (c.emitData core p x r a z w f n v) pi := by
  unfold Chip.emitData
  split
  · exact Chip.Frame.refl c pi
  · exact Chip.Frame.setEnc c pi _ _

theorem Chip.Frame.trTrig (c : Chip) (pi core r : Nat) : c.Frame (c.trTrig core r) pi := by
  unfold Chip.trTrig
  split
  · exact Chip.Frame.trigger c pi _
  · exact Chip.Frame.refl c pi

theorem Chip.Frame.traceAccess (c : Chip) (pi : Nat) (e : Env) (t : Target) (n : Nat) (w f v : Bool) (x : Nat) :
    c.Frame (c.traceAccess e t n w f v x) pi := by
  unfold Chip.traceAccess
  dsimp only
  split
  · exact Chip.Frame.refl c pi
  · exact .trans (Chip.Frame.emitData c pi _ _ _ _ _ _ _ _ _ _) (Chip.Frame.trTrig _ pi _ _)

/-! ### Counters -/

theorem Chip.Frame.pmSet (c : Chip) (pi k v : Nat) (hk : k ≤ 8) : c.Frame (c.pmSet pi k v) pi :=
  .trans (Chip.Frame.setLive c pi _ _ _ (by omega) (by omega) (Or.inl rfl))
    (Chip.Frame.setFld _ pi _ _ _ _ _ (by omega) (by omega) (Or.inl rfl))

theorem Chip.Frame.pmOverflow (c : Chip) (pi k : Nat) (hk : k ≤ 8) : c.Frame (c.pmOverflow pi k) pi :=
  .trans (.trans (Chip.Frame.setFld c pi _ _ _ _ _ (by omega) (by omega) (Or.inl rfl)) (Chip.Frame.raise _ pi _))
    (Chip.Frame.trigger _ pi _)

theorem Chip.Frame.pmAdd (c : Chip) (pi k n : Nat) (hk : k < 8) : c.Frame (c.pmAdd pi k n) pi := by
  unfold Chip.pmAdd
  extract_lets v d u f
  have hd : c.Frame d pi := Chip.Frame.pmSet c pi k _ (by omega)
  have hf : c.Frame f pi := .trans hd (Chip.Frame.pmSet d pi _ _ (by omega))
  split
  · exact hd
  · split
    · exact .trans hd (Chip.Frame.pmOverflow d pi k (by omega))
    · split
      · exact hf
      · exact .trans hf (Chip.Frame.pmOverflow f pi _ (by omega))

theorem Chip.Frame.foldl {β : Type} (pi : Nat) (f : Chip → β → Chip) (l : List β) (c : Chip)
    (hf : ∀ c : Chip, ∀ b ∈ l, c.Frame (f c b) pi) : c.Frame (l.foldl f c) pi := by
  induction l generalizing c with
  | nil => exact Chip.Frame.refl c pi
  | cons b l ih =>
    exact .trans (hf c b (by simp)) (ih (f c b) (fun c b' hb => hf c b' (by simp [hb])))

/-- Counting an event of a pipeline changes its page of counters and, at an overflow, events and trace. -/
theorem Chip.Frame.count (c : Chip) (pi ev n : Nat) : c.Frame (c.count pi ev n) pi := by
  unfold Chip.count
  split
  · exact Chip.Frame.refl c pi
  · refine Chip.Frame.foldl pi _ _ c (fun c k hk => ?_)
    split
    · exact Chip.Frame.pmAdd c pi k n (by simpa using hk)
    · exact Chip.Frame.refl c pi

/-! ### Pipelines stay as they are -/

@[simp] theorem Chip.memWrite_pipes (c : Chip) (k a : Nat) (ws : List Word) : (c.memWrite k a ws).pipes = c.pipes := by
  obtain ⟨m, x, h⟩ := c.memWrite_shape k a ws
  rw [h]

@[simp] theorem Chip.trDrain_pipes (c : Chip) : c.trDrain.pipes = c.pipes := by
  unfold Chip.trDrain
  dsimp only
  split
  · obtain ⟨m, x, t, h⟩ := c.trDrainN_shape (c.trace.wr - c.trace.drained)
    rw [h]
  · rfl

@[simp] theorem Chip.funnelPut_pipes (c : Chip) (f : Oct) : (c.funnelPut f).pipes = c.pipes := by
  unfold Chip.funnelPut
  dsimp only
  rw [Chip.trDrain_pipes]
  split <;> rfl

@[simp] theorem Chip.funnelOffer_pipes (c : Chip) (f : Oct) : (c.funnelOffer f).pipes = c.pipes := by
  unfold Chip.funnelOffer
  dsimp only
  split <;> simp

@[simp] theorem Chip.setTrSt_pipes (c : Chip) (t : TrSt) : (c.setTrSt t).pipes = c.pipes := rfl

@[simp] theorem Chip.trigger_pipes (c : Chip) (n : Nat) : (c.trigger n).pipes = c.pipes := by
  unfold Chip.trigger
  dsimp only
  generalize (if c.fld 0x0F4 0x026 2 0 ≥ 6 then 0 else c.fld 0x0F4 0x026 2 0) = sel
  split
  · rfl
  · split
    · exact c.bumpFld_pipes _ _ _ _
    · simp only [Chip.raise_pipes, Chip.setTrSt_pipes, Chip.setLive_pipes, Chip.funnelOffer_pipes]

@[simp] theorem Chip.pmSet_pipes (c : Chip) (pi k v : Nat) : (c.pmSet pi k v).pipes = c.pipes := rfl

@[simp] theorem Chip.pmOverflow_pipes (c : Chip) (pi k : Nat) : (c.pmOverflow pi k).pipes = c.pipes := by
  unfold Chip.pmOverflow
  rw [Chip.trigger_pipes]
  rfl

@[simp] theorem Chip.pmAdd_pipes (c : Chip) (pi k n : Nat) : (c.pmAdd pi k n).pipes = c.pipes := by
  unfold Chip.pmAdd
  extract_lets v d u f
  have hd : d.pipes = c.pipes := c.pmSet_pipes _ _ _
  have hf : f.pipes = c.pipes := (d.pmSet_pipes _ _ _).trans hd
  split
  · exact hd
  · split
    · rw [Chip.pmOverflow_pipes]; exact hd
    · split
      · exact hf
      · rw [Chip.pmOverflow_pipes]; exact hf

@[simp] theorem Chip.count_pipes (c : Chip) (pi ev n : Nat) : (c.count pi ev n).pipes = c.pipes := by
  unfold Chip.count
  split
  · rfl
  · generalize List.range 8 = l
    induction l generalizing c with
    | nil => rfl
    | cons k l ih =>
      rw [List.foldl_cons, ih]
      split <;> simp

@[simp] theorem Chip.emit_pipes (c : Chip) (core : Nat) (p : Pipe) (x : RunCtx) (k : List Word) :
    (c.emit core p x k).pipes = c.pipes := by
  unfold Chip.emit; split <;> rfl

@[simp] theorem Chip.emitBranch_pipes (c : Chip) (core : Nat) (p : Pipe) (x : RunCtx) (b : Bool) :
    (c.emitBranch core p x b).pipes = c.pipes := by
  unfold Chip.emitBranch; dsimp only; split <;> rfl

@[simp] theorem Chip.emitTarget_pipes (c : Chip) (core : Nat) (p : Pipe) (x : RunCtx) (k n t : Nat) :
    (c.emitTarget core p x k n t).pipes = c.pipes := by
  unfold Chip.emitTarget; split <;> simp

@[simp] theorem Chip.emitData_pipes (c : Chip) (core : Nat) (p : Pipe) (x : RunCtx) (r a z : Nat) (w f n : Bool) (v : Oct) :
    (c.emitData core p x r a z w f n v).pipes = c.pipes := by
  unfold Chip.emitData; split <;> rfl

@[simp] theorem Chip.trTrig_pipes (c : Chip) (core r : Nat) : (c.trTrig core r).pipes = c.pipes := by
  unfold Chip.trTrig; split <;> simp

@[simp] theorem Chip.traceAccess_pipes (c : Chip) (e : Env) (t : Target) (n : Nat) (w f v : Bool) (x : Nat) :
    (c.traceAccess e t n w f v x).pipes = c.pipes := by
  unfold Chip.traceAccess; dsimp only; split <;> simp

end Sys2Proof.Machine
end

