-- ==== Sys2Proof/Laws/Issue.lean ====
section
/-! SUPPORT. How one operation of a core issues: when it is ready and clear it acts, and what an operation that lands results
changes. -/

namespace Sys2Proof.Machine

/-! ### The environment -/

/-- An environment is that of its core's pipeline. -/
theorem Chip.env?_pipe {c : Chip} {core : Nat} {e : Env} (h : c.env? core = some e) : e.p = c.pipe e.pi ∧ e.core = core := by
  unfold Chip.env? at h
  split at h
  · cases h
  · obtain ⟨x, _, rfl⟩ := Option.map_eq_some_iff.1 h
    exact ⟨rfl, rfl⟩

theorem Chip.reach_shape (c : Chip) (t : Nat) : ∃ n f, c.reach t = { c with now := n, nowFrac := f } := by
  unfold Chip.reach
  split
  · exact ⟨_, _, rfl⟩
  · exact ⟨c.now, c.nowFrac, rfl⟩

theorem Chip.atCode_shape (c : Chip) (core : Nat) : ∃ n f, c.atCode core = { c with now := n, nowFrac := f } := by
  unfold Chip.atCode
  split
  · exact c.reach_shape _
  · exact ⟨c.now, c.nowFrac, rfl⟩

/-- The instant at which code begins changes no environment. -/
theorem Chip.env?_atCode (c : Chip) (core : Nat) : (c.atCode core).env? core = c.env? core := by
  obtain ⟨n, f, h⟩ := c.atCode_shape core
  rw [h]; rfl

theorem Chip.Frame.atCode (c : Chip) (core pi : Nat) : c.Frame (c.atCode core) pi := by
  obtain ⟨n, f, h⟩ := c.atCode_shape core
  rw [h]; exact ⟨fun _ => rfl, fun _ _ => rfl, fun _ _ _ _ => rfl⟩

@[simp] theorem Chip.atCode_pipes (c : Chip) (core : Nat) : (c.atCode core).pipes = c.pipes := by
  obtain ⟨n, f, h⟩ := c.atCode_shape core
  rw [h]

theorem Chip.pipe_of_pipes {c d : Chip} (h : d.pipes = c.pipes) (k : Nat) : d.pipe k = c.pipe k := by
  unfold Chip.pipe; rw [h]

/-! ### Trace packets of loads -/

/-- Emitting the packets of landed loads takes them out of flight and changes nothing else of the pipeline. -/
theorem Chip.emitLanded_pipe (c : Chip) (e : Env) :
    (c.emitLanded e).pipe e.pi = { c.pipe e.pi with fly := (c.pipe e.pi).held } := by
  unfold Chip.emitLanded
  extract_lets p due d q
  have hd : d.pipes = c.pipes := by
    have : ∀ (l : List Landing) (b : Chip), (l.foldl (fun c l => match l.wr with
        | .tdata rng wr ad sz x => (c.emitData e.core p e.x rng ad sz wr false false x).trTrig e.core rng
        | _ => c) b).pipes = b.pipes := by
      intro l
      induction l with
      | nil => intro b; rfl
      | cons a l ih =>
        intro b
        rw [List.foldl_cons, ih]
        split <;> simp
    exact this due c
  have hq : q = c.pipe e.pi := Chip.pipe_of_pipes hd e.pi
  rw [Chip.pipe_setPipe, hq]
  rfl

theorem Chip.Frame.emitLanded (c : Chip) (e : Env) : c.Frame (c.emitLanded e) e.pi := by
  unfold Chip.emitLanded
  extract_lets p due d q
  refine .trans ?_ (Chip.Frame.setPipe _ _ _)
  refine Chip.Frame.foldl e.pi _ due c (fun c l _ => ?_)
  split
  · exact .trans (Chip.Frame.emitData c _ _ _ _ _ _ _ _ _ _ _) (Chip.Frame.trTrig _ _ _ _)
  · exact Chip.Frame.refl c _

/-! ### Issue -/

/-- A core that runs by itself steps alone (R263). -/
theorem Chip.onCore_alone {c : Chip} {core : Nat} {e : Env} (h : c.Alone core e) (f : Nat → Chip → Chip) :
    c.onCore core f = f core c := by
  unfold Chip.onCore
  rw [h.2]; rfl

/-- An injection that strikes nothing an operation reads leaves the chip as it is. -/
theorem Chip.injectData_unstruck {c : Chip} {e : Env} {s : Slot} {o : CoreOp} (h : c.Unstruck e o) (pre : List Raised) :
    c.injectData e pre [(s, o)] = c := by
  unfold Chip.injectData
  split
  · rename_i k ha _
    split
    · rfl
    · rcases h with h | h
      · rw [h] at ha; cases ha
      · rw [List.flatMap_cons, List.flatMap_nil, List.append_nil,
          List.find?_eq_none.2 fun q hq => by simpa using List.any_eq_false.1 h q hq]
  · rfl

/-- A bundle without an ERET has no reads of its own. -/
theorem Chip.eretOwn_none {ops : List (Slot × CoreOp)} (h : hasEret ops = false) (c : Chip) (e : Env) :
    c.eretOwn e ops = none := by
  unfold Chip.eretOwn
  rw [h]; rfl

/-- The first cause of a bundle without an ERET is that of its slots. -/
theorem Chip.firstOf_plain {ops : List (Slot × CoreOp)} (h : hasEret ops = false) (c : Chip) (e : Env) (pre : List Raised) :
    c.firstOf e pre ops = (c.causeOf e pre ops).map (fun q => (c, q)) := by
  unfold Chip.firstOf
  rw [Chip.eretOwn_none h]
  cases c.causeOf e pre ops <;> rfl

/-- The lines it waits for are those of its operations. -/
theorem Chip.linesOf_plain {ops : List (Slot × CoreOp)} (h : hasEret ops = false) (c : Chip) (e : Env) :
    c.linesOf e ops = (ops.flatMap (fun q => c.opLines e q.2)).map (fun l => (l, true)) := by
  unfold Chip.linesOf
  rw [Chip.eretOwn_none h, List.append_nil]

/-- A ready core whose operation is clear, and that waits for no prefix, transfers nothing and is no ERET, acts. -/
theorem Chip.issueOp_clear {c : Chip} {core : Nat} {e : Env} {s : Slot} {o : CoreOp}
    (hr : c.Ready core e false) (hc : (c.atCode core).Clear e s o) (ht : o.transfers = false)
    (he : hasEret [(s, o)] = false) :
    c.onCore core (fun a c => c.orExit a (fun c => c.issueOp a s o)) = (c.atCode core).actAll e [(s, o)] false := by
  obtain ⟨h1, h2, h3⟩ := hr
  obtain ⟨k1, k2, k3, k4⟩ := hc
  have hp : o.isPrefix = false := by cases o <;> first | rfl | exact Bool.noConfusion ht
  rw [Chip.onCore_alone h1]
  replace h1 := h1.1
  have hrun : e.p.run.finished = false := by
    unfold Pipe.canIssue at h3
    simp only [Bool.and_eq_true, beq_iff_eq] at h3
    rw [h3.1.1.1.1]; rfl
  unfold Chip.orExit
  rw [h1]
  dsimp only
  rw [hrun, Bool.false_or, h2]
  unfold Chip.issueOp
  dsimp only
  rw [Chip.env?_atCode, h1]
  simp only [ht, h3, if_true, Bool.false_eq_true, if_false]
  unfold Chip.tryIssue
  rw [Chip.injectData_unstruck k4]
  simp only [Chip.firstOf_plain he, Chip.causeOf, Chip.awaited, Chip.linesOf_plain he, Chip.prefixMiss, Option.map_none, List.map_nil, Chip.actBundle, List.flatMap_cons, List.flatMap_nil,
    List.append_nil, k1, k2, firstCause, Option.filter_none, List.any_cons, List.any_nil, hp, k3, Bool.or_false,
    Bool.and_false, Bool.false_eq_true, if_false, List.isEmpty_nil, Bool.not_true, he]

/-- A pipeline that can issue does not wait. -/
theorem Pipe.canIssue_stall {p : Pipe} {adv : Bool} (h : p.canIssue adv = true) : p.stall = none := by
  unfold Pipe.canIssue at h
  simp only [Bool.and_eq_true] at h
  exact Option.isNone_iff_eq_none.1 h.1.1.1.2

/-- The packet of an operation leaves pipelines as they are. -/
@[simp] theorem Chip.transferPacket_pipes (c : Chip) (e : Env) (o : CoreOp) : (c.transferPacket e o).pipes = c.pipes := by
  unfold Chip.transferPacket
  generalize (resolve e o).filter _ = r
  generalize transferTarget e o = q
  cases r <;> cases q <;> simp

theorem Chip.Frame.transferPacket (c : Chip) (e : Env) (o : CoreOp) : c.Frame (c.transferPacket e o) e.pi := by
  unfold Chip.transferPacket
  generalize (resolve e o).filter _ = r
  generalize transferTarget e o = q
  have h (d : Chip) : d.Frame (match q with
      | some q => d.emitTarget e.core e.p e.x q.1 0 q.2
      | none => d) e.pi := by
    cases q
    · exact Chip.Frame.refl _ _
    · exact Chip.Frame.emitTarget _ _ _ _ _ _ _ _
  cases r
  · exact h c
  · exact .trans (Chip.Frame.emitBranch _ _ _ _ _ _) (h _)

/-- One operation acts, and stands for no trapped one: what its command changes beside what the operation itself does. -/
theorem Chip.actAll_single (c : Chip) (e : Env) (s : Slot) (o : CoreOp) (adv : Bool)
    (hr : adv = false ∨ e.a.reissue = none) :
    ((c.emitLanded e).actOp e s o).Frame (c.actAll e [(s, o)] adv) e.pi
      ∧ (c.actAll e [(s, o)] adv).pipe e.pi
        = let p := Pipe.occupy { ((c.emitLanded e).actOp e s o).pipe e.pi with stall := none } s o
          if adv then p.advance e [(s, o)] else p := by
  unfold Chip.actAll
  extract_lets b f g h p q r
  have hf : f = b.actOp e s o ∨ f = (b.actOp e s o).transferPacket e o := by
    show (if adv then b.actSlots e [(s, o)] else _) = _ ∨ (if adv then b.actSlots e [(s, o)] else _) = _
    unfold Chip.actSlots
    rcases hr with hr | hr <;> rw [hr]
    · exact .inl rfl
    · cases adv
      · exact .inl rfl
      · exact .inr rfl
  have ha : (b.actOp e s o).Frame f e.pi ∧ f.pipes = (b.actOp e s o).pipes := by
    rcases hf with hf | hf <;> rw [hf]
    · exact ⟨Chip.Frame.refl _ _, rfl⟩
    · exact ⟨Chip.Frame.transferPacket _ _ _, Chip.transferPacket_pipes _ _ _⟩
  have hg : f.Frame g e.pi := Chip.Frame.count _ _ _ _
  have hh : f.Frame h e.pi := by
    refine .trans hg ?_
    show g.Frame (if adv && e.a.rep.isSome then g.count e.pi 0x1B 1 else g) e.pi
    split
    · exact Chip.Frame.count _ _ _ _
    · exact Chip.Frame.refl _ _
  have hpi : h.pipes = f.pipes := by
    show (if adv && e.a.rep.isSome then g.count e.pi 0x1B 1 else g).pipes = _
    split
    · rw [Chip.count_pipes]; exact Chip.count_pipes _ _ _ _
    · exact Chip.count_pipes _ _ _ _
  have hp : p = f.pipe e.pi := Chip.pipe_of_pipes hpi _
  have hq : q = Pipe.occupy { f.pipe e.pi with stall := none } s o := by rw [← hp]; rfl
  rw [Chip.pipe_of_pipes ha.2] at hq
  exact ⟨.trans (.trans ha.1 hh) (Chip.Frame.setPipe _ _ _), by rw [Chip.pipe_setPipe, hq]⟩

/-- Results put in flight by an operation that then occupies its unit. -/
theorem Pipe.occupy_land (p : Pipe) (s : Slot) (o : CoreOp) (L : Nat) (ws : List LWrite) (hs : p.stall = none) :
    Pipe.occupy { Pipe.land { p with fly := p.held } s L ws with stall := none } s o = p.afterOp s o (p.landings s L ws) := by
  cases p
  cases hs
  unfold Pipe.afterOp Pipe.occupy
  cases o.unit s <;> rfl

/-- An operation that only puts results in flight: what its command leaves. -/
theorem Chip.actAll_lands {c : Chip} {e : Env} {s : Slot} {o : CoreOp} {L : Nat} {ws : List LWrite}
    (hp : e.p = c.pipe e.pi) (hs : e.p.stall = none)
    (hd : ∀ b : Chip, ∃ d : Chip, d.pipes = b.pipes ∧ b.Frame d e.pi ∧ b.actOp e s o = d.land e.pi s L ws) :
    c.Frame (c.actAll e [(s, o)] false) e.pi
      ∧ (c.actAll e [(s, o)] false).pipe e.pi = e.p.afterOp s o (e.p.landings s L ws) := by
  obtain ⟨d, h1, h2, h3⟩ := hd (c.emitLanded e)
  refine ⟨.trans (.trans (Chip.Frame.emitLanded c e) (h3 ▸ .trans h2 (Chip.Frame.setPipe d e.pi _)))
    (c.actAll_single e s o false (.inl rfl)).1, ?_⟩
  rw [(c.actAll_single e s o false (.inl rfl)).2, h3]
  dsimp only
  rw [if_neg Bool.false_ne_true]
  unfold Chip.land
  rw [Chip.pipe_setPipe, Chip.pipe_of_pipes h1, Chip.emitLanded_pipe, ← hp]
  exact Pipe.occupy_land e.p s o L ws hs

theorem CoreOp.isPrefix_of_transfers {o : CoreOp} (h : o.transfers = false) : o.isPrefix = false := by
  cases o <;> first | rfl | exact Bool.noConfusion h

/-- The causes of an operation that stands legally and at its level: those of its accesses and of its capture. -/
theorem Chip.opCauses_plain (c : Chip) (e : Env) (ops : List (Slot × CoreOp)) (s : Slot) (o : CoreOp)
    (ht : o.transfers = false) (ho : (e.x.open_ && o.openIllegal) = false) (hw : targetIllegal e o = false)
    (hi : operandIllegal e o = false) (h1 : opLegal s o = true) (h2 : (!e.x.open_ && o.timedIllegal) = false)
    (h3 : opPriv e o = false) (h4 : opConflict e s o = false) (h5 : c.opFar e o = false) (h6 : emulCause s o = []) :
    c.opCauses e ops s o = c.opAccess e o ++ c.opCapture e o := by
  have hp := CoreOp.isPrefix_of_transfers ht
  unfold Chip.opCauses Chip.prefixFetch Chip.opIllegal Chip.prefixIllegal
  rw [hp, ht, h1, h2, h3, h4, h5, h6, ho, hw, hi]
  simp only [Bool.false_eq_true, if_false, Bool.and_false, Bool.false_and, Bool.or_false, Bool.not_true, List.nil_append,
    List.append_nil]

/-- The command of an operation that acts on its pipeline alone. -/
theorem opCompletes_of {s : State} {core : Fin 64} {e : Env} {sl : Slot} {o : CoreOp} {p' : Pipe} {i : Instr}
    (hr : s.chip.Ready core e false) (ht : o.transfers = false) (he : hasEret [(sl, o)] = false)
    (hx : exec i s = s.does fun c => c.onCore core.val (fun a c => c.orExit a (fun c => c.issueOp a sl o)))
    (hc : opLegal sl o = true → (!e.x.open_ && o.timedIllegal) = false → operandIllegal e o = false → opPriv e o = false →
      opConflict e sl o = false → (s.chip.atCode core).Clear e sl o)
    (hd : ∀ b : Chip, b.pipe e.pi = { e.p with fly := e.p.held } →
      b.Frame (b.actOp e sl o) e.pi ∧ Pipe.occupy { (b.actOp e sl o).pipe e.pi with stall := none } sl o = p') :
    OpCompletes s e sl o p' i := by
  intro h1 h2 hi h3 h4
  refine ⟨_, hx, rfl, ?_⟩
  have := Chip.issueOp_clear (s := sl) (o := o) hr (hc h1 h2 hi h3 h4) ht he
  simp only []
  rw [this]
  obtain ⟨k1, k2⟩ := Chip.env?_pipe hr.1.1
  have hpipe : (s.chip.atCode core).pipe e.pi = s.chip.pipe e.pi := Chip.pipe_of_pipes (Chip.atCode_pipes _ _) _
  obtain ⟨f1, f2⟩ := hd ((s.chip.atCode core).emitLanded e) (by rw [Chip.emitLanded_pipe, hpipe, ← k1])
  refine ⟨.trans (Chip.Frame.atCode _ _ _) (.trans (Chip.Frame.emitLanded _ e) (.trans f1
    (Chip.actAll_single _ e sl o false (.inl rfl)).1)), ?_⟩
  rw [(Chip.actAll_single _ e sl o false (.inl rfl)).2]
  exact f2

/-- The command of an operation that only puts results in flight, by the operation's causes. -/
theorem registerOp_of {s : State} {core : Fin 64} {e : Env} {sl : Slot} {o : CoreOp} {L : Nat} {ws : List LWrite} {i : Instr}
    (hr : s.chip.Ready core e false) (ht : o.transfers = false) (he : hasEret [(sl, o)] = false)
    (hx : exec i s = s.does fun c => c.onCore core.val (fun a c => c.orExit a (fun c => c.issueOp a sl o)))
    (hc : opLegal sl o = true → (!e.x.open_ && o.timedIllegal) = false → operandIllegal e o = false → opPriv e o = false →
      opConflict e sl o = false → (s.chip.atCode core).Clear e sl o)
    (hd : ∀ b : Chip, ∃ d : Chip, d.pipes = b.pipes ∧ b.Frame d e.pi ∧ b.actOp e sl o = d.land e.pi sl L ws) :
    RegisterOp s e sl o L ws i := by
  refine opCompletes_of hr ht he hx hc (fun b hb => ?_)
  obtain ⟨d, h1, h2, h3⟩ := hd b
  rw [h3]
  refine ⟨.trans h2 (Chip.Frame.setPipe d e.pi _), ?_⟩
  unfold Chip.land
  rw [Chip.pipe_setPipe, Chip.pipe_of_pipes h1, hb]
  exact Pipe.occupy_land e.p sl o L ws (Pipe.canIssue_stall hr.2.2)

end Sys2Proof.Machine
end

