-- ==== Sys2Proof/Laws/Memory.lean ====
section
/-! SUPPORT. The laws of memory: a byte or word read after a write, and that every memory operation keeps the canonical
form. -/

namespace Sys2Proof.Machine

/-- A byte read after a write of a word. -/
theorem readByte_writeW (m : List Host.Cell) (a i : Nat) (x : Word) :
    readByte (writeW m a x) i
      = if i = 2 * a + 1 then x.extractLsb' 8 8 else if i = 2 * a then x.extractLsb' 0 8 else readByte m i := by
  simp only [readByte, writeW, tget_tset]

/-- Every byte outside the word keeps what it holds. -/
theorem readByte_writeW_ne (m : List Host.Cell) (a i : Nat) (x : Word) (h0 : i ≠ 2 * a) (h1 : i ≠ 2 * a + 1) :
    readByte (writeW m a x) i = readByte m i := by
  rw [readByte_writeW, if_neg h1, if_neg h0]

/-- The word just written is read. -/
@[simp] theorem readW_writeW_self (m : List Host.Cell) (a : Nat) (x : Word) : readW (writeW m a x) a = x := by
  have h : ¬ (2 * a = 2 * a + 1) := by omega
  simp only [readW, readByte_writeW, if_true, if_neg h]
  apply BitVec.eq_of_getLsbD_eq
  intro i hi
  simp only [BitVec.getLsbD_append, BitVec.getLsbD_extractLsb']
  by_cases h8 : i < 8
  · simp [h8]
  · have h1 : i - 8 < 8 := by omega
    have h2 : 8 + (i - 8) = i := by omega
    simp [h8, h1, h2]

/-- Another word keeps what it holds. -/
theorem readW_writeW_ne (m : List Host.Cell) (a b : Nat) (x : Word) (h : b ≠ a) : readW (writeW m a x) b = readW m b := by
  unfold readW
  rw [readByte_writeW_ne m a _ x (by omega) (by omega), readByte_writeW_ne m a _ x (by omega) (by omega)]

/-- A byte outside the words written keeps what it holds. -/
theorem readByte_writeL_ne (xs : List Word) (m : List Host.Cell) (a i : Nat) (h : i < 2 * a ∨ 2 * (a + xs.length) ≤ i) :
    readByte (writeL m a xs) i = readByte m i := by
  induction xs generalizing m a with
  | nil => rfl
  | cons x xs ih =>
    simp only [List.length_cons] at h
    rw [writeL, ih _ _ (by omega), readByte_writeW_ne _ _ _ _ (by omega) (by omega)]

/-- A word outside those written keeps what it holds. -/
theorem readW_writeL_ne (xs : List Word) (m : List Host.Cell) (a b : Nat) (h : b < a ∨ a + xs.length ≤ b) :
    readW (writeL m a xs) b = readW m b := by
  unfold readW
  rw [readByte_writeL_ne xs m a _ (by omega), readByte_writeL_ne xs m a _ (by omega)]

/-- The words just written are read. -/
theorem readN_writeL (xs : List Word) (m : List Host.Cell) (a : Nat) : readN (writeL m a xs) a xs.length = ofWords xs := by
  induction xs generalizing m a with
  | nil => rfl
  | cons x xs ih =>
    rw [List.length_cons, writeL, readN, ih, readW_writeL_ne _ _ _ _ (by omega), readW_writeW_self, ofWords]

/-- A number made of words gives them back. -/
theorem toWords_ofWords (xs : List Word) : toWords xs.length (ofWords xs) = xs := by
  induction xs with
  | nil => rfl
  | cons x xs ih =>
    have h0 : wordOf (ofWords (x :: xs)) 0 = x := by
      apply BitVec.eq_of_toNat_eq
      simp only [wordOf, ofWords]
      have := x.isLt
      simp [Nat.shiftLeft_eq]; omega
    have h1 : wordOf (ofWords (x :: xs)) ∘ Nat.succ = wordOf (ofWords xs) := by
      funext i
      have h : ofWords (x :: xs) >>> 16 = ofWords xs := by
        have := x.isLt
        simp only [ofWords, Nat.shiftLeft_eq, Nat.shiftRight_eq_div_pow]
        omega
      show wordOf _ (i + 1) = _
      rw [wordOf, wordOf, ← h, ← Nat.shiftRight_add, show 16 * (i + 1) = 16 + 16 * i by omega]
    rw [toWords, List.length_cons, List.range_succ_eq_map, List.map_cons, h0, List.map_map, h1]
    exact congrArg (x :: ·) ih
theorem memWf_writeW (m : List Host.Cell) (a : Nat) (x : Word) (h : memWf m = true) : memWf (writeW m a x) = true :=
  twf_tset _ _ _ _ (twf_tset _ _ _ _ h)

theorem memWf_writeL (xs : List Word) (m : List Host.Cell) (a : Nat) (h : memWf m = true) : memWf (writeL m a xs) = true := by
  induction xs generalizing m a with
  | nil => exact h
  | cons x xs ih => exact ih _ _ (memWf_writeW m a x h)

theorem memWf_tclear (m : List Host.Cell) (lo n : Nat) (h : memWf m = true) : memWf (tclear m lo n) = true :=
  twf_tclear _ m lo n h

theorem memWf_tcopy (m : List Host.Cell) (src dst n : Nat) (h : memWf m = true) : memWf (tcopy m src dst n) = true :=
  twf_tcopy _ m src dst n h

/-- Memory in canonical form is determined by what its bytes read as. -/
theorem mem_ext (m n : List Host.Cell) (hm : memWf m = true) (hn : memWf n = true) (h : ∀ a, readByte m a = readByte n a) :
    m = n := tbl_ext (0 : Byte) m n hm hn h

/-- A fold of steps that keep the canonical form keeps it. -/
theorem memWf_foldl {β : Type} (f : Chip → β → Chip) (l : List β) (c : Chip) (h : memWf c.mem = true)
    (hf : ∀ c x, memWf c.mem = true → memWf (f c x).mem = true) : memWf (l.foldl f c).mem = true := by
  induction l generalizing c with
  | nil => exact h
  | cons x l ih => exact ih _ (hf c x h)

/-- The same for a fold that carries a value beside the chip. -/
theorem memWf_foldl_fst {β γ : Type} (f : Chip × γ → β → Chip × γ) (l : List β) (r : Chip × γ) (h : memWf r.1.mem = true)
    (hf : ∀ r x, memWf r.1.mem = true → memWf (f r x).1.mem = true) : memWf (l.foldl f r).1.mem = true := by
  induction l generalizing r with
  | nil => exact h
  | cons x l ih => exact ih _ (hf r x h)

/-- A step that may answer nothing keeps the canonical form if what it answers does. -/
theorem memWf_getD (o : Option Chip) (c : Chip) (h : ∀ d, o = some d → memWf d.mem = true) (hc : memWf c.mem = true) :
    memWf (o.getD c).mem = true := by
  cases o with
  | none => exact hc
  | some d => exact h d rfl

end Sys2Proof.Machine
end

