-- ==== Sys2Proof/Tests/Slice0.lean ====
section
/-! SUPPORT. Tests: terms that the well-formedness checks refuse, and for every statement with hypotheses a concrete state
and operands that meet them. -/

namespace Sys2Proof.Tests

open Sys2Proof Sys2Proof.Machine

-- one theorem after another: each elaboration in a thread of its own would take its whole stack from the memory limit
set_option Elab.async false

/-! ### States for the tests -/

/-- The chip after a command. -/
def next (i : Instr) (c : Chip) : Chip :=
  match exec i { chip := c } with
  | .next t => t.chip
  | _ => {}

/-- An open and a timed context of party 5 in partition 1, over all of the core's tight memory. -/
def ctxO : CtxE := { part := 1, open_ := true, level := 1, l1i := 0xF, l1d := 0xF, tmSize := 1024, bound := 4 }

/-- The timed one. -/
def ctxT : CtxE := { part := 1, level := 1, l1i := 0xF, l1d := 0xF, tmSize := 1024, entryOff := 0x40, spInit := 0x80 }

/-- A plan in which party 5 of the Web world owns everything that can be owned, and party 6 is of the Deckle world. -/
def plan : Plan :=
  { parties := [⟨5, false, true⟩, ⟨6, true, true⟩], partitions := [⟨1, 5, 2, 1⟩]
    owns := [⟨0, 5, 0, 0x1FF⟩, ⟨1, 5, 0, 8191⟩, ⟨2, 5, 0, 0x7FFF⟩, ⟨3, 5, 0x10_0000, 0x1F_FFFF⟩, ⟨4, 5, 0, 0xFFFF⟩,
      ⟨5, 5, 0, 0x32E⟩]
    ctxs := [(0, [ctxO, ctxT]), (8, [ctxO, ctxT])]
    wins := [(0, [{ start := 100, length := 50, open_ := true, party := 5 }, { start := 200, length := 50, ctx := 1, party := 5 }])]
    l2map := [(0, List.replicate 16 (some 5))] }

/-- A chip that runs the plan, with an eight powered and external memory live. -/
def chip : Chip :=
  { isLive := true, bankA := { st := .live, plan := some plan }, strokeOn := true
    eights := [(0, { pwr := .on }), (1, { pwr := .on })], power := { st := .run }
    ext := { qdr := [(0, { st := .live }), (1, { st := .live }), (2, { st := .live }), (3, { st := .live })]
             lpd := [(0, { st := .live }), (1, { st := .live })], keys := 7 } }

/-- A state of a chip. -/
def st (c : Chip) : State := { chip := c }

/-- The context as it runs. -/
def run (open_ : Bool) : RunCtx :=
  { open_ := open_, party := 5, part := 1, level := 1, l1i := 0xF, l1d := 0xF, tmSize := 1024, ctx := if open_ then 0 else 1
    acc := [⟨0, 0, false, 0, 1⟩, ⟨0, 0, true, 0, 1⟩] }

/-- A data segment over the core's own tight memory (base 0xF_1000_0000), readable and writable. -/
def segTm : SegReg := ⟨1, 1 + 4 + 8 + 0x1000_0000 * 2 ^ 32 + 0xF * 2 ^ 64 + 0xFFFF * 2 ^ 96, true⟩

/-- A data segment over QDR. -/
def segQ : SegReg := ⟨2, 1 + 4 + 8 + 0x7FF_FFFF * 2 ^ 96, true⟩

/-- A code segment over QDR. -/
def segC : SegReg := ⟨3, 1 + 4 + 16 + 0x7FF_FFFF * 2 ^ 96, true⟩

/-- Registers: ST at level 1 with interrupts off, the segments, and a few words. -/
def arch : Arch :=
  { st := 1, w := [(4, 0x100), (5, 0x20), (6, 0x40), (62, 0x200)], seg := [(0, segC), (1, segTm), (2, segTm), (3, segQ)] }

/-- The pipeline of core 0 in a window. -/
def pipe (open_ : Bool) : Pipe := { run := .run, ctx := some (run open_), arch := arch, cycle := 1 }

/-- The chip with core 0 in a window, and changes to its pipeline. -/
def inWin (open_ : Bool) (f : Pipe → Pipe := id) : Chip := chip.setPipe 0 (f (pipe open_))

/-- The environment of core 0. -/
def env (c : Chip) : Env := (c.env? 0).getD ⟨64, 0, {}, {}, 0, [], [], none, false⟩

/-! ### Operations of a core -/

/-- An operation that is legal, in its window and with its unit free. -/
abbrev legalNow (e : Env) (sl : Slot) (o : CoreOp) : Prop :=
  opLegal sl o = true ∧ (!e.x.open_ && o.timedIllegal) = false ∧ operandIllegal e o = false ∧ opPriv e o = false
    ∧ opConflict e sl o = false

theorem wit_ready : (inWin true).Ready 0 (env (inWin true)) false ∧ (inWin false).Ready 0 (env (inWin false)) false
    ∧ (inWin true).Ready 0 (env (inWin true)) true ∧ (env (inWin true)).Straight := by decide +kernel

/-- The operation is legal now, and its command leaves the pipeline as said. -/
abbrev acts (c : Chip) (sl : Slot) (o : CoreOp) (p' : Pipe) (i : Instr) : Prop :=
  legalNow (env c) sl o ∧ (next i c).pipe 0 = p'

/-- The same for results of one latency. -/
abbrev puts (c : Chip) (sl : Slot) (o : CoreOp) (L : Nat) (ws : List LWrite) (i : Instr) : Prop :=
  acts c sl o ((env c).p.afterOp sl o ((env c).p.landings sl L ws)) i

/-- Operands. -/
def oAlu : AluOp := ⟨.pair, true, .addc, 7, 2, 3⟩
/-- Operands. -/
def oImm : ImmOp := ⟨.shri, .quad, 3, 1, 63⟩
/-- Operands. -/
def oMul : MulOp := ⟨.mulw, .quad, 2, 1, 1⟩
/-- Operands of a floating operation of binary64. -/
def fpArg (one : Bool) : FpOp := ⟨.d, 15, 1, if one then 0 else 2⟩

theorem wit_alu : puts (inWin false) .a (.alu oAlu) 1 (aluWrites arch oAlu) (.aluOperation 0 false oAlu)
    ∧ puts (inWin true) .a (.imm oImm) 2 (immWrites arch oImm) (.immediateOperation 0 false oImm)
    ∧ puts (inWin true) .b (.movi ⟨2, 31, 0xFFFF⟩) 1 (moviWrites ⟨2, 31, 0xFFFF⟩) (.movi 0 true ⟨2, 31, 0xFFFF⟩)
    ∧ puts (inWin true) .a (.movi ⟨3, 15, 0xFFFF⟩) 2 (moviWrites ⟨3, 15, 0xFFFF⟩) (.movi 0 false ⟨3, 15, 0xFFFF⟩) := by
  decide +kernel

theorem wit_mul : puts (inWin true) .m (.div ⟨.rem, .pair, 4, 2, 0⟩) 34 (divWrites arch ⟨.rem, .pair, 4, 2, 0⟩)
      (.div 0 ⟨.rem, .pair, 4, 2, 0⟩)
    ∧ puts (inWin true) .m (.mul ⟨.mul, .quad, 2, 1, 1⟩) 9 (mulWrites arch ⟨.mul, .quad, 2, 1, 1⟩) (.mul 0 ⟨.mul, .quad, 2, 1, 1⟩)
    ∧ puts (inWin false) .m (.mulq ⟨true, true, 31, 2, 3⟩) 5 (mulqWrites arch ⟨true, true, 31, 2, 3⟩)
      (.mulq15 0 ⟨true, true, 31, 2, 3⟩) := by decide +kernel

/-- A floating operation of binary64 and its one-operand form. -/
abbrev fpWit (fn : FpFn) (one : Bool) (f : FpOp → Instr) : Prop :=
  puts (inWin true) .m (.fp fn (fpArg one)) (fpTime fn .d).1 (fpWrites arch fn (fpArg one)) (f (fpArg one))

theorem wit_fp : ∀ x ∈ ([(.add, false, .fadd 0), (.sub, false, .fsub 0), (.mul, false, .fmul 0), (.min, false, .fmin 0),
      (.max, false, .fmax 0), (.neg, true, .fneg 0), (.abs, true, .fabs 0), (.cmp, false, .fcmp 0), (.cmps, false, .fcmps 0),
      (.class, true, .fclass 0), (.frec, true, .frec 0), (.frsq, true, .frsq 0)] : List (FpFn × Bool × (FpOp → Instr))),
    fpWit x.1 x.2.1 x.2.2 := by decide +kernel

theorem wit_fma : puts (inWin true) .m (.fma false ⟨.h, 1, 4, 5, 6⟩) 4 (fmaWrites arch false ⟨.h, 1, 4, 5, 6⟩) (.fma 0 ⟨.h, 1, 4, 5, 6⟩)
    ∧ puts (inWin true) .m (.fma true ⟨.d, 1, 4, 5, 6⟩) 8 (fmaWrites arch true ⟨.d, 1, 4, 5, 6⟩) (.fmsb 0 ⟨.d, 1, 4, 5, 6⟩)
    ∧ puts (inWin true) .m (.fcvt ⟨.f16, .sq, 5, 1, false⟩) 3 (fcvtWrites arch ⟨.f16, .sq, 5, 1, false⟩)
      (.fcvt 0 ⟨.f16, .sq, 5, 1, false⟩) := by decide +kernel

theorem wit_sweep : puts (inWin true) .m (.vmac ⟨3, 1, 2, 7, true, true, false⟩) 3 (vmacWrites arch ⟨3, 1, 2, 7, true, true, false⟩)
      (.vmac 0 ⟨3, 1, 2, 7, true, true, false⟩)
    ∧ puts (inWin true) .m (.vfma ⟨15, 1, 2, 3, false, 0⟩) 4 (vfmaWrites arch ⟨15, 1, 2, 3, false, 0⟩)
      (.vfma 0 ⟨15, 1, 2, 3, false, 0⟩)
    ∧ puts (inWin true) .m (.sweep ⟨.vget, 0, 1, 0, 63, 7⟩) 2 (sweepWrites arch ⟨.vget, 0, 1, 0, 63, 7⟩)
      (.sweepLaneOperation 0 ⟨.vget, 0, 1, 0, 63, 7⟩)
    ∧ puts (inWin true) .m (.vext ⟨2, 3, 32, true, true⟩) 3 (vextWrites arch ⟨2, 3, 32, true, true⟩)
      (.vext 0 ⟨2, 3, 32, true, true⟩)
    ∧ legalNow (env (inWin true)) .m (.vaput ⟨1, 2, 3, 4⟩) := by decide +kernel

/-- At level 2, as a monitor. -/
def monitor (f : Pipe → Pipe := id) : Chip := inWin true (fun p => f { p with arch := { arch with st := 2 } })

theorem wit_control : puts (monitor) .b (.mfc 0x61 5) 1 (wrReg .pair 5 (cregRead (env monitor) 0x61)) (.mfc 0 0x61 5)
    ∧ puts (inWin false) .l (.mfs 3 9) 1 [.w 9 2] (.mfs 0 3 9)
    ∧ legalNow (env monitor) .b (.mtc 0x62 5) ∧ mtcSelector (env monitor).a 0x62 5 = none
    ∧ legalNow (env monitor) .b (.mtc 0x61 5) ∧ legalNow (env monitor) .b (.mtc 0x4C 5) ∧ legalNow (env monitor) .b (.mtc 0x4D 2)
    ∧ (tget {} (env monitor).p.tlb (bits ((env monitor).a.rx 5) 6 0)).world = (env monitor).x.world
    ∧ bitN (((env (monitor (fun p => { p with arch := { p.arch with w := [(4, 1)] } }))).a).rx 2) 0 = true := by decide +kernel

theorem wit_tlbrd_world : let e := env (monitor (fun p => { p with tlb := [(0, { world := true })] }))
    legalNow e .b (.mtc 0x4C 6) ∧ (tget {} e.p.tlb (bits (e.a.rx 6) 6 0)).world ≠ e.x.world := by decide +kernel

/-- The world segment table of the tests: 16 descriptors at QDR word 0x1000, of which the sixth is that of `segQ`. -/
def withWst (p : Pipe) : Pipe := { p with coreEff := [(0x40, 0x1000), (0x41, 16 * 2 ^ 4)] }

/-- A chip with that table. -/
def wstChip (f : Pipe → Pipe := id) : Chip :=
  let c := inWin true (fun p => f (withWst p))
  let c := { c with mem := writeL c.mem (0x1000 + 5 * 8) (toWords 8 segQ.raw.toNat) }
  c.l1Fill (c.mctx 0 (run true)) false (0x1028 / 32)

theorem wit_lseg : let c := wstChip (fun p => { p with arch := { p.arch with w := [(8, 5), (12, 5)] } })
    let e := env c
    c.Ready 0 e false ∧ (c.atCode 0).Clear e .l (.lseg 3 8)
    ∧ ((next (.lseg 0 3 8) c).pipe 0).fly = e.p.landings .l 4 [.seg 3 ⟨5, segQ.raw, true⟩] := by decide +kernel

theorem wit_mtc_selector :
    let c := wstChip (fun p => { p with arch := { p.arch with st := 2, w := [(8, 5), (12, 5)] } })
    let e := env c
    c.Ready 0 e false ∧ (c.atCode 0).Clear e .b (.mtc SelReg.vecs.creg 4)
    ∧ (mtcSelector e.a SelReg.vecs.creg 4).isSome = true := by decide +kernel

/-! ### The block, and integer results -/

theorem wit_step : memWf chip.mem = true ∧ (match step { chip := chip, pending := [.hubEvaluation] } with
    | .next t => t.pending.isEmpty
    | _ => false) = true ∧ State.reset.pending = [] := by decide +kernel

theorem wit_flags : ∀ fn ∈ ([.add, .addc, .sub, .subb, .neg, .adds, .subs, .addus, .subus, .abs, .shl, .shr, .sar, .rol, .and, .clz,
      .mov, .minu] : List AluFn), (⟨.pair, true, fn, 7, 2, 3⟩ : AluOp).sf = true ∧ (⟨.pair, true, fn, 7, 2, 3⟩ : AluOp).fn = fn := by
  decide

theorem wit_extremes : opLegal .a (.alu ⟨.pair, false, .sext, 31, 63, 0⟩) = true ∧ opLegal .a (.alu ⟨.pair, false, .zext, 7, 2, 0⟩) = true
    ∧ BitVec.ofNat 32 (Arch.rd {} .pair 2) = 0 := by decide

/-- Words with the least value in X2 and minus one in X3. -/
def leastArch : Arch := { w := [(5, 0x8000), (6, 0xFFFF), (7, 0xFFFF)] }

theorem wit_quotients : leastArch.rd .pair 2 = 0x8000_0000 ∧ leastArch.rd .pair 3 = 0xFFFF_FFFF ∧ leastArch.rd .pair 4 = 0
    ∧ divWrites leastArch ⟨.div, .pair, 4, 2, 3⟩ = wrReg .pair 4 0x7FFF_FFFF ++ [.sticky 0x10] := by decide

theorem wit_branch : let e := env (inWin false)
    targetIllegal e (.br 0x3FF_FFFF) = false ∧ opConflict e .b (.br 0) = false
    ∧ targetIllegal e (.bc .le 1) = false ∧ targetIllegal e (.bz 4 1) = false ∧ targetIllegal e (.bnz 63 1) = false
    ∧ targetIllegal e (.call 0) = false ∧ targetIllegal e (.bri 2) = false ∧ targetIllegal e (.calli 2) = false
    ∧ targetIllegal e .ret = false ∧ ((next (.bnz 0 4 1) (inWin false)).pipe 0).arch.br = some ⟨8, 2, 0⟩
    ∧ ((next (.calli 0 2) (inWin false)).pipe 0).arch.br = some ⟨0x20_0100, 2, 2⟩ := by decide +kernel

/-- Core 0 in an open window with the line of its code in L1I. -/
def coded (mem : List Host.Cell) (f : Pipe → Pipe := id) : Chip :=
  let c := { inWin true f with mem := mem }
  c.l1Fill (c.mctx 0 (run true)) true 0

theorem wit_rep : let c := coded [(16, 0)]
    c.Ready 0 (env c) true ∧ (env c).Straight ∧ (c.atCode 0).fetch (env c) (((env c).pc + 8) % 2 ^ 32) = .words 0
    ∧ badRepeat 0 = false ∧ legalNow (env c) .b (.rep (.repImm 0)) ∧ legalNow (env c) .b (.rep .repCt) ∧ legalNow (env c) .b .repi
    ∧ ((next (.rep 0 (.repImm 256)) c).pipe 0).arch.rep = some ⟨false, 256⟩
    ∧ ((next (.rep 0 (.repImm 0)) c).pipe 0).arch.pc = 16 := by decide +kernel

/-- Core 0 in an open window with a value of ST and of a control register. -/
def atLevel (stv : Pair) (n : Nat) (v : Pair) : Chip :=
  inWin true (fun p => { p with arch := { arch with st := stv, creg := [(n, v)], eff := [(n, v)] } })

theorem wit_syse : let c := atLevel 0 0x23 0x80
    let e := env c
    c.Ready 0 e true ∧ e.Straight ∧ e.x.open_ = true ∧ e.p.fly = [] ∧ e.p.stores = [] ∧ e.p.far = [] ∧ e.a.level < 1
    ∧ opConflict e .b (.syse 2 7) = false ∧ opConflict e .b (.syse 1 0xFFFF) = false
    ∧ ((next (.resultLanding 0) (next (.syse 0 2 7) c)).pipe 0).arch.level = 2
    ∧ ((next (.resultLanding 0) (next (.syse 0 2 7) c)).pipe 0).arch.pc = 0x80 := by decide +kernel

theorem wit_sysr : let c := atLevel 2 0x29 1
    let e := env c
    c.Ready 0 e true ∧ e.Straight ∧ e.p.fly = [] ∧ e.p.stores = [] ∧ e.p.far = [] ∧ e.x.open_ = true ∧ 0 < e.a.level
    ∧ bits (e.a.acting (0x28 + (e.a.level - 1))) 1 0 < e.a.level ∧ opConflict e .b .sysr = false
    ∧ ((next (.resultLanding 0) (next (.sysr 0) c)).pipe 0).arch.level = 1 := by decide +kernel

theorem wit_wend : let c := inWin true
    let w := inWin true (fun p => { p with run := .ended })
    let up := { w with hub := { w.hub with slices := [(0, { line := true })] } }
    legalNow (env c) .b .wend ∧ ((next (.wend 0) c).pipe 0).run = .ended
    ∧ up.Alone 0 (env up) ∧ (up.part (env up).x.part).st = .run ∧ (env up).x.open_ = true ∧ (env up).p.run = .ended ∧ (env up).p.closing = false
    ∧ up.hubLine 0 = true ∧ ((next (.coreWake 0) up).pipe 0).run = .run := by decide +kernel

/-- The targets of the frame of an entry at the level of `arch`. -/
def frameAt : List Target := (List.range 16).map (fun i => .tight (0x200 - 16 + i))

theorem wit_entry : let c := inWin true (fun p => { p with pend := some ⟨.illegal, .b, 0x40, 0, none⟩ })
    let e := env c
    let r : Raised := ⟨.illegal, .b, 0x40, 0, none⟩
    let h := handlingLevel e.a e.a r.cause
    let b := (c.atCode 0).drain e
    let ts := frameAt.map some
    let q := b.pushOct e ts (frameOf e.a r) 0
    c.Alone 0 e ∧ e.p.run = .run ∧ e.p.pend = some r ∧ e.p.fly = [] ∧ e.p.stores = []
    ∧ (b.pushCheck e.core (b.pipe e.pi) e.a e.x h).toOption = some ts ∧ h = 1
    ∧ q.2 = none ∧ (q.1.pushOct e ts (frameOf e.a r) 8).2 = none
    ∧ ((next (.exceptionEntry 0) c).pipe 0).arch.pc = BitVec.ofNat 32 (r.cause.code * 0x20)
    ∧ ((next (.exceptionEntry 0) c).pipe 0).arch.w62 = 0x1F0 := by decide +kernel

theorem wit_eret : let c := inWin true
    let e := env c
    let c0 := (c.atCode 0).drain e
    let r := (c0.setPipe e.pi { c0.pipe e.pi with stall := none }).eretCheck e e.a
    let g := e.a.segr 2
    c.Ready 0 e true ∧ e.Straight ∧ e.x.open_ = true ∧ 0 < e.a.level ∧ opConflict e .b .eret = false ∧ e.a.crab = false
    ∧ e.p.fly = [] ∧ e.p.stores = [] ∧ r.2 = .frame (List.replicate 16 0) ⟨0, 0, false⟩
    ∧ g.valid = true ∧ descR g.raw = true ∧ descPg g.raw = false ∧ e.a.w62 % 4 = 0 ∧ e.a.w62 + 15 ≤ descLimit g.raw
    ∧ (descBase g.raw + e.a.w62) % 2 ^ 36 = tightBase + 0x200 ∧ e.x.inRegion 0x200 16 = true ∧ c.tightHeld 0 0x200 16 = false
    ∧ c.tightErr 0 0x200 16 = false ∧ toWords 16 (c.tightRead 0 0x200 16) = List.replicate 16 0
    ∧ ((next (.eret 0) c).pipe 0).arch.level = 0 ∧ ((next (.eret 0) c).pipe 0).cycle = 9 := by decide +kernel

/-- Operands of a load or store of tight memory with base update. -/
def oLm (sz : MSize) : LmOp := ⟨sz, 8, 4, false, 1, true, 8⟩

theorem wit_lm : let c := inWin true
    let e := env c
    (c.atCode 0).Clear e .l (.load (oLm .oct)) ∧ (c.atCode 0).goesTo e { seg := 1, off := 0x100, n := 8, rd := true, wr := false } = some (.tight 0x100)
    ∧ opWants e.a (.load (oLm .oct)) = [{ seg := 1, off := 0x100, n := 8, rd := true, wr := false }]
    ∧ (c.atCode 0).Clear e .l (.store (oLm .word))
    ∧ opWants e.a (.store (oLm .word)) = [{ seg := 1, off := 0x100, n := 1, rd := false, wr := true }]
    ∧ (c.atCode 0).goesTo e { seg := 1, off := 0x100, n := 1, rd := false, wr := true } = some (.tight 0x100)
    ∧ ((next (.store 0 (oLm .word)) c).pipe 0).stores = [⟨2, .tight 0x100, 1, 0, none⟩] := by decide +kernel

theorem wit_movo : let c := inWin true (fun p => { p with arch := { arch with w := [(4, 0x100), (6, 0x208)] } })
    let e := env c
    let o : MovoOp := ⟨3, 2, 1, 1, true⟩
    let qs : Want := { seg := 1, off := 0x100, n := 8, rd := true, wr := false }
    let qd : Want := { seg := 1, off := 0x208, n := 8, rd := false, wr := true }
    c.Ready 0 e false ∧ (c.atCode 0).Clear e .l (.movo o) ∧ opWants e.a (.movo o) = [qs, qd]
    ∧ (c.atCode 0).goesTo e qs = some (.tight 0x100) ∧ (c.atCode 0).goesTo e qd = some (.tight 0x208) := by decide +kernel

/-- A CASP of the pair at offset X4 = 0x100 of a segment. -/
def oCasp (seg : Fin 8) : CaspOp := ⟨10, 11, 2, seg⟩

theorem wit_casp : let c := inWin true (fun p => { p with arch := { arch with w := [(4, 0x100), (20, 9), (22, 7)] } })
    let w : Fin 8 → Chip := fun g => ({ c with mem := writeW [] (if g = 1 then tightBase + 0x100 else 0x100) 9 } : Chip).setPipe 0
      { c.pipe 0 with stall := some (.uncached [] [] [(.l, .casp (oCasp g))] false) }
    let q : Fin 8 → Want := fun g => ({ seg := g, off := 0x100, n := 2, rd := true, wr := true, casp := true } : Want)
    c.Ready 0 (env c) false ∧ (c.atCode 0).opCauses (env c) [(.l, .casp (oCasp 1))] .l (.casp (oCasp 1)) = []
    ∧ (c.atCode 0).armed (0x020 + (env c).pi) = none
    ∧ (∀ g ∈ ([1, 3] : List (Fin 8)), (w g).Alone 0 (env (w g)) ∧ (env (w g)).p.stall = some (.uncached [] [] [(.l, .casp (oCasp g))] false)
      ∧ (env (w g)).p.stores = [] ∧ (w g).opCauses (env (w g)) [(.l, .casp (oCasp g))] .l (.casp (oCasp g)) = []
      ∧ opWants (env (w g)).a (.casp (oCasp g)) = [q g] ∧ (w g).trStream = false)
    ∧ (w 1).goesTo (env (w 1)) (q 1) = some (.tight 0x100) ∧ (w 3).goesTo (env (w 3)) (q 3) = some (.mem 0x100 true)
    ∧ (env (w 1)).a.rx 10 = 9 ∧ readN (next (.uncachedReply 0 false 3) (w 1)).mem (tightBase + 0x100) 2 = 7
    ∧ readN (next (.uncachedReply 0 false 3) (w 3)).mem 0x100 2 = 7 := by decide +kernel

theorem wit_far : let c := inWin false (fun p => { p with arch := { arch with w := [(4, 0x100), (10, 0x80)], seg := [(3, segQ)] }, cycle := 3 })
    let e := env c
    c.Ready 0 e false ∧ (c.atCode 0).Clear e .l (.fld ⟨2, 3, 10, 0, true⟩) ∧ (c.atCode 0).Clear e .l (.fst ⟨2, 3, 5, 0, true⟩)
    ∧ ((next (.fld 0 ⟨2, 3, 10, 0, true⟩) c).pipe 0).far = [⟨false, worldKey false, 0x100, 0x80, 0, 3, 16, 0⟩] := by decide +kernel

theorem wit_far_complete : let f : FarOp := ⟨true, 1, qdrEnd - 8, 0, 0xABC, 0, 16, 0⟩
    let c := inWin false (fun p => { p with far := [f, ⟨false, 1, 0x100, 0x80, 0, 0, 16, 0⟩] })
    let d := next (.farOperationComplete 0) c
    c.inSwing 0 = false ∧ c.pipeOf 0 = some 0 ∧ (c.pipe 0).far = [f, ⟨false, 1, 0x100, 0x80, 0, 0, 16, 0⟩] ∧ f.qaddr + 8 ≤ qdrEnd
    ∧ d.rdN 1 (qdrEnd - 8) 8 = 0xABC ∧ ((next (.farOperationComplete 0) d).pipe 0).far = []
    ∧ d.memErr 0x100 8 0 = false := by decide +kernel

/-- An FLD of a QDR quad that is poisoned. -/
theorem wit_far_poisoned : let f : FarOp := ⟨false, 1, 0x100, 0x80, 0, 0, 16, 0x40⟩
    let c := inWin false (fun p => { p with far := [f] })
    let c := { c with ext := { c.ext with qpoison := [(0x40, true)] } }
    let d := next (.farOperationComplete 0) c
    c.inSwing 0 = false ∧ c.pipeOf 0 = some 0 ∧ (c.pipe 0).far = [f] ∧ c.memErr 0x100 8 0 = true ∧ (c.pipe 0).run = .run
    ∧ (c.pipe 0).ctx.isSome = true ∧ (d.pipe 0).run = .faulted 0x19 0x40 := by decide +kernel

theorem wit_translation : legalNow (env monitor) .b (.tlbw 63) ∧ legalNow (env monitor) .b (.tlbi ⟨3, 4, 1⟩)
    ∧ (monitor.atCode 0).Clear (env monitor) .b (.twalk ⟨8, 5, 1⟩) ∧ (next (.twalk 0 ⟨8, 5, 1⟩) monitor).pipe 0 ≠ monitor.pipe 0 := by
  decide +kernel

/-- A cache operation on the line of QDR word 0x100. -/
def oCache : CacheArg := ⟨2, 3⟩

theorem wit_cache : let c := inWin true (fun p => { p with arch := { arch with st := 2, w := [(4, 0x100)] } })
    let e := env c
    let b := (c.atCode 0).emitLanded e
    let m := b.mctx 0 e.x
    c.Ready 0 e false ∧ (∀ fn ∈ [CacheFn.prefd, .prefi, .pref2, .dcwb, .dcinv, .dcwbi, .icinv, .dlock, .dunlk, .ilock, .iunlk],
      (c.atCode 0).Clear e .b (.cache fn oCache)
      ∧ (b.check 0 e.p e.x e.done (cacheWant e.a fn oCache)).toOption = some (.mem 0x100 true))
    ∧ b.prefetches e oCache = true
    ∧ b.l1Find m false 8 = none ∧ b.l1CanFill m false 8 = true ∧ b.l1Find m true 8 = none ∧ b.l1CanFill m true 8 = true
    ∧ ((next (.prefd 0 oCache) c).l1Find ((next (.prefd 0 oCache) c).mctx 0 e.x) false 8).isSome = true := by decide +kernel

/-- A cache operation on tight memory. -/
def oTight : CacheArg := ⟨2, 1⟩

theorem wit_cache_tight : let c := inWin true (fun p => { p with arch := { arch with st := 2, w := [(4, 0x100)] } })
    let e := env c
    let b := (c.atCode 0).emitLanded e
    c.Ready 0 e false ∧ (∀ fn ∈ [CacheFn.prefd, .prefi, .pref2, .dlock, .ilock], (c.atCode 0).Clear e .b (.cache fn oTight))
    ∧ (∀ fn ∈ [CacheFn.dlock, .ilock],
      (b.check 0 e.p e.x e.done (cacheWant e.a fn oTight)).toOption = some (.tight 0x100))
    ∧ b.prefetches e oTight = false ∧ (next (.dlock 0 oTight) c).fld 0x020 0x300 3 0 = 10 := by decide +kernel

theorem wit_tlb_lands : ∀ w ∈ ([.tlbw 5 { world := true }, .tlbi 1 false 3 0] : List LWrite),
    let c := inWin true (fun p => { p with fly := [⟨1, 0, 0, w⟩] })
    c.Alone 0 (env c) ∧ (env c).p.ticks = true ∧ (env c).p.stores = [] ∧ (env c).p.fly = [⟨1, 0, 0, w⟩]
    ∧ 1 ≤ (env c).p.cycle ∧ ((next (.resultLanding 0) c).pipe 0).fly = [] := by decide +kernel

theorem wit_barrier : legalNow (env (inWin true)) .b (.mbar 15) ∧ legalNow (env monitor) .b (.pflush 1)
    ∧ legalNow (env monitor) .b .pbar ∧ (inWin true).env? 0 = some (env (inWin true))
    ∧ tget 0 ((next (.mbar 0 15) (inWin true)).pipe 0).occ ExecUnit.control.key = 5 := by decide +kernel

theorem wit_fetch_ahead : let c := coded [(16, 0)] (fun p => { p with fapc := some 8 })
    let e := env c
    c.Alone 0 e ∧ e.x.open_ = true ∧ e.p.closing = false ∧ e.p.run = .run ∧ e.p.arch.crab = false ∧ e.p.faStop = false
    ∧ e.p.fab.length < 4 ∧ e.p.inFab e.p.faStart.1 = false ∧ (c.fetchCheck e.p e.x 8).toOption = some (8, false)
    ∧ (c.peekLine (c.mctx 0 e.x) 0).isSome = true ∧ ((next (.fetchAhead 0) c).pipe 0).fab.length = 1 := by decide +kernel
/-- The words of a bundle: W9 := W4 + W5 with flags, X10 := X6 + 7, W12 := W4 × W5. -/
def words1 : List Nat :=
  [0x0520, 0x0491, 0x9007, 0x08A1, 0x0500, 0x04C1, 0, 0]

/-- The operations those words encode, by R92, R93, R97, R98 and R110. -/
def opA : AluOp := ⟨.word, true, .add, 9, 4, 5⟩
/-- Slot B. -/
def opB : ImmOp := ⟨.addi, .pair, 10, 6, 7⟩
/-- Slot M. -/
def opM : MulOp := ⟨.mul, .word, 12, 4, 5⟩

/-- A chip whose core 0 is about to issue those words. -/
def bundleChip (ws : List Nat) : Chip := coded (writeL [] 0 (ws.map (BitVec.ofNat 16)))

theorem wit_bundle : let c := bundleChip words1
    let w : Oct := BitVec.ofNat 128 (ofWords (words1.map (BitVec.ofNat 16)))
    c.Ready 0 (env c) true ∧ (env c).Straight ∧ (env c).a.crab = false ∧ (c.atCode 0).fetch (env c) (env c).pc = .words w
    ∧ splitOps w none = ([], [(.a, .alu opA), (.b, .imm opB), (.m, .mul opM), (.l, .nop)])
    ∧ opConflict (env c) .a (.alu opA) = false ∧ opConflict (env c) .b (.imm opB) = false
    ∧ opConflict (env c) .m (.mul opM) = false ∧ opLegal .a (.alu opA) = true ∧ opLegal .b (.imm opB) = true
    ∧ opLegal .m (.mul opM) = true ∧ (c.atCode 0).armed (0x020 + (env c).pi) = none ∧ ((next (.bundleIssue 0) c).pipe 0).issued = true
    ∧ ((next (.resultLanding 0) (next (.bundleIssue 0) c)).pipe 0).arch.rw 9 = 0x120 := by decide +kernel

/-- A bundle whose slot A holds an unassigned major. -/
def words2 : List Nat := [0, 0x2C00, 0, 0, 0, 0, 0, 0]

theorem wit_bundle_cause : let c := bundleChip words2
    let w : Oct := BitVec.ofNat 128 (ofWords (words2.map (BitVec.ofNat 16)))
    let r := plainRaise .illegal .a
    let v := { env c with fetched := true }
    let ops := (splitOps w none).2
    c.Ready 0 (env c) true ∧ (env c).Straight ∧ (env c).a.crab = false ∧ (c.atCode 0).fetch (env c) (env c).pc = .words w
    ∧ splitOps w none = ([r], [(.b, .nop), (.m, .nop), (.l, .nop)])
    ∧ hasEret ops = false ∧ firstCause ([r] ++ ops.flatMap (fun q => (c.atCode 0).opCauses v ops q.1 q.2)) = some r
    ∧ ((c.atCode 0).firstOf v [r] ops).map (fun q => (q.2, (q.1.pipe 0).arch.crab)) = some (r, false)
    ∧ r.cause.rank < (c.atCode 0).waitRank v ops ∧ (c.atCode 0).armed (0x020 + (env c).pi) = none
    ∧ (env c).x.open_ = true ∧ ((next (.bundleIssue 0) c).pipe 0).pend = some r := by decide +kernel

/-- A bundle of an ERET. -/
def words3 : List Nat := [0, 0, 0, 0x6480, 0, 0, 0, 0]

/-- Its stack pointer is no multiple of 4: the ERET's own read raises the cause (R95, R179, R186). -/
theorem wit_bundle_eret :
    let c := coded (writeL [] 0 (words3.map (BitVec.ofNat 16)))
        (fun p => { p with arch := { p.arch with w := [(62, 0x202)] } })
    let w : Oct := BitVec.ofNat 128 (ofWords (words3.map (BitVec.ofNat 16)))
    let v := { env c with fetched := true }
    let ops := (splitOps w none).2
    c.Ready 0 (env c) true ∧ (env c).Straight ∧ (c.atCode 0).fetch (env c) (env c).pc = .words w
    ∧ (c.atCode 0).armed (0x020 + (env c).pi) = none ∧ (splitOps w none).1 = [] ∧ hasEret ops = true
    ∧ ((c.atCode 0).firstOf v [] ops).map (fun q => (q.2.cause, (q.1.pipe 0).arch.crab)) = some (.align, false)
    ∧ Cause.align.rank < (c.atCode 0).waitRank v ops ∧ ((next (.bundleIssue 0) c).pipe 0).pend.isSome = true := by decide +kernel

theorem wit_landing : let c := inWin true (fun p => { p with fly := [⟨1, 1, 0, .w 9 7⟩, ⟨2, 1, 0, .w 10 8⟩] })
    c.Alone 0 (env c) ∧ (env c).p.ticks = true ∧ (env c).p.stores = [] ∧ (env c).p.far = []
    ∧ ((next (.resultLanding 0) c).pipe 0).arch.rw 9 = 7 ∧ ((next (.resultLanding 0) c).pipe 0).arch.rw 10 = 0
    ∧ ((next (.resultLanding 0) c).pipe 0).cycle = 2 := by decide +kernel

theorem wit_fill : let c := inWin true (fun p => { p with stall := some (.ifetch 8 0x100) })
    let m := c.mctx 0 (env c).x
    c.Alone 0 (env c) ∧ (env c).p.stall = some (.ifetch 8 0x100) ∧ (c.fetchCheck (env c).p (env c).x 0x100).toOption = some (0x100, false)
    ∧ c.armed 0x010 = none ∧ c.trStream = false ∧ c.l1Find m true 8 = none
    ∧ c.l1CanFill m true 8 = true ∧ (c.lineFetch m 8).2.2 = 0 ∧ ((next (.fillArrival 0 9) c).pipe 0).stall = none := by
  decide +kernel

theorem wit_store : let w : PStore := ⟨1, .tight 0xFFF8, 8, 0xABCD, none⟩
    let c := inWin true (fun p => { p with stores := [w] })
    c.Alone 0 (env c) ∧ (env c).p.ticks = true ∧ (env c).p.fly = [] ∧ (env c).p.far = [] ∧ (env c).p.stores = [w] ∧ c.trStream = false
    ∧ (c.eight 0).move = none ∧ readN (next (.resultLanding 0) c).mem (c.tmAddr 0 0xFFF8) 8 = 0xABCD := by decide +kernel

/-! ### Windows, strokes and plans -/

/-- The chip with the plan in its other bank too, in a state. -/
def twoPlans (b : BankSt) : Chip := { chip with bankB := { st := b, plan := some plan }, web := { st := .run } }

theorem wit_catch : chip.livePlan = some plan ∧ chip.strokeOn = true ∧ chip.armedAt = none
    ∧ (next (.catchInstant none) chip).stroke = 1 ∧ (next (.catchInstant none) chip).catchAt = 1000000 := by decide +kernel

theorem wit_switch : let c := { twoPlans .armed with armedAt := some 1000000, committed := true }
    c.livePlan = some plan ∧ c.strokeOn = true ∧ c.armedAt = some c.nextCatch ∧ c.committed = true
    ∧ c.altBank.plan = some plan ∧ (next (.catchInstant none) c).liveB = true := by decide +kernel

theorem wit_commit : let c := fun paired : Bool => { twoPlans .armed with
      bankB := { st := .armed, plan := some { plan with paired := paired } }, armedAt := some 2000000 }
    (∀ b, (c b).livePlan = some plan ∧ (c b).strokeOn = true ∧ (c b).strokeNs ≠ 0
      ∧ (c b).armedAt = some ((c b).nextCatch + (c b).strokeNs) ∧ (c b).committed = false
      ∧ (c b).altBank.plan = some { plan with paired := b } ∧ (c b).planGo { plan with paired := b } = !b)
    ∧ (next (.catchInstant none) (c false)).committed = true ∧ (next (.catchInstant none) (c true)).armedAt = none := by decide +kernel

theorem wit_first_catch : let c : Chip := { bankA := { st := .armed, plan := some plan }, armedAt := some 5000000
                                            power := { st := .startup, releasing := true } }
    c.isLive = false ∧ c.altBank.plan = some plan ∧ c.altBank.st = .armed ∧ c.power.releasing = true := by decide +kernel

/-- What WINDOW_START asks of a window of core 0, with its entry and its context. -/
abbrev starts (c : Chip) (i : Nat) (w : WinE) (q : CtxE) : Prop :=
  c.livePlan = some plan ∧ (plan.winsOf 0)[i]? = some w ∧ (plan.ctxsOf 0)[w.ctx]? = some q ∧ c.strokeOn = true
  ∧ c.inSwing 0 = false ∧ runsIn w.divm1 w.phase c.stroke = true ∧ c.pipeOf 0 = some 0 ∧ (c.pipe 0).ctx = none
  ∧ (c.part q.part).st = .run ∧ (c.part q.part).skipOn.contains (0, i) = false ∧ (c.world (plan.worldOf w.party)).st = .run
  ∧ (c.eight 0).pwr = .on ∧ (c.eight 0).stuck.contains 0 = false ∧ (c.pipe 0).run ≠ .mismatched
  ∧ (q.open_ = true → (c.savedCtx 0 w.ctx).damaged = false ∧ c.regionHeld 0 q = false)

theorem wit_window_start : let c := twoPlans .empty
    starts c 0 { start := 100, length := 50, open_ := true, party := 5 } ctxO
    ∧ starts c 1 { start := 200, length := 50, ctx := 1, party := 5 } ctxT
    ∧ ((next (.windowStart 0 1) c).pipe 0).arch.pc = 0x40 ∧ ((next (.windowStart 0 1) c).pipe 0).arch.rw 62 = 0x80 := by decide +kernel

/-- The chip with the context of the open window saved, its words in its area. -/
def savedOpen : Chip :=
  let c := (twoPlans .empty).setSaved 0 0 { have_ := true, fresh := false, arch := arch }
  { c with mem := writeL [] tightBase (archWords arch) }

theorem wit_window_restored : starts savedOpen 0 { start := 100, length := 50, open_ := true, party := 5 } ctxO
    ∧ (savedOpen.savedCtx 0 0).have_ = true ∧ (savedOpen.savedCtx 0 0).fresh = false ∧ (savedOpen.pipe 0).far = []
    ∧ savedOpen.areaWords 0 ctxO.area areaState = archWords (savedOpen.savedCtx 0 0).arch := by
  have h : (archWords arch).length = areaState := by simp [archWords]
  refine ⟨by decide +kernel, by decide +kernel, by decide +kernel, by decide +kernel, ?_⟩
  have ha : (savedOpen.savedCtx 0 0).arch = arch := by decide +kernel
  have ht : savedOpen.tmAddr 0 ctxO.area = tightBase := by decide +kernel
  have hm : savedOpen.mem = writeL [] tightBase (archWords arch) := by simp only [savedOpen]
  rw [ha, Chip.areaWords, Chip.tightRead, ht, hm, ← h, readN_writeL, toWords_ofWords]

theorem wit_close : let timed := fun r : RunState => inWin false (fun p => { p with run := r })
    let off := fun cl : Bool => inWin true (fun p => { p with closing := cl, arch := { p.arch with rep := some ⟨false, 2⟩ } })
    (∀ r ∈ [RunState.run, .ended, .faulted 0x19 0x40], (timed r).Alone 0 (env (timed r)) ∧ (env (timed r)).p.run = r
      ∧ (env (timed r)).p.far = [] ∧ (env (timed r)).p.stores = [] ∧ (env (timed r)).p.fly = [])
    ∧ (inWin true).Alone 0 (env (inWin true)) ∧ (env (inWin true)).p.atBoundary = true ∧ (env (inWin true)).p.run = .run
    ∧ (∀ cl, (off cl).Alone 0 (env (off cl)) ∧ (env (off cl)).p.atBoundary = false ∧ (env (off cl)).p.closing = cl)
    ∧ (next (.closingInstant 0) (timed .run)).fld 0x010 0x106 31 16 = 1
    ∧ (next (.closingInstant 0) (timed (.faulted 0x19 0x40))).live 0x010 0x204 = 0x40
    ∧ (next (.closingInstant 0) (timed .ended)).fld 0x010 0x106 31 16 = 0
    ∧ ((next (.closingInstant 0) (off false)).pipe 0).closing = true
    ∧ ((next (.nistall 0) (off true)).savedCtx 0 0).damaged = true := by decide +kernel

/-! ### Commands that a role signs -/

/-- The credentials of the tests: an installer in slot 0, and the maker. -/
def creds : Roles :=
  let x := 0xcb55d2b49f76cd4a287d033e11837e64dd0a816a44d69486a1a8b445863b4f2a9ac544881ac7e636b787bcc4f7b28405
  let y := 0xd79f0b774cb0b6e862c596a5d9f00daf2681a549d2b4de79a0afb8b72205620e4a910c01db0fe55730644442c48e0d30
  { creds := [(0, ⟨2, 0x11, x, y, 0⟩)], maker := ⟨3, 0x33, x, y, 0⟩ }

/-- A request of party 5 with a signature. -/
def req (s : BitVec 384) (key : Pair := 0x11) : Req := ⟨5, 0, 0x1001, key, 1, 0x7ae9e1db1160794c70c1ef071be5191f6c66240f4608fbe8a44ecd36c3ed5db97500f2e4d84e3fb45850fd6f4303302b, s, true⟩

/-- The chip with those credentials. -/
def signChip (c : Chip := chip) : Chip := { c with roles := creds }

/-- The operands of a plan command that names 16 words at QDR word 0x100. -/
def planOps : List Word := toWords 4 0x100 ++ toWords 2 16

theorem wit_plan_load : let q := req 0x350f3a27c01b43daa4dc73c2902993d33f29d0e7e820898df2c8c940a50216121b61fb5b99e1c324c19f196fa1b59834
    let c := { signChip with mem := writeL [] 0x108 [16] }
    let a := c.accepted q 0 0x10 planOps
    c.Authorized q 0x10 planOps installer 0 ∧ a.altSt = .empty ∧ a.populated 0x100 16 = true
    ∧ pairOf (toWords 16 (a.physRead (a.partyKey (some 5)) 0x100 16)) 8 = 16 := by decide +kernel

theorem wit_plan_arm : let q := req 0x59a2eaac19ad2daedb79c29435975c49e783fee31c621537fc211b86adcc327426cacbe742f6b46452f21c7cea72f474
    let c := signChip (twoPlans .admitted)
    let a := c.accepted q 0 0x11 (toWords 4 3000000)
    c.Authorized q 0x11 (toWords 4 3000000) installer 0 ∧ a.altBank.st = .admitted ∧ a.altBank.plan = some plan
    ∧ (a.hand.any fun h => !h.done) = false ∧ a.armFault 3000000 plan.epoch (plan.stroke * 1000) plan.paired = none := by
  decide +kernel

theorem wit_plan_disarm : (signChip { twoPlans .armed with armedAt := some 2000000 }).Authorized (req 0xec7f31a3a9127c250934a8cbabea78c28e32f633ba4ad652c1321bed8d73595cb86690fa1ca731b59c3fb315e688a591) 0x12 [] installer 0
    ∧ (signChip { twoPlans .armed with armedAt := some 2000000 }).altSt = .armed
    ∧ (signChip { twoPlans .armed with armedAt := some 2000000 }).committed = false := by decide +kernel

theorem wit_plan_discard : (signChip (twoPlans .admitted)).Authorized (req 0x17b464b3e04ad71d11ff2e2d2f5b42955d38e395787f39490ae0ff8088843cc74e6f06708e40edd73c17850a988118d1) 0x13 [] installer 0
    ∧ (signChip (twoPlans .admitted)).altSt = .admitted := by decide +kernel

/-! ### Eights -/

/-- The chip with changes to eight 0. -/
def withEight (f : Eight → Eight) : Chip := chip.setEight 0 (f (chip.eight 0))

theorem wit_clearing : let c := withEight (fun x => { x with clrL2 := 0x8001, clrL1 := [(7, 0x80)] })
    (c.eight 0).clrL2.getLsbD 15 = true ∧ (tget 0 (c.eight (7 / 8)).clrL1 (7 % 8)).testBit 7 = true
    ∧ ((next (.clearingComplete (.l2 0 15)) c).eight 0).clrL2 = 1
    ∧ (tget 0 ((next (.clearingComplete (.l1 7 false 3)) c).eight 0).clrL1 7) = 0 := by decide +kernel

theorem wit_power : let down := withEight (fun x => { x with pwr := .down })
    let up := withEight (fun x => { x with pwr := .up })
    (down.eight 0).pwr = .down ∧ (down.eight 0).clrL2 = 0 ∧ (down.eight 0).clrL1 = [] ∧ (up.eight 0).pwr = .up
    ∧ ((next (.eightPowerDown 0) down).eight 0).pwr = .gated ∧ ((next (.eightPowerUpComplete 0) up).eight 0).pwr = .on := by
  decide +kernel

theorem wit_self_test : let c := withEight (fun x => { x with pst := [(8, .test)] })
    tget .service (c.eight (8 / 9)).pst (8 % 9) = .test
    ∧ tget .service ((next (.coreSelfTestComplete 8 false) c).eight 0).pst 8 = .retired
    ∧ (next (.coreSelfTestComplete 8 false) c).power.retired = [8] := by decide +kernel

theorem wit_aging : (chip.eight (0 / 9)).pwr = .on ∧ 79 < chip.fld 0x020 0x020 9 0
    ∧ (next (.agingSample 0 79) chip).fld 0x020 0x102 20 20 = 1 := by decide +kernel

/-- Cores 0 and 8 of a swing pair in a timed window, the second with changes to its pipeline. -/
def swung (f : Pipe → Pipe := id) : Chip :=
  let c := { inWin false with bankA := { st := .live, plan := some { plan with swing := 1 } } }
  c.setPipe 9 (f (pipe false))

theorem wit_lockstep : let c := swung
    c.env? 0 = some (env c) ∧ c.inSwing 0 = true ∧ c.pipeOf 8 = some 9
    ∧ ((next (.lockstepMismatch 0 4 0) c).pipe 0).run = .mismatched
    ∧ ((next (.lockstepMismatch 0 4 0) c).pipe 9).run = .mismatched := by decide +kernel

theorem wit_twins : let c := swung (fun p => { p with fly := [⟨1, 1, 0, .w 9 7⟩] })
    let d := (swung (fun p => { p with fly := [⟨1, 1, 0, .w 9 7⟩] })).setPipe 0 { pipe false with fly := [⟨1, 1, 0, .w 9 7⟩] }
    (∀ x ∈ [c, d], x.env? 0 = some (env x) ∧ x.inSwing 0 = true ∧ x.pipeOf 8 = some 9 ∧ (env x).pi = 0)
    ∧ (c.twinDiff (c.endCycle 0) (c.endCycle 8) 0 0 9).isSome = true
    ∧ d.twinDiff (d.endCycle 0) (d.endCycle 8) 0 0 9 = none
    ∧ ((next (.resultLanding 0) c).pipe 9).run = .mismatched ∧ ((next (.resultLanding 0) d).pipe 9).arch.rw 9 = 7
    ∧ ((next (.resultLanding 8) d).pipe 9).arch.rw 9 = 0 := by decide +kernel

theorem wit_array_move : let c := signChip
    c.Authorized (req 0x91a6c31b9e19dbee7544132ffc4948acf84ea248d68c25d0a7950c2dbe400e7fffd4726e707d8e38542e2d3b80f8bef1) 0x22 [63] installer 0 ∧ (c.eight (63 / 8)).move = none
    ∧ (c.eight (63 / 8)).spareArr = some 8 := by decide +kernel

theorem wit_array_copy : let c := withEight (fun x => { x with move := some ⟨0, 8, false⟩ })
    (c.eight 0).move = some ⟨0, 8, false⟩ ∧ memWf c.mem = true
    ∧ ((next (.arrayCopyComplete 0) c).eight 0).move = some ⟨0, 8, true⟩ := by decide +kernel

theorem wit_core_subst : let c := signChip
    c.Authorized (req 0x6dd746989c5ef8e80c3845b10613677872e70035f4e8cddad3480f1034d1c763834689b338b6737f2afc157ba1dc052b) 0x20 [0] installer 0 ∧ (c.eight 0).spare?.isSome = true ∧ c.opOf 0x20 0 = none := by
  decide +kernel

theorem wit_core_test : let c := signChip (withEight (fun x => { x with pst := [(8, .spare), (7, .retired)] }))
    c.Authorized (req 0x6a7c6e4e783fe79c3bc7c38549e787eb08646467981580fe8ee144f74718910d0424224b335eb2a96dc02ace630084ff) 0x21 [8] installer 0 ∧ tget .service (c.eight (8 / 9)).pst (8 % 9) = .spare
    ∧ c.Authorized (req 0x113497c444e68c108befee8ff61d2c4a2b5e98e83ca097b32d9c1e7f7aae35b013bea8d867ae3aae1039690f6021d033) 0x21 [7] installer 0 ∧ tget .service (c.eight (7 / 9)).pst (7 % 9) = .retired := by
  decide +kernel

/-! ### The event hub -/

/-- The chip with a hub. -/
def hubChip (h : Hub) : Chip := { inWin true with hub := h }

/-- Source 3 of party 5, enabled, for core 0. -/
def srcOn : Hub := { ena := 8, pend := 8, cfg := [(3, ⟨0x20, 0, 127⟩)] }

theorem wit_occurrence : (next (.eventOccurrence 0x32E) (hubChip { ena := 2 ^ 0x32E })).hub.pend = 2 ^ 0x32E
    ∧ (next (.eventOccurrence 3) (hubChip {})).hub.pend = 0 := by decide +kernel

theorem wit_evaluation : (hubChip srcOn).hub.ntDue = [] ∧ (hubChip srcOn).cands 0 ≠ [] := by decide +kernel

theorem wit_moderation : let c := hubChip { srcOn with slices := [(0, { timer := some 0 })] }
    (c.hub.slice 0).timer.isSome = true ∧ ((next (.moderationTimerExpiry 0) c).hub.slice 0).released = true := by
  decide +kernel

/-- The requester of core 0 in the window of the tests. -/
def r0 : Requester := ((inWin true).requester 0).getD launchRq

/-- The launch controller. -/
def rL : Requester := ((inWin true).requester 64).getD launchRq

theorem wit_iack : let c := hubChip srcOn
    c.Reaches 0 0x070 0x100 r0 ∧ c.bestCand 0 = some 3 ∧ (c.hub.slice 0).stack.length < 32
    ∧ (next (.iack 0) c).reply = 3 + 0x20 * 2 ^ 10 ∧ (next (.iack 0) c).hub.act = 8
    ∧ (hubChip { srcOn with slices := [(0, { stack := List.replicate 31 ⟨9, 0, false⟩ })] }).Reaches 0 0x070 0x100 r0 := by
  decide +kernel

theorem wit_ieoi : let c := hubChip { srcOn with act := 8, slices := [(0, { stack := [⟨3, 0x20, false⟩] })] }
    c.Reaches 0 0x070 0x102 r0 ∧ bits (3 : Pair).toNat 9 0 = 3 ∧ (c.hub.slice 0).stack = [⟨3, 0x20, false⟩]
    ∧ (next (.ieoi 0 3) c).hub.act = 0 ∧ ((next (.ieoi 0 3) c).hub.slice 0).stack = [] := by decide +kernel

theorem wit_cfgw : let c := hubChip {}
    let x : Pair := 3 + 0x20 * 2 ^ 10 + 127 * 2 ^ 25
    c.Reaches 0 0x070 0x10E r0 ∧ c.ownsSrc r0 3 = true ∧ partyTarget 0 = true ∧ partyTarget 127 = true
    ∧ c.Reaches 64 0x070 0x10E rL ∧ c.ownsSrc r0 0x32F = false ∧ tget {} (next (.cfgw 0 x) c).hub.cfg 3 = ⟨0x20, 0, 127⟩
    ∧ ((next (.cfgw 0 0x32F) c).hub.pst 0).testBit 0 = true := by decide +kernel

theorem wit_swset : let c := hubChip { ena := 2 ^ 0x7F }
    c.Reaches 0 0x070 0x10C r0 ∧ c.ownsSrc r0 0x7F = true ∧ c.ownsSrc r0 0x80 = true
    ∧ (next (.swset 0 0x7F) c).hub.pend = 2 ^ 0x7F ∧ (next (.swset 0 0x80) c).hub.pend = 0 := by decide +kernel

theorem wit_group : let c := hubChip { ena := 2 ^ 31 }
    c.Reaches 0 (GroupAt.page ⟨false, .pend, 0⟩) (GroupAt.off ⟨false, .pend, 0⟩) r0
    ∧ c.Reaches 64 (GroupAt.page ⟨true, .mask, 31⟩) (GroupAt.off ⟨true, .mask, 31⟩) rL
    ∧ (next (.groupWrite 64 ⟨true, .mask, 0⟩ 0xFFFF_FFFF) c).hub.mask ≠ 0 := by decide +kernel

/-! ### Rings and lanes -/

/-- A flit of party 5 from core 0 to QDR0: a far operation or an access. -/
def flitArg (guar : Bool) : FlitArg := ⟨.unit 0, 8, if guar then .farOp else .access, 5, 9, 0xABC⟩

/-- That flit. -/
def flit (guar : Bool) : Flit := chip.flitOf (flitArg guar)

/-- Its flight on ring 0, eight hops, with what the destination has said of it. -/
def flight (guar : Bool) (taken : Option Bool) : Flight := ⟨0, 50, 8, flit guar, taken⟩

/-- A response from QDR0 to core 0 in flight on ring 3. -/
def response : Flight := ⟨3, 50, 8, chip.flitOf ⟨.block 8, 0, .reply false, 5, 9, 0xABC⟩, none⟩

/-- The chip with flights, held flits and the next sequence number expected. -/
def ringChip (fs : List Flight) (held : Nat) (seq : Nat) (late : List (Nat × Nat × Nat) := []) : Chip :=
  { chip with rings := { flights := fs, seqs := [(seqKey (flit false), seq)], late := late
                         inbound := [(inKey 0 8 0, List.replicate held ⟨80, flit true⟩)] } }

theorem wit_arrival : let k := inKey 0 8 0
    let held := fun c : Chip => heldInbound (tget [] c.rings.inbound k) 70
    let go := fun (c : Chip) (e : FlitErr) => next (.flitArrival 0 0 50 e) c
    (ringChip [flight true none] 16 0).flightOf 0 0 50 = some (flight true none)
    ∧ (ringChip [flight false none] 7 0).flightOf 0 0 50 = some (flight false none) ∧ (flight false none).flit.vn = 0
    ∧ (held (ringChip [flight false none] 7 0)).length = 7
    ∧ (held (go (ringChip [flight false none] 7 0) .none)).length = 8
    ∧ (held (ringChip [flight false none] 8 0)).length = 8
    ∧ (go (ringChip [flight false none] 8 0) .none).rings.flights = [flight false (some false)]
    ∧ (go (ringChip [flight false none] 0 1) .none).rings.flights = [flight false (some false)]
    ∧ (go (ringChip [flight false none] 0 0) .header).fld 0x080 0x102 23 16 = 1
    ∧ (held (go (ringChip [flight true none] 0 0) (.data (.other (.block 20))))).map (fun q => q.flit.poison) = [true]
    ∧ (ringChip [flight true none] 0 0).inQdr ((0x103 : BitVec 36).toNat / 8 * 8) = true
    ∧ (go (ringChip [flight true none] 0 0) (.data (.other (.block 20)) (some 0x103))).quadErr 0x40 = true := by
  decide +kernel

theorem wit_late : let c := ringChip [response] 0 0 [(0, 8, 9)]
    c.flightOf 3 8 50 = some response ∧ response.flit.vn = 1 ∧ (0, 8, 9) ∈ c.rings.late
    ∧ (next (.flitArrival 3 8 50 .none) c).rings.late = [(0, 8, 9)]
    ∧ (next (.flitArrival 3 8 50 .none) c).rings.inbound = c.rings.inbound := by decide +kernel

theorem wit_mark : (ringChip [flight true (some true)] 0 0).flightOf 0 0 50 = some (flight true (some true))
    ∧ (next (.acceptanceMark 0 0 50) (ringChip [flight true (some true)] 0 0)).rings.flights = []
    ∧ (ringChip [flight false (some false)] 0 0).flightOf 0 0 50 = some (flight false (some false))
    ∧ (next (.acceptanceMark 0 0 50) (ringChip [flight false (some false)] 0 0)).rings.resend.length = 1 := by decide +kernel

/-- The plan with a seat on ring 0. -/
def seatPlan : Plan := { plan with seats := [(0, [⟨0, 8, 0, 5, true⟩])] }

/-- The chip that runs it. -/
def seatChip (now : Nat := 0) : Chip := { chip with bankA := { st := .live, plan := some seatPlan }, catchAt := now }

theorem wit_placement : let g := flitArg true
    let f := flitArg false
    g.legal = true ∧ f.legal = true ∧ g.agent.stop = 0 ∧ f.agent.stop = 0 ∧ seatChip.rings.resend = [] ∧ seatChip.rings.waiting = []
    ∧ seatChip.routeOf (flit true) = 0 ∧ chip.routeOf (flit false) = 0 ∧ seatChip.retained 0 0 0 = 0
    ∧ seatChip.seatAt 0 0 = some ⟨0, 8, 0, 5, true⟩ ∧ seatChip.seatsOpen 0 = true ∧ seatChip.seatAt 0 1 = none
    ∧ (next (.flitPlacement 0 0 ⟨0, some g⟩) seatChip).rings.flights.length = 1
    ∧ (next (.flitPlacement 0 1 ⟨0, some g⟩) seatChip).rings.waiting = [(0, flit true)]
    ∧ (chip.rings.flights.any fun q => q.atStop 0 0 9) = false ∧ chip.hitsSeat 0 0 9 8 = false
    ∧ (next (.flitPlacement 0 9 ⟨0, some f⟩) chip).rings.flights.length = 1 := by decide +kernel

/-- A management flit, and an access of another stop's number of hops, both waiting at the system stop for ring 2. -/
def queued : Chip :=
  let f : Flit := { flit false with src := 20, vn := 3 }
  { chip with rings := { waiting := [(2, { f with vn := 0 }), (2, f)] } }

theorem wit_queue : let f : Flit := { flit false with src := 20, vn := 3 }
    queued.rings.resend = [] ∧ queued.rings.waiting = [(2, { f with vn := 0 }), (2, f)] ∧ f.guar = false
    ∧ (queued.rings.flights.any fun q => q.atStop 2 20 9) = false ∧ queued.retained 2 20 3 < 46
    ∧ queued.hitsSeat 2 20 9 (hopCount 2 20 8) = false
    ∧ (next (.flitPlacement 2 9 ⟨20, none⟩) queued).rings.waiting = [(2, { f with vn := 0 })] := by decide +kernel

theorem wit_timeout : let c := inWin true (fun p => { p with stall := some (.ifetch 8 0x100) })
    chip.fld (0x080 + 3) 0x104 20 20 = 0
    ∧ (next (.responseTimeout ⟨3, 20, 63, 0, .other (.block 3)⟩) chip).fld 0x083 0x104 20 19 = 3
    ∧ c.Alone 0 (env c) ∧ (env c).p.stall = some (.ifetch 8 0x100) ∧ (env c).x.open_ = true ∧ (env c).a.crab = false
    ∧ ((next (.responseTimeout ⟨0, 8, 5, 0, .core 0 9⟩) c).pipe 0).pend = some (fetchRaise .ifbus 0x100) := by decide +kernel

/-- The chip with lanes and memory, seen from core 0 in its window. -/
def laneChip (ls : List (Nat × Lane)) (mem : List Host.Cell := []) : Chip := { inWin true with lane := { lanes := ls }, mem := mem }

/-- A lane of 16 descriptors at QDR word 4096 × `base` with LINK. -/
def laneOf (base : Nat) (st : LaneRun) (pidx cidx : Nat) (link : Nat := 0x400) : Lane :=
  { cfg := base, aCfg := base, link := link, aLink := link, st := st, en := st == .run, pidx := pidx, cidx := cidx }

theorem wit_lstat : let c := laneChip [(8191, laneOf 1 .stopped 0 0 0)]
    let pg := 0x100 + 8191 / 256
    let off := 8191 % 256 * 8
    c.Reaches 0 pg (off + 6) r0 ∧ bitN (0x81 : Pair).toNat 0 = true ∧ bitN (0x80 : Pair).toNat 0 = false
    ∧ (c.ln 8191).st = .stopped ∧ bitN (c.ln 8191).link 10 = false
    ∧ c.ownsRange (c.laneOwner 8191) (bits (c.ln 8191).cfg 23 0 * 4096) (2 ^ laneLog (c.ln 8191).cfg * 8) = true
    ∧ c.lanePinned 8191 = false ∧ ((next (.lstatWrite 0 8191 0x81) c).ln 8191).st = .run
    ∧ c.lane.copies = []
    ∧ ((next (.lstatWrite 0 8191 0x80) (next (.lstatWrite 0 8191 0x81) c)).ln 8191).st = .stopped := by decide +kernel

/-- The plan that binds lane 1 to lane 2, command lane 3 to lane 4, and pins lane 5 of field port 31. -/
def connPlan : Plan :=
  { plan with conns := [⟨0, 1, 2, 0, 0, 0⟩, ⟨1, 3, 4, 0, 0, 0⟩, ⟨2, 5, 0, 0, 0, 0⟩, ⟨3, 5, 0, 1, 31, 0⟩] }

/-- The chip that runs it, with lanes. -/
def connChip (ls : List (Nat × Lane)) (mem : List Host.Cell := []) : Chip :=
  { laneChip ls mem with bankA := { st := .live, plan := some connPlan } }

theorem wit_doorbell : let c := connChip [(1, laneOf 1 .run 0 0), (6, laneOf 1 .run 0 0)]
    c.Reaches 0 0x100 12 r0 ∧ (c.ln 1).st ≠ .error ∧ laneLog (c.ln 1).acting = 4 ∧ c.laneBound 1 = true
    ∧ c.Reaches 0 0x100 52 r0 ∧ c.laneBound 6 = false ∧ c.lanePinned 6 = false
    ∧ ((next (.doorbell 0 1 16) c).ln 1).st = .run ∧ ((next (.doorbell 0 1 17) c).ln 1).err = 3
    ∧ ((next (.doorbell 0 6 16) c).ln 6).err = 4 := by decide +kernel

theorem wit_lnrd : let x : Lane := { laneOf 1 .run 0 0 with note := true }
    let c := laneChip [(2, laneOf 1 .run 0 0), (7, x)]
    c.Reaches 0 0x090 0x182 r0 ∧ (next (.lnrd 0) c).reply = 2 ^ 31 + 7
    ∧ c.lane.lanes.find? (fun q : Nat × Lane =>
        q.2.note && c.laneOwner q.1 == r0.party && bits q.2.aLink 9 0 == bits (c.lnsel r0) 9 0) = some (7, x)
    ∧ ((next (.lnrd 0) c).ln 7).note = false ∧ (next (.lnrd 0) (laneChip [])).reply = 0
    ∧ (laneChip []).Reaches 0 0x090 0x182 r0 := by decide +kernel

/-- Memory with the descriptor of lane 1 at 0x1000 (4 words from 0x3000, tag 0x55), of lane 2 at 0x2000 (3 words to
0x3100), and data. -/
def msgMem : List Host.Cell :=
  writeL (writeL (writeL [] 0x1000 (toWords 8 (4 + 2 ^ 16 + 0x3000 * 2 ^ 32 + 0x55 * 2 ^ 80))) 0x2000
    (toWords 8 (3 + 0x3100 * 2 ^ 32))) 0x3000 [1, 2, 3, 4]

theorem wit_message : let c := connChip [(1, laneOf 1 .run 1 0), (2, laneOf 2 .run 0 0xFFFF)]
    let c := { c with mem := writeL (writeL msgMem 0x2078 (toWords 8 (3 + 0x3100 * 2 ^ 32))) 0x2000 (toWords 8 0) }
    let a := c.ln 1
    let b := c.ln 2
    (c.conns.any fun k => k.kind == 3 && k.a == 1) = false ∧ c.copyOf 1 = none ∧ c.unitFree = true
    ∧ c.conns.find? (fun k => k.kind == 0 && k.a == 1) = some ⟨0, 1, 2, 0, 0, 0⟩ ∧ a.st = .run ∧ b.st = .run
    ∧ a.waiting ≠ 0 ∧ b.waiting ≠ 0 ∧ c.descFault 1 = none ∧ c.descFault 2 = none
    ∧ descReserved (c.laneDesc 1 0) = false ∧ descReserved (c.laneDesc 2 0xFFFF) = false
    ∧ descLen (c.laneDesc 1 0) = 4 ∧ descLen (c.laneDesc 2 0xFFFF) = 3 ∧ c.ownsRange (c.laneOwner 1) 0x3000 3 = true
    ∧ c.ownsRange (c.laneOwner 2) 0x3100 3 = true ∧ c.physErr 0x3000 3 = false
    ∧ readN (next (.messageCopy 1) c).mem 0x3100 4 = 1 + 2 * 2 ^ 16 + 3 * 2 ^ 32
    ∧ ((next (.messageCopy 1) c).ln 2).cidx = 0 ∧ ((next (.messageCopy 1) c).ln 1).note = true := by decide +kernel

/-- The pinned descriptor of lane 5: eight words at QDR word 0x4000. -/
def pinD : Oct := 8 + 0x4000 * 2 ^ 32

theorem wit_pinned : let c := { connChip [(5, { laneOf 1 .run 1 0 with pin := some pinD })] with
      lane := { lanes := [(5, { laneOf 1 .run 1 0 with pin := some pinD })], inq := [(5, 0xABC)] } }
    takeHanded 5 c.lane.inq = some (0xABC, []) ∧ (c.ln 5).st = .run ∧ (c.ln 5).pin = some pinD ∧ descAddrOf pinD + 8 ≤ qdrEnd
    ∧ readN (next (.pinnedInboundStep 5) c).mem 0x4000 8 = 0xABC
    ∧ c.ownsRange (c.laneOwner 5) (descAddrOf pinD) 8 = true ∧ c.physErr (descAddrOf pinD) 8 = false
    ∧ c.conns.find? (fun k => k.kind == 3 && k.a == 5 && k.dir == 1) = some ⟨3, 5, 0, 1, 31, 0⟩
    ∧ c.portGated (fpPage 31) = false
    ∧ (let d := next (.pinnedInboundStep 5) c
       let d := { d with lane := { d.lane with due := [5] } }
       d.lane.due.contains 5 = true ∧ ((next (.pinnedOutboundStep 5) d).fport 31).outs = [(5, some 0xABC)]
       ∧ (next (.pinnedOutboundStep 5) (d.setLn 5 {})).fld 0x090 0x104 31 0 = 1)
    ∧ (next (.pinnedInboundStep 5) { c with lane := { inq := [(5, 0xABC)] } }).fld 0x090 0x104 31 0 = 1 := by decide +kernel

theorem wit_submission : let c := connChip [(3, laneOf 1 .run 1 0), (4, laneOf 2 .run 0 0)] (writeL [] 0x1000 (toWords 8 (0x20 + 0x5000 * 2 ^ 32)))
    let full : Chip := { c with lane := { c.lane with handles := [(5, { fresh := 4096, freed := [0xFFF], gen := [(0xFFF, 0xE)] })] } }
    c.conns.find? (fun k => k.kind == 1 && k.a == 3) = some ⟨1, 3, 4, 0, 0, 0⟩ ∧ c.laneOwner 3 = some 5 ∧ (c.ln 3).st = .run
    ∧ (c.ln 3).waiting ≠ 0 ∧ c.descFault 3 = none ∧ c.unitFree = true ∧ (c.ln 4).st = .run ∧ (c.handles 5).alloc.isSome = true
    ∧ ((full.handles 5).alloc.map Prod.snd) = some 0xFFF
    ∧ (next (.commandSubmission 3) c).lane.mail = [⟨5, 4, 0, 0x20, 0x5000⟩] := by decide +kernel

theorem wit_record : let r : Rec := ⟨5, 4, 0xFFF, 0x20, 9, [0]⟩
    let c := connChip [(4, laneOf 2 .run 1 0)]
    let c := { c with lane := { c.lane with recs := [r], handles := [(5, { fresh := 4096, out := [0xFFF] })] } }
    c.lane.recs.find? (fun k => k.lane == 4) = some r ∧ c.ownsRange (c.laneOwner 4) ((c.ln 4).descAt 0) 8 = true
    ∧ (c.handles 5).handleAt 0xFFF = 0xFFF ∧ (c.ln 4).st = .run ∧ (c.ln 4).waiting ≠ 0
    ∧ (next (.completionRecord 4) c).lane.recs = [] ∧ ((next (.completionRecord 4) c).handles 5).freed = [0xFFF]
    ∧ readN (next (.completionRecord 4) c).mem 0x2000 2 = 0xFFF + 0x20 * 2 ^ 16 := by decide +kernel


/-- Descriptors of 2,000 words from 0x3000 and to 0x4000. -/
def longMem : List Host.Cell :=
  writeL (writeL [] 0x1000 (toWords 8 (2000 + 0x3000 * 2 ^ 32))) 0x2000 (toWords 8 (2000 + 0x4000 * 2 ^ 32))

/-- The chip with lanes that hold them. -/
def longChip : Chip := connChip [(1, laneOf 1 .run 1 0), (2, laneOf 2 .run 1 0)] longMem

theorem wit_long_copy : let c := longChip
    (c.conns.any fun k => k.kind == 3 && k.a == 1) = false ∧ c.copyOf 1 = none ∧ c.unitFree = true
    ∧ (c.ln 1).waiting ≠ 0 ∧ (c.ln 2).waiting ≠ 0 ∧ c.descFault 1 = none ∧ c.descFault 2 = none
    ∧ descReserved (c.laneDesc 1 0) = false ∧ descReserved (c.laneDesc 2 0) = false
    ∧ c.ownsRange (c.laneOwner 1) 0x3000 2000 = true ∧ c.ownsRange (c.laneOwner 2) 0x4000 2000 = true
    ∧ c.physErr 0x3000 1024 = false ∧ c.unlisted 0x3000 2000 = false ∧ c.unlisted 0x4000 2000 = false := by decide +kernel

theorem wit_abort : let k : Copying := ⟨1, 2, 2000 + 0x3000 * 2 ^ 32, 2000 + 0x4000 * 2 ^ 32, 1024⟩
    let c := { longChip with lane := { longChip.lane with copies := [k] } }
    c.Reaches 0 0x100 14 r0 ∧ c.lane.copies = [k] ∧ (next (.lstatWrite 0 1 0) c).lane.copies = []
    ∧ readN (next (.lstatWrite 0 1 0) c).mem 0x1006 2 = 11 + 1024 * 2 ^ 16
    ∧ c.ownsRange (c.laneOwner 2) ((c.ln 2).descAt 0) 8 = true := by decide +kernel

/-- The same with the receiver's ring outside its party's memory. -/
theorem wit_abort_moved : let k : Copying := ⟨1, 2, 2000 + 0x3000 * 2 ^ 32, 2000 + 0x4000 * 2 ^ 32, 1024⟩
    let c := { connChip [(1, laneOf 1 .run 1 0), (2, laneOf 0xF0_0000 .run 1 0)] longMem with
      lane := { lanes := [(1, laneOf 1 .run 1 0), (2, laneOf 0xF0_0000 .run 1 0)], copies := [k] } }
    c.Reaches 0 0x100 14 r0 ∧ c.lane.copies = [k] ∧ (c.ln 1).st = .run ∧ (c.ln 2).st = .run
    ∧ c.ownsRange (c.laneOwner 1) ((c.ln 1).descAt 0) 8 = true ∧ c.ownsRange (c.laneOwner 2) ((c.ln 2).descAt 0) 8 = false
    ∧ ((next (.lstatWrite 0 1 0) c).ln 2).err = 1 := by decide +kernel

theorem wit_pin_moved : let l := { laneOf 1 .run 1 0 with pin := some (8 + 0x3000_0000 * 2 ^ 32 : Oct) }
    let c := { connChip [] with lane := { lanes := [(5, l)], inq := [(5, 0xABC)] } }
    takeHanded 5 c.lane.inq = some (0xABC, []) ∧ (c.ln 5).st = .run
    ∧ c.ownsRange (c.laneOwner 5) (descAddrOf (8 + 0x3000_0000 * 2 ^ 32 : Oct)) 8 = false
    ∧ ((next (.pinnedInboundStep 5) c).ln 5).err = 1 := by decide +kernel

theorem wit_foreign_record : let r : Rec := ⟨5, 4, 0xFFFF, 0x90, 9, [0]⟩
    let c := connChip [(4, laneOf 2 .run 1 0)]
    let c := { c with lane := { c.lane with recs := [r], handles := [(5, { fresh := 4096, out := [0xFFF] })] } }
    c.lane.recs.find? (fun k => k.lane == 4) = some r ∧ (c.ln 4).st = .run ∧ (c.ln 4).waiting ≠ 0
    ∧ c.ownsRange (c.laneOwner 4) ((c.ln 4).descAt 0) 8 = true
    ∧ (c.handles 5).handleAt (0xFFFF % 4096) ≠ 0xFFFF ∧ ((next (.completionRecord 4) c).handles 5).out = [0xFFF] := by
  decide +kernel

/-! ### External memory -/

/-- A request of party 5 at QDR channel 3, at the top quad or oct. -/
def qreq (oct : Bool) (op : QdrOp) (find : EccFind := .ok) : QdrReq := ⟨3, 0x1FF_FFFF, oct, op, 5, true, false, find, .ok, false⟩

theorem wit_qdr : let a := 4 * 2 ^ 25 - 8
    let w := next (.qdrAccess (qreq true (.write 0x1234))) chip
    (chip.qd 3).st = .live ∧ ((chip.qd 3).port 5 true false false).isSome = true ∧ chip.armed (qdrPage 3) = none
    ∧ chip.inQdr a = true ∧ chip.inQdr (a + 4) = true ∧ chip.inQdr (a + 6) = true ∧ chip.memErr a 8 = false
    ∧ chip.quadErr ((a + 4) / 4) = false ∧ w.mem.length = 2 ∧ (next (.qdrAccess (qreq true .read)) w).reply = 0x1234
    ∧ (next (.qdrAccess (qreq false .read .bad)) w).quadErr ((a + 4) / 4) = true
    ∧ (next (.qdrAccess { qreq true .read with find2 := .bad }) w).quadErr ((a + 4) / 4) = true
    ∧ readN (next (.qdrAccess (qreq true (.casp 0 7))) w).mem (a + 6) 2 = 7
    ∧ (next (.qdrAccess (qreq true (.casp 0 7))) w).reply = 0
    ∧ (next (.qdrAccess (qreq true (.casp 5 7))) w).mem = w.mem := by decide +kernel

theorem wit_qdr_time : let p := { plan with qwins := [(3, [⟨100, 10, 5, 3⟩])] }
    let c := { chip with bankA := { st := .live, plan := some p } }
    let late := { chip with now := 100000000 }
    let scrub := (chip.setLive (qdrPage 3) 0x022 1).setQd 3 { chip.qd 3 with patrol := 2 ^ 23 - 1 }
    c.livePlan = some p ∧ (tget [] p.qwins 3)[0]? = some ⟨100, 10, 5, 3⟩
    ∧ ((next (.qdrWindowStart 3 0) c).qd 3).winA = some ⟨0, 5⟩ ∧ ((next (.qdrWindowStart 3 0) c).qd 3).winB = some ⟨0, 5⟩
    ∧ ((next (.qdrWindowEnd ⟨3, 0⟩) (next (.qdrWindowStart 3 0) c)).qd 3).winA = none
    ∧ ((next (.qdrWindowStart 3 0) c).qd 3).idle = false ∧ (late.qd 3).idle = true ∧ late.calAge 3 = 100 ∧ late.qdrFree 3 = true
    ∧ (next (.qdrRecalibration 3) late).calAge 3 = 0 ∧ chip.calAge 3 < 100
    ∧ (scrub.qd 3).st = .live ∧ ((scrub.qd 3).port 64 false false false).isSome = true ∧ scrub.fld (qdrPage 3) 0x022 0 0 ≠ 0
    ∧ scrub.armed (qdrPage 3) = none ∧ scrub.quadErr (3 * 2 ^ 23 + (2 ^ 23 - 1)) = false
    ∧ ((next (.qdrPatrolScrub 3 .corrected) scrub).qd 3).patrol = 0
    ∧ (next (.qdrPatrolScrub 3 .corrected) scrub).fld (qdrPage 3) 0x102 15 0 = 1 := by decide +kernel

/-- The least address of LPDDR, as a command names it. -/
def lpdA : BitVec 36 := BitVec.ofNat 36 lpdBase

theorem wit_lpddr_read : let r : LpdRead := ⟨.unit 0, some 5, lpdA, .ok, false, .ok, false⟩
    chip.inLpd r.addr.toNat = true ∧ chip.lpdPick r.agent.code = some 0
    ∧ chip.armed (lpdPage 0) = none ∧ (List.range 8).all (fun i => !(chip.lp 0).isPoison (lpdBase / 32 * 8 + i)
        && !tget false (chip.lp 0).bad (lpdBase / 32 * 8 + i)) = true
    ∧ (List.range 8).all (fun i => !(chip.lp 1).isPoison (lpdBase / 32 * 8 + i)
        && !tget false (chip.lp 1).bad (lpdBase / 32 * 8 + i)) = true
    ∧ (chip.lp 0).st = .live ∧ (chip.lp 1).st = .live ∧ (chip.lp 0).reads = []
    ∧ ((next (.lpddrRead { r with waits := true }) chip).lp 0).reads.length = 1
    ∧ ((next (.lpddrRead { r with find := .bad 1 }) chip).lp 0).st = .frozen := by decide +kernel

theorem wit_lpddr_write : let r : LpdWrite := ⟨.unit 0, some 5, BitVec.ofNat 36 (lpdBase + 9), .pair, 0x1_0002_0003, .ok, .ok⟩
    let chip := { chip with ext := { chip.ext with enc := [(lpdBase / 8 + 1, chip.partyKey (some 5))] } }
    let c := chip.setLp 1 { chip.lp 1 with st := .frozen }
    chip.inLpd r.addr.toNat = true ∧ (∀ k, k < 2 → (chip.lp k).takesWrite (addrChan (lpdBase + 8)) = true
      ∧ (c.lp k).takesWrite (addrChan (lpdBase + 8)) = true) ∧ (chip.lp 0).st = .live ∧ (c.lp 1).st = .frozen
    ∧ (next (.lpddrWrite r) chip).rdN (chip.partyKey (some 5)) (lpdBase + 8) 2 = 0x2_0003
    ∧ (4 : BitVec 8).getLsbD ((lpdBase + 8) / 4 % 8) = true
    ∧ ((next (.lpddrWrite { r with find0 := .bad 4 }) chip).lp 0).isPoison ((lpdBase + 8) / 4) = true
    ∧ (next (.lpddrWrite r) c).fld (lpdPage 1) 0x10C 31 0 = 1 := by decide +kernel

theorem wit_lpddr_keep : let c := (chip.setLp 1 { chip.lp 1 with st := .frozen, patrol := chip.lpdLines - 1 }).setLive (lpdPage 0) 0x028 8
    let s := c.setLp 0 { c.lp 0 with patrol := chip.lpdLines - 1 }
    c.fld (lpdPage 0) 0x100 6 5 = 0 ∧ (next (.mr4Reading 0 4) c).fld (lpdPage 0) 0x100 6 5 = 1
    ∧ (next (.mr4Reading 0 7) c).fld (lpdPage 0) 0x100 6 5 = 2 ∧ (c.lp 1).st = .frozen
    ∧ (s.lp 0).st = .live ∧ s.fld (lpdPage 0) 0x028 3 3 ≠ 0 ∧ s.armed (lpdPage 0) = none ∧ (s.lp (1 - 0)).st ≠ .live
    ∧ ((next (.lpddrPatrolScrub 0 (.bad 0x80)) s).lp 0).patrol = 0 := by decide +kernel

theorem wit_mem_commands : let f := signChip (chip.setLp 1 { chip.lp 1 with st := .frozen })
    let at_ := fun s : LpdSt => (chip.setLp 1 { chip.lp 1 with st := s }).setLp 0 { chip.lp 0 with poison := [(lpdBase / 4, true)] }
    let y := at_ .sync
    f.Authorized (req 0x377f2b6884a316f0f8132eb0f2cf1ba5513efdd571ac7b8157224a5e7cf2da02a101061f33246203794719b45e7d4754) 0x30 [1] installer 0 ∧ f.opOf 0x31 1 = none ∧ (f.lp 1).st = .frozen
    ∧ f.Authorized (req 0xc5b870db8dce44468789b48e67ee686f931bfabf347ea2ef14915fae7214d1f0b0cadf21b5b1745dc5e320604e83c3d3) 0x31 [1] installer 0 ∧ (f.lp (1 - 1)).st = .live ∧ (f.lp (1 - 1)).fallback = false
    ∧ (f.accepted (req 0x377f2b6884a316f0f8132eb0f2cf1ba5513efdd571ac7b8157224a5e7cf2da02a101061f33246203794719b45e7d4754) 0 0x30 [1]).masksDiffer 1 = false ∧ (f.accepted (req 0xc5b870db8dce44468789b48e67ee686f931bfabf347ea2ef14915fae7214d1f0b0cadf21b5b1745dc5e320604e83c3d3) 0 0x31 [1]).masksDiffer 1 = false
    ∧ ((at_ .training).lp 1).st = .training ∧ ((next (.remirrorComplete ⟨1, true, 0, []⟩) (at_ .training)).lp 1).st = .sync
    ∧ (y.lp 1).st = .sync ∧ (y.lp 1).lost = (y.lp 0).lost ∧ (y.lp 1).segQ = (y.lp 0).segQ ∧ twf false (y.lp 0).poison = true
    ∧ ((next (.remirrorComplete ⟨1, true, 9, []⟩) y).lp 1).copied = 9
    ∧ ((next (.remirrorComplete ⟨1, true, 9, []⟩) y).lp 1).isPoison (lpdBase / 4) = true
    ∧ ((next (.remirrorComplete ⟨1, true, 9, [(8, 0x80)]⟩) y).lp 1).isPoison ((lpdBase / 32 + 7) * 8 + 7) = true
    ∧ ((next (.remirrorComplete ⟨1, true, 0x1000_0000, []⟩) y).lp 1).st = .live := by decide +kernel

theorem wit_scrub : let l : Line := { valid := true, line := 8, dirty := true }
    let c := (chip.setArr 71 { l1d := ({} : Cache).setSlot 3 127 l, l1i := ({} : Cache).setSlot 3 127 l }).setEight 7 { l2 := ({} : Cache).setSlot 15 1023 { l with dirty := false } }
    c.armed (c.setPage 71) = none ∧ c.armed (0x010 + 7) = none ∧ ((c.arr 71).l1d.slot 3 127).valid = true
    ∧ ((c.arr 71).l1i.slot 3 127).valid = true
    ∧ ((c.eight 7).l2.slot 15 1023).valid = true
    ∧ tget false (next (.arrayScrub (.tight 71 0xFFFF) .bad) c).tmBad (tightBase + 72 * 0x1_0000 - 1) = true
    ∧ (((next (.arrayScrub (.l1d 71 3 127 3) .bad) c).arr 71).l1d.slot 3 127).valid = true
    ∧ (((next (.arrayScrub (.l2 7 15 1023 3) .bad) c).eight 7).l2.slot 15 1023).valid = false := by decide +kernel

/-! ### Worlds, partitions and roles -/

/-- The chip with those credentials at a step of the anchor. -/
def atStep (n : Nat) : Chip := { signChip with roles := { creds with step := n } }

theorem wit_judged_role (q : Req) : Instr.roleOf chip (.worldRestart q true) = some (q, 0x53, [1], installer) := rfl

theorem wit_judged : let q := req 0xf2ff08d40f5739577e88bdfec7b9048764e620c3340ab6f03808a98dc40f4c29c4e3cfa782167a97c652bf3cab4f57d2
    chip.authorize q 0x53 [1] installer = none
    ∧ signChip.authorize q 0x53 [1] installer = some 0 ∧ q.flash = true
    ∧ (atStep 65535).anchorOut = true
    ∧ (atStep 65534).Authorized q 0x53 [1] installer 0 ∧ signChip.takesUp q = true ∧ chip.takesUp q = true
    ∧ (let c := { signChip with lane := { mail := [⟨5, 4, 0x1000, 0x20, 0⟩, ⟨5, 4, 0x1001, 0x53, 0⟩] } }
       c.takesUp q = false ∧ (next (.worldRestart q true) c).lane.recs = []) := by decide +kernel

theorem wit_judged_all : let q := req 0
    ∀ i ∈ ([.planLoad q 0 0, .planArm q 0, .planDisarm q, .planDiscard q, .coreSubst q 0, .coreTest q 0, .arrayMove q 0,
        .memDiag q 0 0 0, .memRemirror q 0, .partStart q 0, .partStop q 0, .partRestart q 0, .worldRestart q false,
        .eventAck q 0, .credEnrol q 0 0 0 0 0, .credRevoke q 0, .policySet q 0 0, .fwUpdate q 0 0, .lifecycle q 0, .portProfile q 0 0 0 0, .pairBind q 0, .chipReset q] : List Instr),
      (Instr.roleOf chip i).isSome = true := by decide +kernel

/-- A hand-over from party 5 to itself. -/
def handE (kind first last : Nat) : Hand := ⟨kind, first, last, some 5, some 5, false⟩

/-- The chip with lanes and hand-overs. -/
def handed (hs : List Hand) : Chip :=
  { connChip [(0, laneOf 1 .run 0 0), (1, laneOf 1 .run 0 0), (2, laneOf 1 .run 0 0)] (writeL [] 0x1FFF [1, 2]) with hand := hs }

/-- The hand-over that a claim names. -/
abbrev found (c : Chip) (h : Hand) : Prop := c.hand.find? (fun x => x.kind == h.kind && x.first == h.first && !x.done) = some h

theorem wit_claim : let hs := [handE 2 0 1, handE 3 0x10_0000 0x10_0000, handE 1 1 1, handE 4 0 1, handE 4 0x400 0x401, handE 0 3 3,
        handE 5 7 9]
    let c := handed hs
    let dirty := c.setEight 0 { c.eight 0 with clrL2 := 1 }
    (∀ h ∈ hs, found c h) ∧ c.cleared = true ∧ dirty.cleared = false ∧ found dirty (handE 2 0 1)
    ∧ (next (.handOverClaim 2 0 true) c).mem = [⟨0x4000, 2⟩] ∧ (next (.handOverClaim 2 0 true) dirty).hand.length = 7
    ∧ ((next (.handOverClaim 1 1 true) c).ln 1).st = .stopped ∧ ((next (.handOverClaim 1 1 true) c).ln 2).st = .run
    ∧ c.inSwing 0 = false ∧ (c.eight 0).move = none ∧ c.livePlan = some connPlan
    ∧ (connPlan.allCtxs.all fun q => !(handE 4 0x400 0x401).touches q.1 q.2.2) = true
    ∧ (connPlan.allCtxs.any fun q => q.2.2.open_ && (handE 4 0 1).touches q.1 q.2.2) = true
    ∧ ((next (.handOverClaim 4 0 true) c).savedCtx 0 0).have_ = true
    ∧ c.lane.copies = [] ∧ (next (.handOverClaim 0 3 true) c).hand.length = 6 ∧ (next (.handOverClaim 5 7 true) c).hand.length = 6
    ∧ (next (.handOverClaim 1 1 false) c).hand.length = 7 := by decide +kernel

/-- The claim of lane 1, whose copy to lane 2 is in progress. -/
theorem wit_claim_copy : let c := { handed [handE 1 1 1] with
      lane := { (handed []).lane with copies := [⟨1, 2, 0, 0, 1024⟩] } }
    let c' := { c with hand := [] }
    found c (handE 1 1 1) ∧ (c.ln 1).st = .run ∧ (c.ln 2).st = .run
    ∧ c'.ownsRange (c'.laneOwner 2) ((c.ln 2).descAt (c.ln 2).cidx) 8 = true
    ∧ (next (.handOverClaim 1 1 true) c).lane.copies = [] ∧ ((next (.handOverClaim 1 1 true) c).ln 2).cidx = 1 := by decide +kernel

theorem wit_parts : let c := signChip
    let r := { chip with parts := [(1, { st := .restarting })] }
    (c.partEntry 1).isSome = true ∧ (c.part 1).st ≠ .restarting
    ∧ c.Authorized (req 0xdf3d11769a73c1f5f14de7502873253e3c87b266bd3154dde81264a523d501c79951bfc75174ed8dbf9101193e4112a9) 0x50 [1] (c.partRight 1) 0 ∧ c.Authorized (req 0xc45c607837273c830f14632dc673e62eac8a0419ee5cfe645e5f5029afc1676e61b2a92af8de6345e0dba271e61cb71b) 0x51 [1] (c.partRight 1) 0
    ∧ c.Authorized (req 0xf9e88873db9ea3f3d3fe674ff051a8e897f3c6786caddd7d0e990e8eb67fa97218ef8d23dc025442e9bc37782669f09c) 0x52 [1] (c.partRight 1) 0
    ∧ ((signChip (inWin true)).pipe 0).ctx = some (run true) ∧ (run true).part = 1
    ∧ (signChip (inWin true)).Authorized (req 0xc45c607837273c830f14632dc673e62eac8a0419ee5cfe645e5f5029afc1676e61b2a92af8de6345e0dba271e61cb71b) 0x51 [1] ((signChip (inWin true)).partRight 1) 0
    ∧ ((next (.partStop (req 0xc45c607837273c830f14632dc673e62eac8a0419ee5cfe645e5f5029afc1676e61b2a92af8de6345e0dba271e61cb71b) 1) (signChip (inWin true))).pipe 0).run = .ended
    ∧ r.partEntry 1 = some ⟨1, 5, 2, 1⟩ ∧ (r.part 1).st = .restarting ∧ (r.part 1).done = false
    ∧ (plan.allCtxs.any fun q => q.2.2.part == 1 && q.2.2.open_ && !r.ctxHeld q.1 q.2.2) = true
    ∧ ((next (.restartWorkComplete 1) r).part 1).done = true ∧ ((next (.restartWorkComplete 1) r).savedCtx 0 0).have_ = true := by
  decide +kernel

/-- The partition while it is RESTARTING, and one of RSP 3. -/
theorem wit_parts_restarting : let c := { signChip with parts := [(1, { st := .restarting })] }
    let w := { plan with partitions := [⟨1, 5, 2, 3⟩] }
    let d := { chip with bankA := { st := .live, plan := some w }, parts := [(1, { st := .restarting })] }
    (c.part 1).st = .restarting ∧ (∀ x ∈ ([(0x50,
      0xdf3d11769a73c1f5f14de7502873253e3c87b266bd3154dde81264a523d501c79951bfc75174ed8dbf9101193e4112a9), (0x51,
      0xc45c607837273c830f14632dc673e62eac8a0419ee5cfe645e5f5029afc1676e61b2a92af8de6345e0dba271e61cb71b), (0x52,
      0xf9e88873db9ea3f3d3fe674ff051a8e897f3c6786caddd7d0e990e8eb67fa97218ef8d23dc025442e9bc37782669f09c)] : List (Nat × BitVec 384)),
      c.Authorized (req x.2) x.1 [1] (c.partRight 1) 0)
    ∧ ((next (.partStop (req 0xc45c607837273c830f14632dc673e62eac8a0419ee5cfe645e5f5029afc1676e61b2a92af8de6345e0dba271e61cb71b) 1) c).part 1).hold = true
    ∧ d.partEntry 1 = some ⟨1, 5, 2, 3⟩ ∧ (d.part 1).st = .restarting ∧ (d.part 1).done = false
    ∧ (d.partEntry 1).map (fun e => e.rsp) = some 3 := by decide +kernel

/-- An image of the Web world and one of the Deckle world, signed by the installer. -/
def webImg : List Word := [0x4449, 0x574c, 0x0, 0x1, 0x0, 0x0, 0x0, 0x0, 0x4a, 0x0, 0x1, 0x0, 0x0, 0x0, 0x0, 0x0, 0x0, 0x0,
  0x0, 0x0, 0x0, 0x0, 0x0, 0x0, 0x11, 0x0, 0x302b, 0x4303, 0xfd6f, 0x5850, 0x3fb4, 0xd84e, 0xf2e4, 0x7500, 0x5db9, 0xc3ed,
  0xcd36, 0xa44e, 0xfbe8, 0x4608, 0x240f, 0x6c66, 0x191f, 0x1be5, 0xef07, 0x70c1, 0x794c, 0x1160, 0xe1db, 0x7ae9, 0xa7f0,
  0xee48, 0x7a4b, 0xc899, 0xd374, 0xfd22, 0x5ab5, 0x68c4, 0x8d31, 0xbb26, 0xdb88, 0xd8eb, 0xf87b, 0x9397, 0xf3d4, 0x94dd,
  0xff75, 0x4832, 0x5e77, 0x7540, 0xae30, 0xd1dd, 0x89c5, 0x427]
/-- The other. -/
def dklImg : List Word := [0x4449, 0x574c, 0x0, 0x1, 0x1, 0x0, 0x0, 0x0, 0x4a, 0x0, 0x1, 0x0, 0x0, 0x0, 0x0, 0x0, 0x0, 0x0,
  0x0, 0x0, 0x0, 0x0, 0x0, 0x0, 0x11, 0x0, 0x302b, 0x4303, 0xfd6f, 0x5850, 0x3fb4, 0xd84e, 0xf2e4, 0x7500, 0x5db9, 0xc3ed,
  0xcd36, 0xa44e, 0xfbe8, 0x4608, 0x240f, 0x6c66, 0x191f, 0x1be5, 0xef07, 0x70c1, 0x794c, 0x1160, 0xe1db, 0x7ae9, 0xac2b,
  0x954, 0x6865, 0x990c, 0x4841, 0x869, 0xe640, 0x2619, 0xf8be, 0x80c7, 0x22b9, 0xd881, 0x4271, 0x9d77, 0x9952, 0x352a, 0x7a27,
  0x962e, 0x1486, 0x6f34, 0xbaad, 0x1202, 0xfaa7, 0x535e]

theorem wit_worlds : let q := req 0xf2ff08d40f5739577e88bdfec7b9048764e620c3340ab6f03808a98dc40f4c29c4e3cfa782167a97c652bf3cab4f57d2
    let run := { signChip with deckle := { st := .run }, wdAt := some 0 }
    let run := run.setLive 0x006 0x020 0xFFFF
    let wait := { signChip with web := { st := .restarting }, deckle := { st := .restarting } }
    run.Authorized q 0x53 [1] installer 0 ∧ (run.world true).st ≠ .restarting
    ∧ run.wdAt.isSome = true ∧ run.wdPeriod = 0xFFFF ∧ run.deckle.st = .run
    ∧ (next .deckleWatchdogExpiry run).deckle.due = true ∧ (wait.world false).st = .restarting
    ∧ (imageForm false webImg && wait.signedBy 2 webImg) = true
    ∧ (imageForm true dklImg && wait.signedBy 2 dklImg && watermark dklImg == (wait.world true).wm) = false
    ∧ ((next (.deckleWorldRestart true []) wait).world true).st = .failed := by decide +kernel

/-- Core 0 in a window of the Deckle world, as a monitor. -/
def dklChip : Chip :=
  let p := { plan with parties := [⟨5, true, true⟩, ⟨6, false, true⟩] }
  let c := { chip with bankA := { st := .live, plan := some p }, deckle := { st := .run }, wdAt := some 0, now := 7 }
  let c := c.setLive 0x006 0x020 0xFFFF
  c.setPipe 0 { pipe true with ctx := some { run true with world := true }, arch := { arch with st := 6 } }

theorem wit_kick : ∃ r : Requester, dklChip.Reaches 0 0x006 0x102 r ∧ r.level = 2 ∧ r.party.map dklChip.worldOf = some true
    ∧ dklChip.wdAt.isSome = true ∧ dklChip.wdPeriod ≠ 0 ∧ dklChip.deckle.st = .run
    ∧ (next (.dwkick 0) dklChip).wdAt = some 7 := ⟨(dklChip.requester 0).getD launchRq, by decide +kernel⟩

/-- The plan with lane 9 of party 6 at field port 0. -/
def gatePlan : Plan :=
  let os := plan.owns.map (fun o => if o.kind = 1 then { o with party := 6 } else o)
  { plan with owns := os, fpis := [(0, [⟨0, false, 0, 0, 9, none⟩])] }

theorem wit_gate : let c := inWin true
    let d := { inWin true with bankA := { st := .live, plan := some gatePlan } }
    c.Reaches 0 0x006 0x180 r0 ∧ r0.party = some 5 ∧ portPage 0x120 = true ∧ c.portUsers 0x120 = [5]
    ∧ (next (.gatereq 0 (0x120 + 2 ^ 10)) c).gated = [(0x120, true)]
    ∧ (let os := plan.owns.map (fun o => if o.kind = 0 then { o with last := 0x0F0 } else o)
       let n := { c with bankA := { st := .live, plan := some { plan with owns := os } } }
       n.Reaches 0 0x006 0x180 r0 ∧ n.portUsers 0x0F1 = [] ∧ portPage 0x0F1 = true
       ∧ (next (.gatereq 0 0x0F1) n).gated = [(0x0F1, false)])
    ∧ d.Reaches 0 0x006 0x180 r0 ∧ d.portUsers 0x120 = [5, 6] ∧ (next (.gatereq 0 0x120) d).gated = [] := by decide +kernel

theorem wit_attest : signChip.takesUp (req 0) = true ∧ signChip.ownsRange (some 5) (qdrEnd - 200) 200 = true := by decide +kernel

theorem wit_event_ack : let right := fun r => r == 2 || r == 3 || (r == 1 && signChip.fld 0x007 0x106 0 0 == 1)
    let c := { signChip with roles := { creds with alarms := [4, 9] } }
    c.Authorized (req 0xa54dbbd7388aaf060b8a153500049ad4d983e9b5be4024b35a25c3ceea7d1ba8919b89f5760628f1032a5b21589c494b) 0x54 (toWords 4 9) right 0 ∧ c.roles.alarms.contains 9 = true := by decide +kernel

theorem wit_journal_read : let ops := toWords 4 2 ++ toWords 2 2 ++ toWords 4 0x4000
    let right := fun r => r == 2 || r == 3 || (r == 1 && signChip.fld 0x007 0x106 1 1 == 1)
    let c := { signChip with roles := { creds with jseq := 4 } }
    c.takesUp (req 0) = true ∧ c.authorize (req 0x30600e21e4114e8229407f7c7196e52d4fdc090348533646971da35d33ef02687d510c30a7054fdaf8297f4097aa211c) 0x55 ops right = some 0 ∧ c.roles.jseq - journalRing ≤ 2
    ∧ 2 + 2 ≤ c.roles.jseq ∧ c.ownsRange (some 5) 0x4000 (2 * 64) = true := by decide +kernel

theorem wit_enrol : let ops := ([15, 1] : List Word) ++ toWords 24 7 ++ toWords 24 8 ++ toWords 2 0x44
    let right := fun r => (r == 2 && ((1 : Word).toNat == 1 || (1 : Word).toNat == 2)) || (r == 3 && (1 : Word).toNat == 2)
    signChip.Authorized (req 0xeb15e931654544d1965857065df96d1158413480b3f8c7c3bfc6dfbc1c80c11a2e3b09f738cb366aa7445fc0ebffb415) 0x60 ops right 0 ∧ (signChip.cred 15).role = 0 := by
  decide +kernel

theorem wit_revoke : let target := (signChip.cred 0).role
    let right := fun r => (r == 2 && (target == 1 || target == 2)) || (r == 3 && target == 2)
    signChip.Authorized (req 0x4f5754f43454967855e6c74f2c14b92d6f5b115a02feae36b4c3c12aca723b6829b33191216b91bda778cda4069a70a6) 0x61 [0] right 0 := by decide +kernel

theorem wit_policy : signChip.Authorized (req 0xbb550cdcffe498c946558e989221bebb4802e83c785b534b0bf6012b1b10a85ff55eb9495556d49c44c573f23a561613) 0x62 (toWords 4 3 ++ toWords 2 1) installer 0 := by
  decide +kernel

/-- Firmware the maker signs. -/
def fwImg : List Word := [0x0, 0x0, 0x0, 0x0, 0x0, 0x0, 0x0, 0x0, 0x0, 0x0, 0x0, 0x0, 0x0, 0x0, 0x0, 0x0, 0x33, 0x0, 0x302b,
  0x4303, 0xfd6f, 0x5850, 0x3fb4, 0xd84e, 0xf2e4, 0x7500, 0x5db9, 0xc3ed, 0xcd36, 0xa44e, 0xfbe8, 0x4608, 0x240f, 0x6c66,
  0x191f, 0x1be5, 0xef07, 0x70c1, 0x794c, 0x1160, 0xe1db, 0x7ae9, 0x7b7b, 0x70aa, 0x5422, 0x6b1a, 0xdb4c, 0x633b, 0x4d9d,
  0x7455, 0x2670, 0x7dd1, 0x34b4, 0x7b0a, 0xb775, 0xc58a, 0x507f, 0xcff, 0x21ab, 0xba3b, 0x8f22, 0xdd3a, 0xf804, 0x9422, 0x9d1,
  0x837a]

theorem wit_firmware : let ops := toWords 4 0x4000 ++ toWords 2 66
    let c := { signChip with mem := writeL [] 0x4000 fwImg }
    let q := req 0xb273aff0a50823d9241a1468e2771aea975a274e4fa1112dfd78a4fb0e2da213c473ed0106007b210f604bbaad43227f 0x33
    let ws := toWords 66 (c.physRead (c.partyKey (some 5)) 0x4000 66)
    c.Authorized q 0x70 ops makerOnly 16 ∧ ws = fwImg ∧ c.signedBy 3 fwImg = true ∧ c.signedBy 3 [] = false := by
  decide +kernel

theorem wit_lifecycle : signChip.Authorized (req 0xd350ef4d2e08ee7bc3470372a94c8e6283616d0dc76257251f0a79af85f88a9c300c4acad5beeb07a16f4195cad178b4 0x33) 0x71 [1] makerOnly 16
    ∧ lifecycleNext signChip.lifecycle 1 = true ∧ lifecycleNext signChip.lifecycle 3 = false
    ∧ signChip.Authorized (req 0x3404290bb1e6ec58c668f04035db830f6fb922a1af8e842301bda717b128ba51c61843302d3b72fb80d876c9c8e726a8 0x33) 0x71 [3] makerOnly 16 := by decide +kernel

theorem wit_anchor : let c := { signChip with roles := { creds with step := 65535, epoch := 62 } }
    let q := { req 0xa07fa1336303b95fde3fbf9c3139174b41da80efe910762197a26351e1683f13e41db0f5888eceeaf5cef07293683d51 0x33 with flash := false }
    c.takesUp q = true ∧ c.takesUp (req 0xa07fa1336303b95fde3fbf9c3139174b41da80efe910762197a26351e1683f13e41db0f5888eceeaf5cef07293683d51 0x33) = true ∧ c.authorize q 0x72 [] makerOnly = some 16 ∧ q.flash = false
    ∧ (next (.anchorRenew q) c).roles.step = 65535 ∧ c.authorize (req 0xa07fa1336303b95fde3fbf9c3139174b41da80efe910762197a26351e1683f13e41db0f5888eceeaf5cef07293683d51 0x33) 0x72 [] makerOnly = some 16 ∧ c.roles.epoch ≠ 63
    ∧ (next (.anchorRenew (req 0xa07fa1336303b95fde3fbf9c3139174b41da80efe910762197a26351e1683f13e41db0f5888eceeaf5cef07293683d51 0x33)) c).roles.step = 1 := by decide +kernel

/-! ### Ports, time and the pair link -/

/-- The plan with a sample and a transmit instant of field port 31 and a gate list of plant port 1. -/
def portPlan : Plan :=
  { plan with
    fpis := [(31, [⟨100, false, 0, 0, 5, some 6⟩, ⟨200, true, 0, 0, 5, none⟩])]
    gcls := [(1, [⟨0, 0xFF⟩, ⟨300, 0x101⟩])]
    conns := [⟨3, 8, 0, 0, 33, 0⟩] }

/-- The chip that runs it, with field port 31 closed and both links up. -/
def portChip (p : FPort := { supply := .on }) : Chip :=
  let c := { inWin true with bankA := { st := .live, plan := some portPlan } }
  (((c.setFport 31 p).setFld (fpPage 31) 0x100 0 0 1).setFld (pltPage 0) 0x100 0 0 1).setFld (pltPage 1) 0x100 0 0 1

theorem wit_sample : let e : FpiE := ⟨100, false, 0, 0, 5, some 6⟩
    portChip.fpRuns 31 0 false = some e ∧ (next (.sampleInstant 31 0) portChip).lane.inq.map Prod.fst = [5, 6]
    ∧ portChip.portGated (fpPage 31) = false ∧ portChip.fpLink 31 = true := by decide +kernel

theorem wit_transmit : let e : FpiE := ⟨200, true, 0, 0, 5, none⟩
    let c := portChip { supply := .soft, outs := [(5, some 0x77)], outNew := [5] }
    let d := portChip { supply := .on, outs := [(5, some 0x77)] }
    (∀ x ∈ [c, d, portChip], x.fpRuns 31 1 true = some e ∧ (x.fport 31).closed = true ∧ x.fpLink 31 = true ∧ x.standby = false)
    ∧ tget none (c.fport 31).outs 5 = some 0x77 ∧ ((next (.transmitInstant 31 1) c).fport 31).sent.length = 60
    ∧ (d.fport 31).outNew.contains 5 = false ∧ d.fld (fpPage 31) 0x020 4 4 = 0
    ∧ (next (.transmitInstant 31 1) d).fld (fpPage 31) 0x100 23 16 = 1 ∧ tget none (portChip.fport 31).outs 5 = none
    ∧ (let off := portChip { supply := .off, outs := [(5, some 0x77)], outNew := [5] }
       off.fpRuns 31 1 true = some e ∧ (off.fport 31).closed = false
       ∧ ((next (.transmitInstant 31 1) off).fport 31).outNew = []) := by decide +kernel

/-- A frame of 64 bytes with an EtherType and rising payload bytes. -/
def frame (ety : Nat) : List Byte :=
  List.replicate 12 1 ++ [BitVec.ofNat 8 (ety / 256), BitVec.ofNat 8 ety] ++ (List.range 50).map (BitVec.ofNat 8)

theorem wit_field_frame : let ety := portChip.fld (fpPage 31) 0x020 31 16
    etherAt (frame ety) 12 = ety ∧ 14 + portChip.fld (fpPage 31) 0x022 10 0 + 8 ≤ (frame ety).length
    ∧ ((next (.fieldFrameReceived 31 (frame ety) true 9) portChip).fport 31).data = 0x0706_0504_0302_0100
    ∧ portChip.portGated (fpPage 31) = false ∧ portChip.fpLink 31 = true ∧ 60 ≤ (frame ety).length ∧ (frame ety).length ≤ 1518
    ∧ ((next (.fieldFrameReceived 31 ((frame ety).take 59) true 9) portChip).fport 31).seq = 0
    ∧ (next (.fieldFrameReceived 31 (List.replicate 1519 0) true 9) portChip).fld (fpPage 31) 0x100 31 24 = 0
    ∧ (let c := { portChip with now := 100 }
       ((next (.fieldFrameReceived 31 (frame ety) true 99) c).fport 31).rxts = 80)
    ∧ etherAt (frame 0x0800) 12 ≠ ety ∧ portChip.portLane 31 0 = none
    ∧ (next (.fieldFrameReceived 31 (frame 0x0800) true 9) portChip).fld (fpPage 31) 0x100 31 24 = 1 := by decide +kernel

/-- Sixteen copies in progress: no step unit of the lane engine is free. -/
def busyUnits : List Copying := (List.range 16).map (fun i => ⟨2 * i, 2 * i + 1, 0, 0, 1024⟩)

theorem wit_field_buffer : let conn : Plan := { portPlan with conns := [⟨3, 8, 0, 0, 31, 0⟩] }
    let c := fun p : FPort => { portChip p with bankA := { st := .live, plan := some conn }, lane := { copies := busyUnits } }
    let one := c { supply := .on }
    let two := c { supply := .on, rx := some [] }
    let f := frame 0x0800
    (∀ x ∈ [one, two], x.portGated (fpPage 31) = false ∧ x.fpLink 31 = true ∧ (x.portLane 31 0).isSome = true ∧ x.unitFree = false)
    ∧ (one.fport 31).rx = none ∧ (two.fport 31).rx.isSome = true
    ∧ ((next (.fieldFrameReceived 31 f true 9) one).fport 31).rx = some f
    ∧ (next (.fieldFrameReceived 31 f true 9) two).fld (fpPage 31) 0x100 31 24 = 1 := by decide +kernel

theorem wit_field_link : let c := chip.setFport 31 { supply := .on }
    c.portGated (fpPage 31) = false ∧ c.fpLink 31 = false ∧ (c.fport 31).supply ≠ .tripped
    ∧ (next (.fieldLinkChange 31 true true true false true) c).fpLink 31 = true
    ∧ (next (.fieldLinkChange 31 false true true false true) portChip).fpLink 31 = false := by decide +kernel

/-- Field port 31 with limits: 100 V, 50 A, 4000 P, the fast comparator at 9. -/
def limited (p : FPort) : Chip :=
  ((((portChip p).setLive (fpPage 31) 0x030 (100 * 4 + 50 * 2 ^ 14)).setLive (fpPage 31) 0x032 4000).setLive
    (fpPage 31) 0x034 (9 + 2 ^ 8))

theorem wit_supervise : let c := limited { supply := .on, exceeded := [2] }
    ((limited {}).fport 31).closed = false ∧ (c.fport 31).closed = true ∧ c.fld (fpPage 31) 0x034 7 0 = 9
    ∧ (c.overConds 31 100 51).find? (fun j => (c.fport 31).exceeded.contains j && j != 5) = some 2
    ∧ ((next (.supervisorConversion 31 100 51 false true) c).fport 31).supply = .tripped
    ∧ (c.overConds 31 101 50).all (fun j => !(c.fport 31).exceeded.contains j) = true
    ∧ isProfile (c.live (fpPage 31) 0x030) = false ∧ (c.fport 31).supply ≠ .tripped
    ∧ ((next (.supervisorConversion 31 101 50 false true) c).fport 31).exceeded = [1, 3]
    ∧ (next (.supervisorConversion 31 0 0 true true) c).fld (fpPage 31) 0x100 7 5 = 4 := by decide +kernel

/-- A port that has tripped; a closed one of the IS profile whose self-check fails; and one whose only condition, a voltage that
is absent, lasts. -/
theorem wit_sense : let t := limited { supply := .tripped }
    let is := (limited { supply := .on }).setLive (fpPage 31) 0x030 (100 * 4 + 50 * 2 ^ 14 + 2)
    let low := (is.setLive (fpPage 31) 0x032 (4000 + 5 * 2 ^ 24)).setFport 31 { supply := .on, exceeded := [5] }
    (t.fport 31).supply = .tripped ∧ ((next (.supervisorConversion 31 0 0 true true) t).fport 31).supply = .tripped
    ∧ (is.fport 31).closed = true ∧ (is.fport 31).supply ≠ .tripped ∧ isProfile (is.live (fpPage 31) 0x030) = true
    ∧ (is.overConds 31 100 50).all (fun j => !(is.fport 31).exceeded.contains j) = true
    ∧ ((next (.supervisorConversion 31 100 50 false false) is).fport 31).supply = .tripped
    ∧ low.overConds 31 0 0 = [5] ∧ (low.fport 31).exceeded.contains 5 = true
    ∧ ((next (.supervisorConversion 31 0 0 false true) low).fport 31).supply = .tripped := by decide +kernel

theorem wit_rearm : let c := limited { supply := .tripped, tripAt := some 0 }
    let ready := { c with now := 1000000 }
    c.Reaches 0 (fpPage 31) 0x102 r0 ∧ c.fld (fpPage 31) 0x006 8 8 = 0 ∧ c.portGated (fpPage 31) = false
    ∧ (c.fport 31).closed = false ∧ c.power.st = .run ∧ c.rearmOk 31 = false ∧ ready.rearmOk 31 = true
    ∧ ready.Reaches 0 (fpPage 31) 0x102 r0 ∧ ((next (.rearm 0 31) ready).fport 31).supply = .soft
    ∧ ready.fpLink 31 = true ∧ (next (.rearm 0 31) ready).fpLink 31 = false
    ∧ (let down := ready.setFld (fpPage 31) 0x100 0 0 0
       down.fpLink 31 = false ∧ down.rearmOk 31 = true ∧ down.Reaches 0 (fpPage 31) 0x102 r0)
    ∧ ((next (.softStartEnd 31) (next (.rearm 0 31) ready)).fport 31).supply = .on := by decide +kernel

theorem wit_profile : let ops := fun p0 p2 : Nat => ([31] : List Word) ++ (toWords 2 p0 ++ toWords 2 7 ++ toWords 2 p2)
    signChip.Authorized (req 0xe21170b46e532ad4580109b702f850137b979b559669a95c2238247831723fd63620cf7f289a327d03795c3f4b72e2d) 0x80 (ops 2 0x101) installer 0
    ∧ (!isProfile 2 || isRules 2 0x101) = true
    ∧ signChip.Authorized (req 0xd93d0b8893cb80758159741bc7f120c24b38e4180654aa47163c5f9a20a808a71eccb1e3eafd8fe69e812a33ac2352b5) 0x80 (ops 2 0x100) installer 0
    ∧ (!isProfile 2 || isRules 2 0x100) = false := by decide +kernel

theorem wit_plant : let t := portChip.setLive (pltPage 1) 0x020 3
    let off := t.setFld (pltPage 1) 0x100 0 0 0
    let cut := { portPlan with gcls := [(1, [⟨0, 0xFF⟩, ⟨50000, 0x101⟩])] }
    let late := { portChip with bankA := { st := .live, plan := some cut } }
    (late.gcl 1)[1]? = some ⟨50000, 0x101⟩ ∧ late.nextCatch ≤ late.granuleAt 50000
    ∧ (next (.gateControlEntry 1 1) late).fld (pltPage 1) 0x100 12 5 = late.fld (pltPage 1) 0x100 12 5
    ∧ portChip.granuleAt 300 < portChip.nextCatch ∧ (portChip.gcl 1)[1]? = some ⟨300, 0x101⟩ ∧ portChip.portGated (pltPage 1) = false
    ∧ (next (.gateControlEntry 1 1) portChip).fld (pltPage 1) 0x100 12 5 = 1
    ∧ bitN (off.live (pltPage 1) 0x020) 0 = true ∧ bitN (off.live (pltPage 1) 0x020) 1 = true ∧ off.pltLink 1 = false
    ∧ off.fld (pltPage 1) 0x100 2 1 ≠ 3 ∧ (next (.trainingTimeout 1) off).fld (pltPage 1) 0x100 2 1 = 3
    ∧ off.portGated (pltPage 1) = false ∧ off.fld (pltPage 1) 0x020 1 1 = 1 ∧ (next (.plantLinkChange 1 true) off).fld (pltPage 1) 0x100 2 0 = 5
    ∧ t.pltLink 1 = true ∧ (next (.plantLinkChange 1 false) t).fld (pltPage 1) 0x100 2 0 = 2 := by decide +kernel

theorem wit_recovery : let p : PPort := { strm := [(2, { seq := 4 }), (63, { seq := 9, live := true })] }
    let c := (portChip.setLive (pltPage 1) (0x200 + 8 * 63 + 2) (2 ^ 31)).setPport 1 p
    bitN (c.strReg 1 63 1) 31 = true ∧ bits (c.strReg 1 63 2) 0 0 = 0
    ∧ ((next (.streamRecoveryReset 1 63) c).pport 1).strm = [(2, { seq := 4 })] := by decide +kernel

theorem wit_plant_frame : let f := frame 0x0800
    let c := portChip
    let x := laneOf 1 .run 1 0
    let d := { c with lane := { lanes := [(8, x)] }, mem := writeL [] 0x1000 (toWords 8 (32 + 0x3000 * 2 ^ 32)) }
    c.portGated (pltPage 1) = false ∧ c.pltLink 1 = true ∧ isGptp f = false ∧ c.strOf 1 0 false f = none
    ∧ c.portLane (32 + 0) 0 = none ∧ c.pltLink 0 = true ∧ d.portLane (32 + 1) 0 = some 8 ∧ (d.ln 8).st = .run
    ∧ (d.ln 8).waiting ≠ 0 ∧ d.descFault 8 = none ∧ d.unitFree = true ∧ (d.pport 1).rx = [] ∧ descReserved (d.laneDesc 8 0) = false ∧ f.length = 64
    ∧ descLen (d.laneDesc 8 0) = 32 ∧ d.ownsRange (d.laneOwner 8) 0x3000 32 = true
    ∧ (next (.plantFrameReceived 0 f true 9) c).fld (pltPage 0) 0x100 23 16 = 1
    ∧ (let b := { d with lane := { d.lane with copies := busyUnits } }
       (b.portLane 33 0).isSome = true ∧ b.unitFree = false ∧ (b.pport 1).rx = [] ∧ f.length ≤ 1518
       ∧ ((next (.plantFrameReceived 1 f true 9) b).pport 1).rx = [(0, f)])
    ∧ readN (next (.plantFrameReceived 1 f true 9) d).mem 0x3007 1 = 0x0100 := by decide +kernel

/-- The chip whose port 1 takes part in gPTP and has heard a better clock. -/
def slaveChip : Chip :=
  let c := (portChip.setFld 0x004 0x020 12 11 2).setFld 0x004 0x020 2 2 0
  c.setPport 1 { announced := some 0, delay := 5 }

theorem wit_clock : let c := slaveChip
    c.takesPart 1 = true ∧ c.takesPart (1 - 1) = false ∧ clockRank 0 0 0 < c.ownRank
    ∧ c.ownRank < clockRank 255 (2 ^ 104 - 1) 0xFFFF ∧ (1 : Nat) + (9 - 3) ≤ 20 := by
  have h : slaveChip.ownRank = clockRank 255 Config.clockRest 0 := by
    have h0 : (slaveChip.fld 0x004 0x020 2 2 == 1) = false := by decide +kernel
    rw [Chip.ownRank, h0]
    rfl
  refine ⟨by decide +kernel, by decide +kernel, ?_, ?_, by decide⟩ <;> rw [h, clockRank, clockRank] <;> omega

theorem wit_sync : let c := (slaveChip.setFld (pltPage 1) 0x100 4 3 2).setPport 1 { announced := some 0, delay := 5 }
    c.takesPart 1 = true ∧ c.fld (pltPage 1) 0x100 4 3 = 2 ∧ (c.pport 1).delay = 5 := by decide +kernel

theorem wit_time : let c := portChip
    let held := c.setFld 0x004 0x100 1 0 1
    let free : Chip := {}
    let al := c.setLive 0x004 0x14C 777
    held.fld 0x004 0x100 1 0 ≠ 0 ∧ (next .timeSourceLost held).fld 0x004 0x100 4 4 = 1
    ∧ al.live 0x004 (0x140 + 4 * 3) + al.live 0x004 (0x142 + 4 * 3) * 2 ^ 32 = 777 ∧ (next (.tbAlarm 3) al).now = 777
    ∧ free.planHolds = false ∧ (next (.tbStep 50) free).now = 50 ∧ c.planHolds = true
    ∧ c.Reaches 0 0x004 0x180 r0 := by decide +kernel

/-- The chip with its pair link in a state. -/
def pairChip (p : PairLink) : Chip := { (chip.setLive 0x0F3 0x020 1) with pair := p, roles := { creds with partner := 0x99 } }

/-- A partner that runs the plan of the tests. -/
def partner : Partner := ⟨true, true, 0x99, true, false, 0, 0, 0, 0, [], false, false, 0, 0, 500, 0⟩

theorem wit_align : let c := pairChip {}
    c.pair.st = .silent ∧ c.fld 0x0F3 0x020 0 0 = 1 ∧ (laneList 0x1F).length = 5 ∧ (laneList 0xF).length = 4
    ∧ (laneList 7).length = 3 ∧ (next (.align ⟨0x1F, true⟩) c).pair.spare = some 4
    ∧ (next (.align ⟨0xF, true⟩) c).pair.spare = none ∧ (next (.align ⟨0xF, false⟩) c).pair.cause = 2
    ∧ (next (.align ⟨7, true⟩) c).pair.cause = 7 := by decide +kernel

theorem wit_attention : let c := pairChip { st := .attention }
    let x := partner
    c.pair.st = .attention ∧ c.roles.partner = 0x99 ∧ x.uid.toNat = c.roles.partner ∧ c.livePlan = some plan
    ∧ plan.isPlan x = true ∧ x.live = true ∧ x.reportOk = true ∧ x.inTime = true
    ∧ (next (.attention { x with inTime := false }) c).pair.cause = 2
    ∧ (next (.attention { x with uid := 1 }) c).pair.cause = 3
    ∧ (plan.isPlan { x with planSeq := 1 } && (x.live || x.admitted)) = false
    ∧ (next (.attention { x with planSeq := 1 }) c).pair.cause = 4
    ∧ (let free : Chip := { pair := { st := .attention } }
       free.planHolds = false ∧ (next (.attention { x with tb := 77 }) free).now = 77) := by decide +kernel

theorem wit_mirror_same : (pairChip { st := .attention }).mirrorSame partner = true := by
  have h : (List.range 64).map (fun k => ((List.range 64).map (fun k => (pairChip { st := .attention }).live 0x0F3 (0x200 + 2 * k))).getD k 0)
      = (List.range 64).map (fun k => (partner.mirror.map BitVec.toNat).getD k 0) := by decide +kernel
  simp only [Chip.mirrorSame, mirrorDigest, h, beq_self_eq_true]

theorem wit_mirror_differs : (pairChip { st := .attention }).mirrorSame { partner with mirror := [1] } = false := by decide +kernel

theorem wit_pair_commands : let ops := mirrorOps 2000000 1 0 0 [5]
    let q := req 0xba71ae325ba967911a4cf2e25550e0d1c3432edeea89033d8b0071036fdedf6c6488b086a4f1dece95568f60e72337be
    let go := { pairChip { st := .go, active := true } with roles := { creds with partner := 0x99 } }
    signChip.Authorized (req 0x64066e98f6c17139d114e9e0d39dc407d1ff06927348f2216926c1a0696bc180ba4ec169475ce7f6a6e5d3fd096a9c95) 0x81 (toWords 4 0x99) installer 0
    ∧ signChip.Authorized q 0x82 ops installer 0 ∧ ([5] : List Pair).length ≤ 64 ∧ signChip.inGo = false
    ∧ signChip.pair.swAt = none ∧ signChip.hand = [] ∧ signChip.armFault 2000000 0 1 false = none
    ∧ ({ go with now := 5000000 } : Chip).Authorized q 0x82 ops installer 0
    ∧ ({ go with now := 5000000 } : Chip).armFault 2000000 0 1 true = some stLate
    ∧ go.Authorized q 0x82 ops installer 0 ∧ go.inGo = true ∧ go.pair.swAt = none ∧ go.hand = []
    ∧ go.armFault 2000000 0 1 true = none := by decide +kernel

/-- The chip as the standby, with a mirror region of 4,096 words and its shadow in the launch controller's QDR. -/
def goChip (p : PairLink) : Chip :=
  let os := plan.owns.map (fun o => if o.kind = 2 then { o with first := 1 } else o)
  let c := { pairChip { p with st := .go } with bankA := { st := .live, plan := some { plan with owns := os } } }
  c.setLive 0x0F3 0x200 (2 ^ 31 + 1)

theorem wit_go : let c := goChip { lanes := 0x1F, spare := some 4, rxSeq := 4095 }
    let one := goChip { lanes := 0xF, retrain := [4], active := true }
    let f : PairFlit := ⟨true, 4095, 0, .mirror 0xABC⟩
    c.inGo = true ∧ c.pair.bad < 8 ∧ (next (.pairFlit { f with crcOk := false }) c).pair.bad = 1
    ∧ (next (.pairFlit { f with crcOk := false }) (goChip { bad := 8 })).pair.st = .silent
    ∧ (next (.pairFlit { f with seq := 0 }) c).pair.rxSeq = 4095
    ∧ (next (.pairFlit { f with body := .decision ⟨true, 0, 0, 0⟩ }) c).pair.peer = some ⟨true, 0, 0, 0⟩
    ∧ (next (.pairFlit { f with body := .nak }) c).pair.nakked = 1
    ∧ (next (.pairFlit { f with body := .nak }) (goChip { rxSeq := 4095, nakked := 8 })).pair.st = .silent ∧ f.seq.toNat = c.pair.rxSeq ∧ c.pair.active = false
    ∧ c.pair.mirPos + 16 ≤ c.mirrorWords ∧ c.ownsRange none (c.shadowBase + 0) 16 = true ∧ c.inQdr c.shadowBase = true
    ∧ (next (.pairFlit f) c).pair.rxSeq = 0 ∧ readN (next (.pairFlit f) c).mem c.shadowBase 16 = 0xABC
    ∧ bitN c.pair.lanes 0 = true ∧ (next (.laneFailure ⟨0, true, 0⟩) c).pair.spare = none
    ∧ (next (.laneFailure ⟨0, false, 0⟩) c).pair.spare = some 4 ∧ c.fld 0x0F3 0x020 9 2 < (0xFFFF : Word).toNat
    ∧ (next (.laneFailure ⟨0, false, 0xFFFF⟩) c).pair.lanes = 0x1E ∧ (next (.laneFailure ⟨0, true, 0⟩) one).pair.cause = 6 ∧ one.pair.retrain.contains 4 = true
    ∧ (next (.pairLaneRetrained 4) one).pair.spare = some 4 ∧ one.pair.active = true ∧ one.isLive = true
    ∧ (next .yieldMessage c).pair.yieldGot = true ∧ (next .mirrorStart one).pair.waiting ≠ [] := by decide +kernel

theorem wit_keep_alive : let c := { goChip {} with now := 1000 }
    c.inGo = true ∧ c.pair.waiting = [] ∧ c.pair.replay.length < replayFlits ∧ c.pair.sentAt + 1000 ≤ c.now := by decide +kernel

/-! ### Trace, counters and diagnosis -/

/-- The chip with trace in a state. -/
def traceChip (t : Trace) : Chip := { inWin true with trace := t }

theorem wit_trigger : let c := traceChip { st := .run, wr := 8191 }
    let k := traceChip { st := .wake, wr := 8191 }
    c.trStream = false ∧ (if c.fld 0x0F4 0x026 2 0 ≥ 6 then 0 else c.fld 0x0F4 0x026 2 0) = 0
    ∧ (next (.trigger 0) c).trace.st = .wake ∧ (next (.trigger 0) k).fld 0x0F4 0x100 23 16 = 1
    ∧ (next .wakeEnd k).trace.st = .stopped ∧ (next .wakeEnd k).trace.wr = 8192 := by decide +kernel

theorem wit_fire : let c := traceChip { st := .run }
    c.MayWrite 64 0x0F4 0x020 rL ∧ c.trStream = false ∧ (next (.traceFire 64 4) c).trace.st = .wake := by decide +kernel

theorem wit_encoder : let e : Enc := { lost := 3, frames := List.replicate 30 9, words := [1, 2, 3, 4, 5, 6] }
    let c := traceChip { st := .wake, encs := [(63, e)] }
    (c.enc 63) = e ∧ c.trStream = false ∧ ((next (.traceOverflow 63) c).enc 63).lost = 0
    ∧ (next (.frameSend 63) c).trace.buf = [(0, 9)] := by decide +kernel

theorem wit_counter : let pg := 0x020 + 17
    let c := chip.setLive pg 0x14E (2 ^ 20)
    let c := c.pmSet 17 7 (2 ^ 48 - 1)
    bitN (c.live pg (0x140 + 2 * 7)) 20 = true ∧ c.pmFrozen = false ∧ (c.pmService = true ∨ 7 % 2 = 1)
    ∧ c.pmGet 17 7 = 2 ^ 48 - 1 ∧ (next (.counterOverflow 17 7) c).pmGet 17 7 = 0
    ∧ c.Reaches 64 pg (0x150 + 4 * 7) rL ∧ (next (.pmcntRead 64 17 7) c).reply = 2 ^ 32 - 1
    ∧ c.MayWrite 64 pg (0x150 + 4 * 7) rL ∧ c.MayWrite 64 pg (0x152 + 4 * 7) rL
    ∧ (next (.pmcntWrite 64 17 7 5 0x1_0003) c).pmGet 17 7 = 3 * 2 ^ 32 + 5 := by decide +kernel

theorem wit_snapshot : let c := chip.setFld 0x0F5 0x102 0 0 1
    chip.MayWrite 64 0x0F5 0x024 rL ∧ (next (.snapshotArm 64 true) chip).fld 0x0F5 0x102 0 0 = 1
    ∧ (next (.thaw 64) chip).fld 0x0F5 0x102 1 1 = 0 ∧ c.fld 0x0F5 0x102 0 0 = 1
    ∧ chip.pmFrozen = false ∧ (let z := { chip.setFld 0x0F5 0x102 1 1 1 with blk := [(0, 7)] }
       z.pmFrozen = true ∧ (next .blockCounterWindowEnd z).blk = [(0, 7)]) := by decide +kernel

theorem wit_diag_write : signChip.Authorized (req 0x881ed97b548e34fb7bcd8f480c836784ff3fa0bcce9445402f685e251668922e267b575f847e80fcafdf53f46be10176) 0x90 ([1, 0x26] ++ toWords 2 9) installer 0
    ∧ (0x26, SafePt.catch_) ∈ stagedOffs 0x0F5 ∧ (regD (diagPage 1) 0x26).isSome = true
    ∧ signChip.Authorized (req 0x3adf3c9615488cee498b110a58120b939a07e1d6ea80f6d0ba11e77b6a5757569a06002af9fb25a698cef1fd169b90bb) 0x90 ([0, 0x24] ++ toWords 2 9) installer 0
    ∧ (0x24, SafePt.commit) ∈ stagedOffs 0x0F4 ∧ (regD (diagPage 0) 0x24).isSome = true := by decide +kernel

theorem wit_diag_read : let buf := [2] ++ (toWords 2 8191 ++ toWords 2 16 ++ toWords 4 0x4000)
    let reg := [1] ++ (toWords 2 0x100 ++ toWords 2 4 ++ toWords 4 0x4000)
    let q := req 0x9fcef243180234dbec3d19109a60511b0ab056548b19e3544bb3c1fae65bc3eb4e9259232c4066529e50ef3c537a3b0f
    signChip.Authorized (req 0x29a5b565fca3bcd8c6cd17dcb47d93a0545d5ac5931da1421d5d6973e46e8502119398b7e7c7a53582ed654298cda0cd) 0x91 buf installer 0 ∧ 8191 < traceFrames
    ∧ signChip.ownsRange (some 5) 0x4000 16 = true ∧ signChip.Authorized q 0x91 reg installer 0
    ∧ ((signChip.accepted q 0 0x91 reg).diagRegs (diagPage 1) 0x100 ((4 + 1) / 2)).isSome = true := by decide +kernel

/-! ### Clocks, power, reset and start-up -/

/-- The chip in a state of its power. -/
def inPower (p : Power) : Chip := { signChip with power := p }

theorem wit_warm : (inPower { st := .safe }).power.st = .safe ∧ (inPower { st := .run }).power.faultDue = false
    ∧ (inPower { st := .run }).power.resetDue = none
    ∧ (inPower { st := .startup, faultDue := true }).power.faultDue = true
    ∧ (inPower { st := .run, resetDue := some 5 }).power.resetDue = some 5
    ∧ (next .warmReset { inPower { st := .run, resetDue := some 5 } with now := 5 }).fld 0x003 0x100 2 0 = 2
    ∧ (next .warmReset (inPower { st := .safe })).fld 0x003 0x100 2 0 = 1
    ∧ (next .firmwareWatchdogExpiry (inPower { st := .run })).fld 0x003 0x100 2 0 = 3
    ∧ (next .porReset chip).fld 0x000 0x104 5 3 = 7 ∧ keptReg (regKey 0x004 0x020) = false ∧ keptReg (regKey 0x007 0x102) = false
    ∧ ((next .tapReset chip).tapScan (.dr (List.replicate 32 false))).tap.tdo = bitList 32 0xB6400F9D
    ∧ (chip.setTap { ir := .highz }).testMode = true := by decide +kernel

/-- The chip on which a command is outstanding whose journal entry is the last one. -/
def outstanding (code : Nat) (p : Power) : Chip :=
  { inPower p with now := 5
                   roles := { creds with jseq := 2, ops := [⟨code, 5, 0, 0x1000, some 1, 0⟩]
                                         journal := [(0, {}), (1, { seq := 1, code := code, status := 0xFF })] } }

theorem wit_reset_done : let c := outstanding 0xA0 { st := .run, resetDue := some 5 }
    c.roles.ops = [⟨0xA0, 5, 0, 0x1000, some 1, 0⟩] ∧ 1 < c.roles.jseq ∧ (tget {} c.roles.journal (1 % journalRing)).seq = 1
    ∧ (tget {} (next .warmReset c).roles.journal 1).status = stDone := by decide +kernel

theorem wit_chip_reset : signChip.Authorized (req 0x3ed6f4725bcc2f6353b42f8f8e01375c03bfe6eca2903203714d101aec786b737e714615826a672677d050be4c29d707) 0xA0 [0] installer 0 := by decide +kernel

/-- The chip in a state of its power, with step CLOCKS ended and its monitors armed. -/
def clocked (c : Chip) (st : PwrSt) : Chip := { c with power := { st := st, ended := [4] } }

theorem wit_clocks : let c := clocked signChip .run
    let g := clocked (goChip {}) .startup
    let p := clocked portChip .safe
    let lostS := c.setFld 0x001 0x100 7 6 0
    c.monitored = true ∧ g.monitored = true ∧ p.monitored = true ∧ chip.monitored = false
    ∧ (next (.clockFault 0) c).fld 0x001 0x102 3 0 = 8 ∧ (next (.clockFault 4) c).power.st = .startup
    ∧ p.pltLink 0 = true ∧ (next (.clockFault 5) p).pltLink 0 = false
    ∧ g.inGo = true ∧ (next (.clockFault 6) g).pair.cause = 6
    ∧ lostS.monitored = true ∧ lostS.fld 0x001 0x100 6 6 = 0 ∧ (next (.serdesPllRelock false true) lostS).fld 0x001 0x100 6 6 = 1
    ∧ lostS.fld 0x001 0x100 7 7 = 0 ∧ (next (.serdesPllRelock true true) lostS).fld 0x001 0x100 7 7 = 1 := by decide +kernel

theorem wit_holdover : let h := inPower { st := .holdover, pfail := true }
    (next .holdoverEntry chip).power.st = .holdover ∧ (next (.powerGoodFall 2) chip).power.st = .holdover
    ∧ h.power.st = .holdover ∧ (next .holdoverExit h).power.ended = [0, 1, 2, 3]
    ∧ (next (.backupRailLoss true) h).power.st = .rom ∧ ((next (.backupRailLoss false) h).lp 0).lost = 0xFF
    ∧ (let o := outstanding 0x20 { st := .holdover, pfail := true }
       o.roles.ops = [⟨0x20, 5, 0, 0x1000, some 1, 0⟩] ∧ 1 < o.roles.jseq ∧ o.roles.jseq < 1 + journalRing
       ∧ (tget {} o.roles.journal (1 % journalRing)).seq = 1
       ∧ (tget {} (next .holdoverExit o).roles.journal 1).status = stInterrupted)
    ∧ (next .safeRetry (inPower { st := .safe })).power.ended = [0] := by decide +kernel

/-- The chip in start-up before a step. -/
def booting (k : Nat) : Chip :=
  { roles := creds, power := { st := if k = 0 then .rom else .startup, ended := List.range k } }

/-- A copy of the directory, with slot 0 active. -/
def dirCopy (ok : Bool) (seq : Pair) : DirCopy := ⟨ok, seq, 0, none⟩

theorem wit_boot_first : let f : Fuses := ⟨7, 0x1234, 2, 0x33, 1, 2⟩
    (booting 0).stepRuns 0 = true ∧ (booting 0).power.fused = false ∧ (next (.stepRom true f) (booting 0)).power.ended = [0]
    ∧ (booting 1).stepRuns 1 = true ∧ (next (.stepFlash ⟨false, dirCopy true 0, dirCopy true 0⟩) (booting 1)).power.st = .safe
    ∧ (next (.stepFlash ⟨true, dirCopy true 3, dirCopy true 4⟩) (booting 1)).power.fwActive = 0
    ∧ (next (.stepFlash ⟨true, { dirCopy true 4 with pending := some 1 }, dirCopy true 4⟩) (booting 1)).power.fwPend = some 1
    ∧ (next (.stepFlash ⟨true, dirCopy true 3, { dirCopy true 4 with active := 1 }⟩) (booting 1)).power.fwActive = 1
    ∧ (next (.stepFlash ⟨true, dirCopy false 9, { dirCopy true 4 with active := 1 }⟩) (booting 1)).power.fwActive = 1
    ∧ (next (.stepFlash ⟨true, dirCopy false 9, dirCopy false 9⟩) (booting 1)).power.st = .safe
    ∧ (let again := { booting 1 with power := { (booting 1).power with dirRead := true, fwPend := some 1 } }
       again.stepRuns 1 = true ∧ again.power.dirRead = true
       ∧ (next (.stepFlash ⟨true, dirCopy true 3, dirCopy true 4⟩) again).power.fwPend = some 1)
    ∧ (booting 4).stepRuns 4 = true ∧ (next (.stepClocks 0x3E) (booting 4)).power.st = .safe := by decide +kernel

theorem wit_firmware_step : let c := fun pend : Option Nat => { booting 2 with power := { (booting 2).power with fwPend := pend } }
    (∀ q ∈ [none, some 1], (c q).signedBy 3 ((c q).fwSlot 0 fwImg []) = true ∧ (c q).signedBy 3 ((c q).fwSlot 1 fwImg []) = false
      ∧ (c q).signedBy 3 ((c q).fwSlot 1 [] fwImg) = true ∧ (c q).power.fwActive = 0)
    ∧ (c (some 1)).stepRuns 2 = true ∧ (c (some 1)).afterPor = true ∧ (c none).stepRuns 2 = true ∧ (c none).afterPor = true
    ∧ (next (.stepFirmware [] fwImg) (c (some 1))).power.fwActive = 1
    ∧ (next (.stepFirmware [] fwImg) (c none)).power.fwActive = 1
    ∧ (next (.stepFirmware fwImg []) (c (some 1))).power.fwActive = 0
    ∧ (next (.stepFirmware [] []) (c none)).power.st = .safe := by decide +kernel

/-- BOOTPARM that the installer signed. -/
def parmImg : List Word := [0x0, 0x0, 0x0, 0x0, 0x0, 0x0, 0x0, 0x0, 0x11, 0x0, 0x302b, 0x4303, 0xfd6f, 0x5850, 0x3fb4, 0xd84e,
  0xf2e4, 0x7500, 0x5db9, 0xc3ed, 0xcd36, 0xa44e, 0xfbe8, 0x4608, 0x240f, 0x6c66, 0x191f, 0x1be5, 0xef07, 0x70c1, 0x794c,
  0x1160, 0xe1db, 0x7ae9, 0x70c2, 0xbb8e, 0xa220, 0xeef, 0xede2, 0xbe8, 0x79d7, 0xb803, 0x9db, 0x465f, 0x86de, 0x1671, 0xeba1,
  0x7bc1, 0xffa, 0x90a0, 0x500a, 0x6892, 0x1071, 0x5bd7, 0xe145, 0x125a, 0x2766, 0x5d9a]

theorem wit_credentials_step : let b : BootCreds := ⟨List.replicate 16 ⟨2, 0x11, 1, 2⟩, 0x99, 5, 6, true, 3, 3, parmImg, true⟩
    let read := { booting 3 with power := { (booting 3).power with credsRead := true } }
    (booting 3).stepRuns 3 = true ∧ b.chainOk = true ∧ (booting 3).power.credsRead = false ∧ b.slots.length = 16
    ∧ read.stepRuns 3 = true ∧ read.power.credsRead = true ∧ read.signedBy 2 parmImg = true ∧ read.signedBy 2 [] = false := by decide +kernel

theorem wit_boot_ports : let w := booting 7
    (booting 5).stepRuns 5 = true ∧ (booting 6).stepRuns 6 = true ∧ (booting 6).afterPor = true
    ∧ (booting 7).stepRuns 7 = true ∧ w.afterPor = true ∧ imageForm false webImg = true ∧ w.signedBy 2 webImg = true
    ∧ imageForm true dklImg = true ∧ w.signedBy 2 dklImg = true ∧ (booting 8).stepRuns 8 = true
    ∧ (next (.stepQdr 7) (booting 5)).power.st = .safe
    ∧ ((booting 6).loadTraining (lpdPage 0)).masksDiffer 1 = false
    ∧ (let d := { booting 6 with captured := [(regKey (lpdPage 1) 0x022, 2 ^ 7 + 1)] }
       d.stepRuns 6 = true ∧ d.afterPor = true ∧ (d.loadTraining (lpdPage 0)).masksDiffer 1 = true)
    ∧ (booting 8).signedBy 2 parmImg = true ∧ (booting 8).signedBy 2 [] = false
    ∧ (next (.stepField ⟨parmImg, [⟨31, 5, 6, 7, 8, true⟩]⟩) (booting 8)).live (fpPage 31) 0x032 = 6 := by decide +kernel

theorem wit_boot_plant : let c := (booting 9).setFld 0x004 0x100 3 3 1
    let g := { booting 9 with pair := { st := .attention } }
    c.stepRuns 9 = true ∧ c.fld (pltPage 0) 0x020 1 1 = 0 ∧ c.fld (pltPage 1) 0x020 1 1 = 0 ∧ c.fld 0x004 0x100 3 3 = 1
    ∧ g.pair.st = .attention ∧ g.stepRuns 9 = true ∧ (next (.stepPlant 5) c).live 0x005 0x18E = 0
    ∧ (next (.stepPlant 5) g).live 0x005 0x18E = 2 ∧ g.planHolds = false := by decide +kernel

/-- A plan of one party, signed by the installer. -/
def planImg : List Word := [0x524b, 0x5354, 0x0, 0x1, 0x7, 0x0, 0x1, 0x0, 0x7c, 0x0, 0x3e7, 0x0, 0x0, 0x0, 0x0, 0x0, 0x0, 0x0,
  0x1, 0x0, 0x0, 0x0, 0x0, 0x0, 0x0, 0x0, 0x0, 0x0, 0x0, 0x0, 0x0, 0x0, 0x0, 0x0, 0x0, 0x0, 0x0, 0x0, 0x0, 0x0, 0x0, 0x0, 0x0,
  0x0, 0x0, 0x0, 0x0, 0x0, 0x0, 0x0, 0x0, 0x0, 0x0, 0x0, 0x0, 0x0, 0x0, 0x0, 0x0, 0x0, 0x0, 0x0, 0x0, 0x0, 0x1, 0x0, 0x48, 0x0,
  0x1, 0x0, 0x0, 0x0, 0x85, 0x0, 0x11, 0x0, 0x302b, 0x4303, 0xfd6f, 0x5850, 0x3fb4, 0xd84e, 0xf2e4, 0x7500, 0x5db9, 0xc3ed,
  0xcd36, 0xa44e, 0xfbe8, 0x4608, 0x240f, 0x6c66, 0x191f, 0x1be5, 0xef07, 0x70c1, 0x794c, 0x1160, 0xe1db, 0x7ae9, 0x2a5,
  0xdba6, 0x152f, 0x375d, 0x6be, 0x458c, 0x9b31, 0x9fbc, 0x5d1d, 0x7d0b, 0xcfde, 0x44c3, 0xc473, 0xab22, 0x3d06, 0x87ec,
  0xd515, 0x4491, 0xc3a1, 0x4c20, 0xbfb0, 0x6439, 0xb7d9, 0x632d]

theorem wit_admit : (booting 10).stepRuns 10 = true ∧ (booting 10).firstImage planImg = (planImg, 0)
    ∧ (booting 10).planFault planImg true = none ∧ (booting 10).planFault [] true = some (1, 0xFFF0, 0) := by decide +kernel

theorem wit_pair_step : let c := (booting 11).setFld 0x005 0x114 0 0 1
    (booting 11).stepRuns 11 = true ∧ (booting 11).fld 0x005 0x114 0 0 = 0 ∧ c.stepRuns 11 = true ∧ c.fld 0x005 0x114 0 0 = 1
    ∧ c.pair.goAt = none ∧ c.inGo = false := by decide +kernel

theorem wit_release : let c := { booting 12 with bankA := { st := .admitted, plan := some plan }, eights := [(0, { pwr := .on }), (1, { pwr := .on })] }
    c.stepRuns 12 = true ∧ c.bankA.plan = some plan ∧ c.power.releasing = false ∧ c.pair.goAt = none ∧ plan.stroke ≠ 0
    ∧ (List.range 8).all (fun e => !plan.usesEight e || decide ((c.eight e).pwr = .on)) = true
    ∧ (next .stepRelease c).armedAt = some 1000000
    ∧ (∀ t ∈ [5, 2000000], ∀ a, let g := { c with pair := { goAt := some t, active := a }, armedAt := some t }
        g.stepRuns 12 = true ∧ g.bankA.plan = some plan ∧ g.power.releasing = false ∧ g.pair.goAt = some t ∧ g.armedAt = some t
        ∧ g.pair.active = a ∧ (g.now + 1000000 ≤ t ↔ t = 2000000)
        ∧ (next .stepRelease g).armedAt = some (if a && t == 5 then 1000000 else t)) := by decide +kernel

/-! ### Register space -/

theorem wit_go_write : let c := chip.setStaged 0x0F5 0x026 77
    c.MayWrite 64 0x0F5 0x00C rL ∧ (0x026, SafePt.catch_) ∈ stagedOffs 0x0F5 ∧ trcBanked 0x0F5 0x026 = false
    ∧ c.loadsNow .catch_ = false ∧ tget 0 (next (.commitGo 64 0x0F5) c).captured (regKey 0x0F5 0x026) = 78 := by decide +kernel

theorem wit_safe_point : let c := { next (.commitGo 64 0x0F5) (chip.setStaged 0x0F5 0x026 77) with now := 20 }
    tget 0 c.captured (regKey 0x0F5 0x026) = 77 + 1 ∧ (tget ({} : Capture) c.caps 0x0F5).at_ = 0
    ∧ (next (.safePointLoad 0x0F5 .catch_) c).live 0x0F5 0x026 = 77
    ∧ (next (.safePointLoad 0x0F5 .catch_) { c with now := 19 }).live 0x0F5 0x026 = 50000 := by decide +kernel

theorem wit_inject : chip.MayWrite 64 0x0E8 0x012 rL ∧ chip.debugOpen = true ∧ (pageBlk 0x0E8).isSome = true
    ∧ (next (.errinjArm 64 0x0E8 2) chip).armed 0x0E8 = some 2 := by decide +kernel

theorem wit_reg_read : let c := chip.setLive 0x0E0 0x102 7
    c.Reaches 64 0x0E0 0x102 rL ∧ (regD 0x0E0 0x102).isSome = true ∧ (next (.rcRead 64 0x0E0 0x102) c).reply = 7 := by
  decide +kernel

theorem wit_reg_write : let c := chip.setLive 0x0E0 0x106 8
    c.MayWrite 64 0x0E0 0x106 rL ∧ ((regD 0x0E0 0x106).map RegD.isStaged) = some false
    ∧ (next (.registerWrite 64 0x0E0 0x106 0xFFFF_FFFF) c).live 0x0E0 0x106 = 0
    ∧ c.MayWrite 64 0x0F1 0x3FE rL ∧ ((regD 0x0F1 0x3FE).map RegD.isStaged) = some true
    ∧ (next (.registerWrite 64 0x0F1 0x3FE 1) c).stagedVal 0x0F1 0x3FE = 1
    ∧ c.MayWrite 64 0x0F1 0x1FE rL ∧ regD 0x0F1 0x1FE = none
    ∧ bitN ((next (.registerWrite 64 0x0F1 0x1FE 1) c).live 0x0F1 0x00E) 1 = true := by decide +kernel

/-! ### Ill-formed terms that the checks refuse -/

theorem test_wf_alu : (Instr.aluOperation 0 true { oAlu with sz := .quad }).wf = false
    ∧ (Instr.aluOperation 0 false ⟨.word, true, .and, 1, 2, 3⟩).wf = true
    ∧ (Instr.aluOperation 0 false ⟨.pair, false, .add, 32, 2, 3⟩).wf = false := by decide

theorem test_wf_imm : (Instr.immediateOperation 0 true { oImm with sz := .quad }).wf = false
    ∧ (Instr.immediateOperation 0 false { oImm with imm := 64 }).wf = false
    ∧ (Instr.immediateOperation 0 false ⟨.cmpi, .word, 1, 2, 3⟩).wf = false := by decide

theorem test_wf_movi : (Instr.movi 0 true ⟨3, 0, 0⟩).wf = false ∧ (Instr.movi 0 true ⟨2, 32, 0⟩).wf = false := by decide

theorem test_wf_memory : (Instr.load 0 { oLm .oct with t := 16 }).wf = false ∧ (Instr.store 0 { oLm .pair with t := 32 }).wf = false
    ∧ (Instr.lseg 0 0 1).wf = false := by decide

theorem test_wf_mul : (Instr.mul 0 ⟨.mulw, .quad, 15, 1, 1⟩).wf = false ∧ (Instr.div 0 ⟨.div, .pair, 32, 1, 1⟩).wf = false
    ∧ (Instr.mulq15 0 ⟨true, false, 32, 1, 1⟩).wf = false := by decide

/-- A binary64 register beyond Y15. -/
def badFp : FpOp := ⟨.d, 16, 1, 2⟩

theorem test_wf_fp : ∀ i ∈ ([.fadd 0 badFp, .fsub 0 badFp, .fmul 0 badFp, .fmin 0 badFp, .fmax 0 badFp, .fneg 0 badFp,
      .fabs 0 badFp, .fcmp 0 { badFp with s1 := 16 }, .fcmps 0 { badFp with s2 := 16 }, .fclass 0 { badFp with s1 := 16 }, .frec 0 badFp, .frsq 0 badFp,
      .fma 0 ⟨.d, 16, 1, 2, 3⟩, .fmsb 0 ⟨.d, 1, 1, 2, 16⟩, .fcvt 0 ⟨.f64, .f32, 16, 2, false⟩] : List Instr), i.wf = false := by decide

theorem test_wf_sweep : (Instr.sweepLaneOperation 0 ⟨.vbcst, 0, 1, 0, 3, 0⟩).wf = false := by decide

theorem test_wf_control : (Instr.mfc 0 0x7F 1).wf = false ∧ (Instr.mtc 0 0x7F 1).wf = false ∧ (Instr.mbar 0 0).wf = false := by
  decide

theorem test_wf_block : (Instr.flitPlacement 0 0 ⟨0, some { flitArg true with dst := 0 }⟩).wf = false
    ∧ (Instr.flitPlacement 0 0 ⟨1, some (flitArg true)⟩).wf = false
    ∧ (Instr.responseTimeout ⟨0, 3, 0, 0, .other (.block 3)⟩).wf = false
    ∧ (Instr.lpddrRead ⟨.unit 0, none, lpdA - 1, .ok, false, .ok, false⟩).wf = false
    ∧ (Instr.lpddrWrite ⟨.unit 0, none, 0, .word, 0, .ok, .ok⟩).wf = false ∧ (Instr.safePointLoad 0 .none_).wf = false
    ∧ (Instr.rcRead 0 0 1).wf = false ∧ (Instr.registerWrite 0 0 3 0).wf = false := by decide

theorem test_wf_mirror (q : Req) : (Instr.pairMirror q 0 0 0 0 (List.replicate 65536 0)).wf = false := by
  simp only [Instr.wf, List.length_replicate]; rfl

/-! ### Operation words, by R93, R96 to R98, R101, R102, R104, R110, R112, R113, R117, R119, R123 -/

/-- A word of fields, each with its lowest bit. -/
def fields (l : List (Nat × Nat)) : Pair := BitVec.ofNat 32 (l.map (fun q => q.1 * 2 ^ q.2)).sum

theorem test_decode_alu : decodeOp .a (fields [(1, 26), (14, 20), (4, 14), (6, 8), (2, 6), (1, 5), (2, 0)])
      = some (.alu ⟨.quad, true, .sub, 14, 4, 6⟩)
    ∧ decodeOp .b (fields [(1, 26), (14, 20), (4, 14), (6, 8), (2, 6), (1, 5), (2, 0)]) = none
    ∧ decodeOp .b (fields [(2, 26), (3, 20), (4, 14), (1, 12), (0xFFF, 0)]) = some (.imm ⟨.addi, .pair, 3, 4, 0xFFF⟩)
    ∧ decodeOp .a (fields [(0x0A, 26), (9, 20), (2, 18), (0xABCD, 0)]) = some (.movi ⟨2, 9, 0xABCD⟩) := by decide

theorem test_decode_branch : decodeOp .b (fields [(0x10, 26), (0x3FF_FFFE, 0)]) = some (.br 0x3FF_FFFE)
    ∧ decodeOp .b (fields [(0x11, 26), (12, 22), (5, 0)]) = some (.bc .gt 5)
    ∧ decodeOp .a (fields [(0x10, 26)]) = none ∧ decodeOp .b (fields [(0x1A, 26), (1, 25), (0x61, 18), (7, 12)]) = some (.mtc 0x61 7)
    ∧ decodeOp .b (fields [(0x1A, 26), (1, 17)]) = none := by decide

theorem test_decode_memory : decodeOp .l (fields [(4, 26), (8, 20), (3, 14), (1, 13), (1, 10), (1, 9), (0x1F8, 0)])
      = some (.load ⟨.oct, 8, 3, true, 1, true, 0x1F8⟩)
    ∧ decodeOp .l (fields [(4, 26), (16, 20), (3, 14), (1, 10)]) = none
    ∧ decodeOp .l (fields [(5, 26), (63, 20), (62, 14), (7, 10), (1, 0)]) = some (.store ⟨.word, 63, 62, false, 7, false, 1⟩)
    ∧ decodeOp .l (fields [(9, 26), (3, 21), (2, 16), (5, 13), (6, 10), (1, 9)]) = some (.movo ⟨3, 2, 5, 6, true⟩) := by decide

theorem test_decode_m : decodeOp .m (fields [(1, 26), (5, 20), (6, 14), (7, 8), (0x0A, 0)]) = some (.div ⟨.rem, .word, 5, 6, 7⟩)
    ∧ decodeOp .m (fields [(8, 26), (5, 20), (6, 14), (1, 6), (0x0C, 0)]) = some (.fp .frec ⟨.s, 5, 6, 0⟩)
    ∧ decodeOp .m (fields [(9, 26), (5, 20), (6, 14), (7, 8), (8, 2), (1, 0)]) = some (.fma false ⟨.s, 5, 6, 7, 8⟩)
    ∧ decodeOp .m (fields [(0x3F, 26), (1, 0)]) = some (.emul 0xFC00_0001) ∧ decodeOp .m 0 = some .nop := by decide

/-! ### Worked examples of the spec -/

/-- Registers with binary32 values in X1, X2 and X3. -/
def fpArch (x y z : Nat) : Arch :=
  { w := [(2, BitVec.ofNat 16 x), (3, BitVec.ofNat 16 (x / 2 ^ 16)), (4, BitVec.ofNat 16 y), (5, BitVec.ofNat 16 (y / 2 ^ 16)),
          (6, BitVec.ofNat 16 z), (7, BitVec.ofNat 16 (z / 2 ^ 16))] }

/-- The value a list of writes leaves in X9. -/
def toX9 (ws : List LWrite) : Nat :=
  (ws.filterMap (fun
    | .w 18 v => some v.toNat
    | .w 19 v => some (v.toNat * 2 ^ 16)
    | _ => none)).sum

/-- "Example: 1.0 / 3.0 in binary32": the estimate, e0, y1, e1, y2 and r. -/
theorem test_reciprocal : toX9 (fpWrites (fpArch 0x4040_0000 0 0) .frec ⟨.s, 9, 1, 0⟩) = 0x3EAA_0000
    ∧ toX9 (fmaWrites (fpArch 0x4040_0000 0x3EAA_0000 0x3F80_0000) true ⟨.s, 9, 1, 2, 3⟩) = 0x3B80_0000
    ∧ toX9 (fmaWrites (fpArch 0x3EAA_0000 0x3B80_0000 0x3EAA_0000) false ⟨.s, 9, 1, 2, 3⟩) = 0x3EAA_AA00
    ∧ toX9 (fmaWrites (fpArch 0x3EAA_AA00 0x3780_0000 0x3EAA_AA00) false ⟨.s, 9, 1, 2, 3⟩) = 0x3EAA_AAAB
    ∧ toX9 (fmaWrites (fpArch 0x4040_0000 0x3EAA_AAAB 0x3F80_0000) true ⟨.s, 9, 1, 2, 3⟩) = 0xB300_0000 := by decide +kernel

/-- R65: MUL W3 issues in cycle 0, ADD W3 in cycle 1; then ADD in cycle 2. -/
theorem test_landing_order : let go := fun (n : Nat) (l : List Landing) =>
      ((next (.resultLanding 0) (inWin true (fun p => { p with cycle := n, fly := l }))).pipe 0).arch.rw 3
    go 1 [⟨1, 1, 0, .w 3 7⟩, ⟨2, 0, 2, .w 3 9⟩] = 7 ∧ go 2 [⟨2, 0, 2, .w 3 9⟩] = 9
    ∧ go 2 [⟨2, 0, 2, .w 3 9⟩, ⟨2, 2, 0, .w 3 7⟩] = 7 := by decide +kernel

/-- R29: dividers 4 and 6 with phases 1 and 2, and 1 and 3. -/
theorem test_dividers : everMeet 4 1 6 2 = false ∧ everMeet 4 1 6 3 = true ∧ runsIn 3 1 9 = true ∧ runsIn 5 3 9 = true := by decide

/-- "Example: a history line in bulk memory": the device line of offset 0x2340_1F40. -/
theorem test_device_line : lpdLine (lpdBase + 0x2340_1F40) = 0x011A_00FA ∧ deviceLine 0x011A_00FA = 0x142_4A42
    ∧ lpdChannel 0x142_4A42 = 2 := by decide

/-- "Example: a 250 µs finishing-stand stroke": the seats of eight 2, the lane engine and QDR1, party 5's window on channel 1, and
the gap window of core 20 whose valve command lane 9 delivers to FP11. -/
def standPlan : Plan :=
  let none_ : SeatE := ⟨0, 0, 0, 0, false⟩
  let frame (ss : List SeatE) : List SeatE := (List.range 512).map (fun k => ss.getD (k % 64) none_)
  { stroke := 250
    seats := [(0, frame [⟨2, 9, 0, 5, true⟩, ⟨9, 14, 1, 5, true⟩, ⟨14, 16, 0, 5, true⟩]), (1, frame [⟨14, 9, 0, 5, true⟩, ⟨16, 14, 2, 5, true⟩])]
    qwins := [(1, [⟨500, 300, 5, 3⟩])]
    wins := [(20, [{ start := 520, length := 198, guard := 1, party := 5 }])]
    accs := [(20, [{ window := 0, ch := 1, wr := true, first := 0, span := 0 }])]
    conns := [⟨2, 9, 20, 0, 0, 0⟩, ⟨3, 9, 0, 1, 11, 0⟩] }

/-- The example's sums: 345.19 ns from the sample to QDR, which is 18 granules; 695.57 ns from the window to the valve, which is 35 granules, so transmit instant 751 comes too soon and 752 does not. -/
theorem test_stroke_example : (standPlan.depsOf 11).map standPlan.depGranules = [some 35]
    ∧ (standPlan.depsOf 11).map (fun d => (standPlan.depArrival d).map (· - 717 * granUnits)) = [some 69557]
    ∧ (standPlan.sampleArrival 5 1 ⟨500, false, 0, 0, 8, none⟩).map (· - 500 * granUnits) = some 34519
    ∧ sumGranules ⟨500, 0, 0⟩ (standPlan.sampleArrival 5 1 ⟨500, false, 0, 0, 8, none⟩) = some 18
    ∧ standPlan.depsMet 11 ⟨751, true, 0, 0, 9, none⟩ = false ∧ standPlan.depsMet 11 ⟨752, true, 0, 0, 9, none⟩ = true := by
  decide +kernel

/-- AES-256 of FIPS 197, its example vector: the cipher of LPDDR (R333). -/
theorem test_aes : aesEnc (List.range 32) ((List.range 16).map (· * 17))
    = [0x8E, 0xA2, 0xB7, 0xCA, 0x51, 0x67, 0x45, 0xBF, 0xEA, 0xFC, 0x49, 0x90, 0x4B, 0x49, 0x60, 0x89] := by decide +kernel

end Sys2Proof.Tests
end

section
/-! PROOFS. Fields of a number and of a register: a field read after a write of the same or of another field, and the registers
that a reset leaves out of the register file. -/

namespace Sys2Proof.Machine

/-! ### Bit fields -/

theorem testBit_bits (x h l i : Nat) : (bits x h l).testBit i = (decide (i < h + 1 - l) && x.testBit (l + i)) := by
  rw [bits, Nat.testBit_mod_two_pow, Nat.testBit_shiftRight]

/-- A number with a field replaced is what stands above the field, the field, and what stands below it. -/
theorem setBits_eq (x h l v : Nat) :
    setBits x h l v = 2 ^ l * (2 ^ (h + 1 - l) * (x >>> l / 2 ^ (h + 1 - l)) + v % 2 ^ (h + 1 - l)) + x % 2 ^ l := by
  have hx : x = 2 ^ l * (2 ^ (h + 1 - l) * (x >>> l / 2 ^ (h + 1 - l)) + bits x h l) + x % 2 ^ l := by
    rw [bits, Nat.div_add_mod, Nat.shiftRight_eq_div_pow, Nat.div_add_mod]
  generalize hq : 2 ^ (h + 1 - l) * (x >>> l / 2 ^ (h + 1 - l)) = q at hx ⊢
  simp only [setBits, Nat.shiftLeft_eq, Nat.mul_comm _ (2 ^ l)]
  rw [Nat.mul_add] at hx ⊢
  omega

theorem testBit_setBits (x h l v i : Nat) :
    (setBits x h l v).testBit i = if l ≤ i ∧ i < l + (h + 1 - l) then v.testBit (i - l) else x.testBit i := by
  rw [setBits_eq, Nat.testBit_two_pow_mul_add _ (Nat.mod_lt _ (Nat.two_pow_pos l)),
    Nat.testBit_two_pow_mul_add _ (Nat.mod_lt _ (Nat.two_pow_pos _))]
  by_cases hl : i < l
  · rw [if_pos hl, if_neg (by omega), Nat.testBit_mod_two_pow]
    simp [hl]
  · rw [if_neg hl]
    by_cases hh : i - l < h + 1 - l
    · rw [if_pos hh, if_pos (by omega), Nat.testBit_mod_two_pow]
      simp [hh]
    · rw [if_neg hh, if_neg (by omega), Nat.testBit_div_two_pow, Nat.testBit_shiftRight]
      congr 1; omega

/-- The field just written holds the low bits of the value. -/
@[simp] theorem bits_setBits_same (x h l v : Nat) : bits (setBits x h l v) h l = v % 2 ^ (h + 1 - l) := by
  refine Nat.eq_of_testBit_eq fun i => ?_
  rw [testBit_bits, testBit_setBits, Nat.testBit_mod_two_pow]
  by_cases hi : i < h + 1 - l
  · rw [if_pos (by omega), Nat.add_sub_cancel_left]
  · simp [hi]

/-- A field above or below the one written keeps what it holds. -/
theorem bits_setBits_disjoint (x h l v h' l' : Nat) (hd : h < l' ∨ h' < l) : bits (setBits x h l v) h' l' = bits x h' l' := by
  refine Nat.eq_of_testBit_eq fun i => ?_
  rw [testBit_bits, testBit_bits, testBit_setBits]
  by_cases hi : i < h' + 1 - l'
  · rw [if_neg (by omega)]
  · simp [hi]

theorem bits_lt (x h l : Nat) : bits x h l < 2 ^ (h + 1 - l) := Nat.mod_lt _ (Nat.two_pow_pos _)

/-! ### Fields of registers -/

@[simp] theorem Chip.fld_setFld_same (c : Chip) (pg off h l v : Nat) :
    (c.setFld pg off h l v).fld pg off h l = v % 2 ^ (h + 1 - l) := by
  simp [Chip.fld, Chip.setFld]

theorem Chip.fld_setFld_disjoint (c : Chip) (pg off h l v h' l' : Nat) (hd : h < l' ∨ h' < l) :
    (c.setFld pg off h l v).fld pg off h' l' = c.fld pg off h' l' := by
  simp [Chip.fld, Chip.setFld, bits_setBits_disjoint _ _ _ _ _ _ hd]

theorem Chip.live_setFld_ne (c : Chip) (pg off h l v q o : Nat) (hk : regKey q o ≠ regKey pg off) :
    (c.setFld pg off h l v).live q o = c.live q o := c.live_setLive_ne pg off _ q o hk

theorem Chip.live_bumpFld_ne (c : Chip) (pg off h l q o : Nat) (hk : regKey q o ≠ regKey pg off) :
    (c.bumpFld pg off h l).live q o = c.live q o := by
  unfold Chip.bumpFld
  dsimp only
  split
  · exact c.live_setFld_ne pg off h l _ q o hk
  · rfl

/-- A counting field holds at its largest value. -/
theorem Chip.fld_bumpFld_same (c : Chip) (pg off h l : Nat) :
    (c.bumpFld pg off h l).fld pg off h l = Nat.min (2 ^ (h + 1 - l) - 1) (c.fld pg off h l + 1) := by
  have hlt : c.fld pg off h l < 2 ^ (h + 1 - l) := bits_lt _ h l
  unfold Chip.bumpFld
  dsimp only
  split
  next hv =>
    rw [Chip.fld_setFld_same, Nat.mod_eq_of_lt hv]
    exact (Nat.min_eq_right (by omega)).symm
  next hv => exact ((Nat.min_eq_left (by omega)).trans (by omega)).symm

/-! ### Tables with entries left out -/

/-- A table from which entries were left out by their keys. -/
theorem tget_filter_key {α : Type} (d : α) (t : Tbl α) (p : Nat → Bool) (k : Nat) :
    tget d (t.filter (fun e => p e.1)) k = if p k then tget d t k else d := by
  induction t with
  | nil => simp [tget]
  | cons x t ih =>
    obtain ⟨j, y⟩ := x
    rw [List.filter_cons]
    by_cases hj : j = k
    · subst hj
      by_cases hp : p j <;> simp [hp, tget, ih]
    · by_cases hp : p j <;> simp [hp, tget, hj, ih]

theorem tget_tclear {α : Type} (d : α) (t : Tbl α) (lo n k : Nat) :
    tget d (tclear t lo n) k = if k < lo ∨ lo + n ≤ k then tget d t k else d := by
  rw [tclear, tget_filter_key d t (fun k => k < lo || lo + n ≤ k)]
  simp

/-- A register that the register file does not hold reads its reset value. -/
theorem Chip.live_of_regs_nil {c : Chip} (h : c.regs = []) (pg off : Nat) : c.live pg off = regReset pg off := by
  rw [Chip.live, h, tget]

end Sys2Proof.Machine
end

section
/-! PROOFS. What the operations that resets are made of change: stopping the ports and links, clearing the main domain,
resuming start-up, writing the final STATUS of a journal entry, and accepting a role command. -/

namespace Sys2Proof.Machine

/-- A command that changes the chip alone completes with what the changed chip meets. -/
theorem completes_of_does {i : Instr} {s : State} {f : Chip → Chip} {P : Chip → Prop} (h : exec i s = s.does f)
    (hp : P (f s.chip)) : Completes i s P := ⟨_, h, rfl, hp⟩

/-! ### Stopping the ports and links (R429, steps 1 to 3) -/

/-- Between two chips only pipelines, ports, the pair link, events and the state of the LPDDR controllers may differ, and the
status registers of ports and of TB. -/
def Chip.StopsPorts (c d : Chip) : Prop :=
  d = { c with pipes := d.pipes, strokeOn := d.strokeOn, regs := d.regs, fp := d.fp, plt := d.plt, pair := d.pair
               hub := d.hub, ext := d.ext }
  ∧ (∀ pg off, off < 0x800 → (off < 0x100 ∨ pg ≠ 0x004 ∧ pg < 0x0F1) → d.live pg off = c.live pg off)

namespace Chip.StopsPorts

theorem refl (c : Chip) : c.StopsPorts c := ⟨rfl, fun _ _ _ _ => rfl⟩

theorem trans {c d e : Chip} (h : c.StopsPorts d) (k : d.StopsPorts e) : c.StopsPorts e := by
  obtain ⟨hd, hreg⟩ := h
  obtain ⟨he, kreg⟩ := k
  refine ⟨?_, fun pg off ho hp => (kreg pg off ho hp).trans (hreg pg off ho hp)⟩
  rw [he, hd]

theorem foldl {β : Type} (f : Chip → β → Chip) (hf : ∀ (c : Chip) (b : β), c.StopsPorts (f c b)) (l : List β) (c : Chip) :
    c.StopsPorts (l.foldl f c) := by
  induction l generalizing c with
  | nil => exact refl c
  | cons b l ih => exact (hf c b).trans (ih _)

theorem raise (c : Chip) (n : Nat) : c.StopsPorts (c.raise n) := ⟨rfl, fun _ _ _ _ => rfl⟩

theorem setFport (c : Chip) (n : Nat) (p : FPort) : c.StopsPorts (c.setFport n p) := ⟨rfl, fun _ _ _ _ => rfl⟩

theorem setPport (c : Chip) (k : Nat) (p : PPort) : c.StopsPorts (c.setPport k p) := ⟨rfl, fun _ _ _ _ => rfl⟩

theorem setLp (c : Chip) (k : Nat) (l : Lpd) : c.StopsPorts (c.setLp k l) := ⟨rfl, fun _ _ _ _ => rfl⟩

theorem pairDrop (c : Chip) (cause : Nat) : c.StopsPorts (c.pairDrop cause) := ⟨rfl, fun _ _ _ _ => rfl⟩

/-- A status register of a port page or of TB is written. -/
theorem setFld (c : Chip) (pg off h l v : Nat) (ho : 0x100 ≤ off) (h8 : off < 0x800) (hp : pg = 0x004 ∨ 0x0F1 ≤ pg) :
    c.StopsPorts (c.setFld pg off h l v) :=
  ⟨rfl, fun q o ho' hq => c.live_setFld_ne pg off h l v q o (regKey_ne q o pg off ho' h8 (by omega))⟩

theorem bumpFld (c : Chip) (pg off h l : Nat) (ho : 0x100 ≤ off) (h8 : off < 0x800) (hp : pg = 0x004 ∨ 0x0F1 ≤ pg) :
    c.StopsPorts (c.bumpFld pg off h l) := by
  unfold Chip.bumpFld
  dsimp only
  split
  · exact setFld c pg off h l _ ho h8 hp
  · exact refl c

theorem linkDown (c : Chip) (n : Nat) : c.StopsPorts (c.linkDown n) :=
  (setFld c (fpPage n) 0x100 0 0 0 (by omega) (by omega) (by unfold fpPage; omega)).trans (setFport _ n _)

theorem trip (c : Chip) (n cause : Nat) : c.StopsPorts (c.trip n cause) := by
  have hp : fpPage n = 0x004 ∨ 0x0F1 ≤ fpPage n := by unfold fpPage; omega
  exact (linkDown c n).trans <| (setFport _ n _).trans <|
    (setFld _ (fpPage n) 0x100 7 5 cause (by omega) (by omega) hp).trans <|
    (bumpFld _ (fpPage n) 0x100 15 9 (by omega) (by omega) hp).trans <| (raise _ _).trans (raise _ _)

theorem showGptp (c : Chip) (k x : Nat) : c.StopsPorts (c.showGptp k x) := by
  have hd := setFld c (pltPage k) 0x100 4 3 x (by omega) (by omega) (by unfold pltPage; omega)
  unfold Chip.showGptp
  dsimp only
  split
  · exact hd
  · exact hd.trans (raise _ _)

theorem runGptp (c : Chip) : c.StopsPorts c.runGptp :=
  (showGptp c 0 _).trans <| (showGptp _ 1 _).trans (setFld _ 0x004 0x100 2 2 _ (by omega) (by omega) (.inl rfl))

theorem pltDown (c : Chip) (k : Nat) : c.StopsPorts (c.pltDown k) := by
  unfold Chip.pltDown
  split
  · exact refl c
  · exact (setFld c (pltPage k) 0x100 0 0 0 (by omega) (by omega) (by unfold pltPage; omega)).trans <|
      (setPport _ k _).trans <| (raise _ _).trans (runGptp _)

theorem stopAll (c : Chip) (both : Bool) : c.StopsPorts (c.stopAll both) := by
  have hfield (d : Chip) (n : Nat) : d.StopsPorts (if (d.fport n).closed then d.trip n 0 else d.linkDown n) := by
    split
    · exact trip d n 0
    · exact linkDown d n
  unfold Chip.stopAll
  extract_lets stopped field plant pair
  have hstopped : c.StopsPorts stopped := ⟨rfl, fun _ _ _ _ => rfl⟩
  have hfields : stopped.StopsPorts field := foldl _ hfield _ _
  have hplant : field.StopsPorts plant := foldl _ pltDown _ _
  have hpair : plant.StopsPorts pair := by
    unfold pair
    split
    · exact refl plant
    · exact pairDrop plant 6
  exact hstopped.trans <| hfields.trans <| hplant.trans <| hpair.trans <| (setLp _ 0 _).trans (setLp _ 1 _)

end Chip.StopsPorts

/-! ### Clearing the main domain (R434, R435) -/

theorem Chip.cleared_clearMain (c : Chip) : c.clearMain.Cleared := by
  refine ⟨rfl, rfl, rfl, rfl, rfl, rfl, rfl, rfl, rfl, rfl, rfl, rfl, rfl, rfl, rfl, fun a ha => ?_⟩
  have hqdr : tget (0 : Byte) (tclear c.mem 0 (2 * qdrEnd)) a = 0 := by rw [tget_tclear, if_neg (by omega)]
  show tget _ (tclear (tclear c.mem 0 (2 * qdrEnd)) (2 * tightBase) (2 * 72 * 0x1_0000)) a = 0
  rw [tget_tclear, hqdr, ite_self]

/-- Logical LPDDR keeps its contents. -/
theorem Chip.readByte_clearMain (c : Chip) (a : Nat) (hlo : 2 * lpdBase ≤ a) (hhi : a < 2 * tightBase) :
    readByte c.clearMain.mem a = readByte c.mem a := by
  have hq : 2 * qdrEnd ≤ a := Nat.le_trans (by decide) hlo
  show tget _ (tclear (tclear c.mem 0 (2 * qdrEnd)) (2 * tightBase) (2 * 72 * 0x1_0000)) a = tget _ c.mem a
  rw [tget_tclear, tget_tclear, if_pos (.inl hhi), if_pos (.inr (by omega))]

/-- The registers of the always-on pages stay, and the others read their reset values. -/
theorem Chip.live_clearMain (c : Chip) (pg off : Nat) (ho : off < 0x800) :
    c.clearMain.live pg off = if keptPage pg then c.live pg off else regReset pg off := by
  have hk : regKey pg off / 0x800 = pg := by unfold regKey; omega
  show tget _ (c.regs.filter _) _ = _
  rw [tget_filter_key _ c.regs (fun k => keptPage (k / 0x800)), hk]
  rfl

/-! ### Resuming start-up (R433) -/

theorem Chip.resume_shape (c : Chip) (ended : List Nat) (cause : Nat) :
    c.resume ended cause = { c with power := { c.power with st := .startup, ended := ended }
                                    regs := (c.resume ended cause).regs } := by
  unfold Chip.resume Chip.bumpFld
  dsimp only
  split <;> rfl

theorem Chip.cleared_resume {c : Chip} (h : c.Cleared) (ended : List Nat) (cause : Nat) : (c.resume ended cause).Cleared := by
  rw [c.resume_shape]
  exact h

/-- RSTCAUSE. -/
theorem Chip.fld_resume_cause (c : Chip) (ended : List Nat) (cause : Nat) (hc : cause < 8) :
    (c.resume ended cause).fld 0x003 0x100 2 0 = cause := by
  unfold Chip.resume Chip.fld
  rw [Chip.live_setLive_ne _ _ _ _ _ _ (by decide), Chip.live_bumpFld_ne _ _ _ _ _ _ _ (by decide)]
  exact (Chip.fld_setFld_same _ _ _ _ _ _).trans (Nat.mod_eq_of_lt hc)

/-- RSTCOUNT. -/
theorem Chip.fld_resume_count (c : Chip) (ended : List Nat) (cause : Nat) :
    (c.resume ended cause).fld 0x003 0x102 31 0 = Nat.min (2 ^ 32 - 1) (c.fld 0x003 0x102 31 0 + 1) := by
  unfold Chip.resume
  rw [Chip.fld, Chip.live_setLive_ne _ _ _ _ _ _ (by decide)]
  refine (Chip.fld_bumpFld_same _ _ _ _ _).trans ?_
  rw [Chip.fld, Chip.live_setFld_ne _ _ _ _ _ _ _ _ (by decide)]
  rfl

/-! ### The final STATUS of a journal entry (R361, R362) -/

theorem Roles.chainEntry_status (r : Roles) (seq k : Nat) :
    (tget {} (r.chainEntry seq).journal k).status = (tget {} r.journal k).status := by
  unfold Roles.chainEntry Roles.putEntry
  dsimp only
  split
  · rfl
  · rw [tget_tset]
    split
    next hk => rw [hk]
    next => rfl

theorem Roles.chainEntry_creds (r : Roles) (seq : Nat) : (r.chainEntry seq).creds = r.creds := by
  unfold Roles.chainEntry
  dsimp only
  split <;> rfl

/-- Chaining entries afresh changes the STATUS of none. -/
theorem Roles.foldl_chainEntry_status (l : List Nat) (r : Roles) (k : Nat) :
    (tget {} (l.foldl Roles.chainEntry r).journal k).status = (tget {} r.journal k).status := by
  induction l generalizing r with
  | nil => rfl
  | cons seq l ih => exact (ih _).trans (r.chainEntry_status seq k)

theorem Roles.foldl_chainEntry_creds (l : List Nat) (r : Roles) : (l.foldl Roles.chainEntry r).creds = r.creds := by
  induction l generalizing r with
  | nil => rfl
  | cons seq l ih => exact (ih _).trans (r.chainEntry_creds seq)

/-- The journal end of an entry reaches nothing but the journal. -/
theorem Chip.journalEnd_shape (c : Chip) (seq status : Nat) :
    ∃ r : Roles, c.journalEnd seq status = { c with roles := r } ∧ r.creds = c.roles.creds := by
  unfold Chip.journalEnd
  dsimp only
  split
  · exact ⟨_, rfl, Roles.foldl_chainEntry_creds _ _⟩
  · exact ⟨c.roles, rfl, rfl⟩

/-- The entry takes the STATUS while it is still in the ring. -/
theorem Chip.journalEnd_status (c : Chip) (seq status : Nat) (hlt : seq < c.roles.jseq)
    (he : (tget {} c.roles.journal (seq % journalRing)).seq = seq) :
    (tget {} (c.journalEnd seq status).roles.journal (seq % journalRing)).status = status := by
  unfold Chip.journalEnd
  dsimp only
  rw [if_pos ⟨he, hlt⟩]
  exact (Roles.foldl_chainEntry_status _ _ _).trans (by rw [Roles.putEntry, tget_tset_self])

/-! ### The acceptance of a role command (R358, R359, R362) -/

@[simp] theorem Chip.setCred_power (c : Chip) (slot : Nat) (x : Cred) : (c.setCred slot x).power = c.power := by
  unfold Chip.setCred; split <;> rfl
@[simp] theorem Chip.setCred_lane (c : Chip) (slot : Nat) (x : Cred) : (c.setCred slot x).lane = c.lane := by
  unfold Chip.setCred; split <;> rfl
@[simp] theorem Chip.setCred_now (c : Chip) (slot : Nat) (x : Cred) : (c.setCred slot x).now = c.now := by
  unfold Chip.setCred; split <;> rfl

@[simp] theorem Chip.journalNew_power (c : Chip) (kind role keyId code status digest : Nat) :
    (c.journalNew kind role keyId code status digest).power = c.power := by simp [Chip.journalNew]
@[simp] theorem Chip.journalNew_lane (c : Chip) (kind role keyId code status digest : Nat) :
    (c.journalNew kind role keyId code status digest).lane = c.lane := by simp [Chip.journalNew]
@[simp] theorem Chip.journalNew_now (c : Chip) (kind role keyId code status digest : Nat) :
    (c.journalNew kind role keyId code status digest).now = c.now := by simp [Chip.journalNew]

@[simp] theorem Chip.anchorStep_power (c : Chip) : c.anchorStep.power = c.power := by
  unfold Chip.anchorStep Chip.alarmRecord; dsimp only; split <;> split <;> simp
@[simp] theorem Chip.anchorStep_lane (c : Chip) : c.anchorStep.lane = c.lane := by
  unfold Chip.anchorStep Chip.alarmRecord; dsimp only; split <;> split <;> simp
@[simp] theorem Chip.anchorStep_now (c : Chip) : c.anchorStep.now = c.now := by
  unfold Chip.anchorStep Chip.alarmRecord; dsimp only; split <;> split <;> simp

@[simp] theorem Chip.accepted_power (c : Chip) (q : Req) (slot code : Nat) (ops : List Word) :
    (c.accepted q slot code ops).power = c.power := by simp [Chip.accepted]
@[simp] theorem Chip.accepted_lane (c : Chip) (q : Req) (slot code : Nat) (ops : List Word) :
    (c.accepted q slot code ops).lane = c.lane := by simp [Chip.accepted]
@[simp] theorem Chip.accepted_now (c : Chip) (q : Req) (slot code : Nat) (ops : List Word) :
    (c.accepted q slot code ops).now = c.now := by simp [Chip.accepted]

/-- An authorized role command whose body answers nothing is outstanding on the chip the body leaves. -/
theorem Chip.roleCmd_silent {c d : Chip} {q : Req} {code slot : Nat} {ops : List Word} {right : Nat → Bool}
    {body : Chip → Chip × Answer} (h : c.Authorized q code ops right slot)
    (hbody : body (c.accepted q slot code ops) = (d, .silent)) :
    c.roleCmd q code ops right body = d.begin_ q code (c.acceptedSeq q slot) 0 := by
  obtain ⟨htake, hauth, hanchor, hflash⟩ := h
  unfold Chip.accepted at hbody
  simp [Chip.roleCmd, Chip.served, htake, hauth, hanchor, hflash, hbody, Chip.acceptedSeq]

end Sys2Proof.Machine
end

section
/-! PROOFS. The statements about the state after power-on reset and about the resets (R7, R433 to R436, R466). -/

namespace Sys2Proof.Machine

/-! ### The reset state -/

/-- Until a spare is substituted each core stands on the pipeline of its own number in its eight. -/
theorem Chip.pipeOf_of_eights_nil {c : Chip} (h : c.eights = []) (core : Nat) :
    c.pipeOf core = some (9 * (core / 8) + core % 8) := by
  have hlt : core % 8 < 8 := Nat.mod_lt _ (by decide)
  simp [Chip.pipeOf, Chip.eight, h, tget, List.getD_eq_getElem?_getD, hlt]

/-- The same for its array set. -/
theorem Chip.arrOf_of_eights_nil {c : Chip} (h : c.eights = []) (core : Nat) : c.arrOf core = 9 * (core / 8) + core % 8 := by
  have hlt : core % 8 < 8 := Nat.mod_lt _ (by decide)
  simp [Chip.arrOf, Chip.eight, h, tget, List.getD_eq_getElem?_getD, hlt]

/-- Settles O53: in the reset state every table is empty, so each read gives what an unlisted key reads as; the registers give
the Reset column of their rows. -/
theorem resetHoldsTheStatedValues : Obligations.ResetHoldsTheStatedValues := by
  unfold Obligations.ResetHoldsTheStatedValues
  have hregs : State.reset.chip.regs = [] := rfl
  have heights : State.reset.chip.eights = [] := rfl
  refine ⟨rfl, rfl, rfl, rfl, rfl, rfl, rfl, rfl, rfl, fun _ => rfl, fun _ => rfl, fun core => ?_, ?_⟩
  · refine ⟨Chip.pipeOf_of_eights_nil heights core, ?_⟩
    rw [Chip.tmAddr, Chip.arrOf_of_eights_nil heights, Nat.add_zero]
  · simp only [Chip.fld, Chip.live_of_regs_nil hregs]
    decide

/-! ### POR -/

/-- The credentials, the anchor and the journal after POR: a pending RETURN erases the store (R360). -/
def Chip.porRoles (c : Chip) : Roles :=
  let r := { c.roles with ops := [], loaded := false }
  if c.fld 0x000 0x104 5 3 = 3 then { r with creds := [], oppol := 0, roleCfg := 3 } else r

theorem Chip.por_shape (c : Chip) : c.por =
    { free := c.free, roles := c.porRoles, power := c.por.power, regs := c.por.regs } := by
  unfold Chip.por Chip.porRoles
  simp only [beq_iff_eq]
  split <;> rfl

theorem Chip.por_power (c : Chip) : c.por.power.st = .rom ∧ c.por.power.ended = [] ∧ c.por.power.tap = c.power.tap := by
  unfold Chip.por
  dsimp only
  split <;> exact ⟨rfl, rfl, rfl⟩

/-- POR makes the chip anew, in step ROM; the test access port is not reset. -/
theorem Chip.por_anew (c : Chip) : c.por.Cleared ∧ c.por.mem = [] ∧ c.por.power.st = .rom ∧ c.por.power.ended = []
    ∧ c.por.power.tap = c.power.tap := by
  refine ⟨?_, ?_, c.por_power⟩ <;> rw [c.por_shape]
  exact ⟨rfl, rfl, rfl, rfl, rfl, rfl, rfl, rfl, rfl, rfl, rfl, rfl, rfl, rfl, rfl, fun _ _ => rfl⟩

/-- The journal stays, and the store unless a RETURN was pending; CREDSTAT reads 0 until the store is loaded (R7, R434). -/
theorem Chip.por_roles (c : Chip) : c.por.roles.journal = c.roles.journal
    ∧ c.por.roles.creds = (if c.fld 0x000 0x104 5 3 = 3 then [] else c.roles.creds) ∧ c.por.credstat = 0 := by
  have hroles : c.por.roles = c.porRoles := by rw [c.por_shape]
  have hloaded : c.por.roles.loaded = false := by
    rw [hroles, Chip.porRoles]
    split <;> rfl
  refine ⟨?_, ?_, by simp [Chip.credstat, hloaded]⟩ <;> rw [hroles, Chip.porRoles] <;> split <;> rfl

/-- A pending LIFECYCLE target is entered (R360). -/
theorem Chip.lifecycle_por (c : Chip) (h : c.fld 0x000 0x104 5 3 ≠ 7) : c.por.lifecycle = c.fld 0x000 0x104 5 3 := by
  have hlt : c.fld 0x000 0x104 5 3 < 2 ^ 3 := bits_lt _ 5 3
  unfold Chip.por
  dsimp only
  rw [if_neg h, Chip.lifecycle, Chip.fld_setFld_disjoint _ _ _ _ _ _ _ _ (by omega), Chip.fld_setFld_same]
  exact Nat.mod_eq_of_lt hlt

/-- Every register but the fused ones reads its reset value (R7, R434). -/
theorem Chip.live_por (c : Chip) (pg off : Nat) (hk : keptReg (regKey pg off) = false) : c.por.live pg off = regReset pg off := by
  have hne : regKey pg off ≠ regKey 0x000 0x104 := by
    intro he
    rw [he] at hk
    exact absurd hk (by decide)
  have hfilter : tget (regReset pg off) (c.regs.filter (fun e => keptReg e.1)) (regKey pg off) = regReset pg off := by
    rw [tget_filter_key, hk]
    rfl
  unfold Chip.por
  dsimp only
  split
  · exact hfilter
  · rw [Chip.live_setFld_ne _ _ _ _ _ _ _ _ hne, Chip.live_setFld_ne _ _ _ _ _ _ _ _ hne]
    exact hfilter

/-! ### WARM -/

/-- What a WARM reset leaves of a chip: the main domain cleared, start-up resumed at FLASH with the cause recorded, and the
contents of LPDDR and the credential store kept (R433 to R435). -/
def Chip.WarmFrom (c d : Chip) (cause : Nat) : Prop :=
  d.Cleared ∧ d.power.st = .startup ∧ d.power.ended = [0]
  ∧ d.fld 0x003 0x100 2 0 = cause ∧ d.fld 0x003 0x102 31 0 = Nat.min (2 ^ 32 - 1) (c.fld 0x003 0x102 31 0 + 1)
  ∧ (∀ a, 2 * lpdBase ≤ a → a < 2 * tightBase → readByte d.mem a = readByte c.mem a)
  ∧ d.roles.creds = c.roles.creds ∧ d.roles.ops = []

/-- The states in which a WARM reset acts: not in holdover, and not before start-up begins. -/
abbrev Chip.ResetsWarm (c : Chip) : Prop := c.power.st = .startup ∨ c.power.st = .run ∨ c.power.st = .safe

theorem Chip.warmReset_eq {c : Chip} (h : c.ResetsWarm) (cause : Nat) :
    c.warmReset cause = ((c.stopAll true).clearMain).resume [0] cause := by
  rcases h with h | h | h <;> simp only [Chip.warmReset, h]

/-- Once ports and links have stopped, clearing the main domain and resuming at FLASH is a WARM reset. -/
theorem Chip.StopsPorts.warmFrom {c d : Chip} (h : c.StopsPorts d) (cause : Nat) (hc : cause < 8) :
    c.WarmFrom (d.clearMain.resume [0] cause) cause := by
  obtain ⟨hstop, hlive⟩ := h
  have hcount : d.clearMain.fld 0x003 0x102 31 0 = c.fld 0x003 0x102 31 0 := by
    rw [Chip.fld, Chip.live_clearMain _ _ _ (by decide), if_pos (by decide), hlive _ _ (by decide) (.inr (by decide))]
    rfl
  have hmem : (d.clearMain.resume [0] cause).mem = d.clearMain.mem := by rw [Chip.resume_shape]
  have hroles : (d.clearMain.resume [0] cause).roles = { c.roles with ops := [] } := by
    rw [Chip.resume_shape, hstop]
    rfl
  refine ⟨Chip.cleared_resume d.cleared_clearMain _ _, by rw [Chip.resume_shape], by rw [Chip.resume_shape],
    Chip.fld_resume_cause _ _ _ hc, ?_, fun a hlo hhi => ?_, by rw [hroles], by rw [hroles]⟩
  · rw [Chip.fld_resume_count, hcount]
  · rw [hmem, d.readByte_clearMain a hlo hhi, hstop]

theorem Chip.warmReset_warmFrom {c : Chip} (h : c.ResetsWarm) (cause : Nat) (hc : cause < 8) :
    c.WarmFrom (c.warmReset cause) cause := by
  rw [Chip.warmReset_eq h]
  exact (Chip.StopsPorts.stopAll c true).warmFrom cause hc

/-- The journal and TB stay as they are. -/
theorem Chip.warmReset_keeps {c : Chip} (h : c.ResetsWarm) (cause : Nat) :
    (c.warmReset cause).roles = { c.roles with ops := [] } ∧ (c.warmReset cause).now = c.now := by
  obtain ⟨hstop, -⟩ := Chip.StopsPorts.stopAll c true
  rw [Chip.warmReset_eq h, Chip.resume_shape, hstop]
  exact ⟨rfl, rfl⟩

/-! ### The WARM reset of a CHIP_RESET (R436) -/

/-- The journal entry of a role command takes DONE. -/
def Chip.endEntry (c : Chip) (o : LongOp) : Chip :=
  match o.jseq with
  | some n => c.journalEnd n stDone
  | none => c

/-- The chip at the instant at which a CHIP_RESET is due, with the journal entry of the command ended. -/
def Chip.resetEnded (c : Chip) (t : Nat) : Chip :=
  ((c.reach t).roles.ops.filter (fun o => o.code == 0x00A0)).foldl Chip.endEntry (c.reach t)

theorem Chip.resetWarm_eq (c : Chip) (t : Nat) : c.resetWarm t = (c.resetEnded t).warmReset 2 := rfl

theorem Chip.endEntry_shape (c : Chip) (o : LongOp) :
    ∃ r : Roles, c.endEntry o = { c with roles := r } ∧ r.creds = c.roles.creds := by
  unfold Chip.endEntry
  split
  · exact c.journalEnd_shape _ stDone
  · exact ⟨c.roles, rfl, rfl⟩

theorem Chip.foldl_endEntry_shape (l : List LongOp) (c : Chip) :
    ∃ r : Roles, l.foldl Chip.endEntry c = { c with roles := r } ∧ r.creds = c.roles.creds := by
  induction l generalizing c with
  | nil => exact ⟨c.roles, rfl, rfl⟩
  | cons o l ih =>
    obtain ⟨r, hr, hcreds⟩ := c.endEntry_shape o
    obtain ⟨r', hr', hcreds'⟩ := ih (c.endEntry o)
    rw [hr] at hr' hcreds'
    exact ⟨r', by rw [List.foldl_cons, hr, hr'], hcreds'.trans hcreds⟩

theorem Chip.le_now_reach (c : Chip) (t : Nat) : t ≤ (c.reach t).now := by
  unfold Chip.reach
  split
  · exact Nat.le_refl t
  · omega

/-- The command's WARM reset acts as one of cause 2, on a chip whose TB has reached the instant it was due. -/
theorem Chip.resetWarm_warmFrom {c : Chip} (h : c.ResetsWarm) (t : Nat) :
    c.WarmFrom (c.resetWarm t) 2 ∧ t ≤ (c.resetWarm t).now := by
  obtain ⟨n, f, hreach⟩ := c.reach_shape t
  obtain ⟨r, hend, hcreds⟩ := Chip.foldl_endEntry_shape ((c.reach t).roles.ops.filter (fun o => o.code == 0x00A0)) (c.reach t)
  have hnow : (c.reach t).now = n := by rw [hreach]
  have hended : c.resetEnded t = { c with now := n, nowFrac := f, roles := r } := hend.trans (by rw [hreach])
  have hr : (c.resetEnded t).ResetsWarm := by rw [hended]; exact h
  have hw := Chip.warmReset_warmFrom hr 2 (by decide)
  obtain ⟨-, hkeep⟩ := Chip.warmReset_keeps hr 2
  rw [← Chip.resetWarm_eq] at hw hkeep
  refine ⟨?_, by rw [hkeep, hended, ← hnow]; exact c.le_now_reach t⟩
  rw [hended] at hw
  rw [hreach] at hcreds
  obtain ⟨hclear, hst, hdone, hcause, hcount, hmem, hcr, hops⟩ := hw
  exact ⟨hclear, hst, hdone, hcause, hcount, hmem, hcr.trans hcreds, hops⟩

/-- The journal entry of the only command outstanding takes DONE. -/
theorem Chip.resetWarm_done {c : Chip} (h : c.ResetsWarm) {t n : Nat} {o : LongOp} (hops : c.roles.ops = [o])
    (hcode : o.code = 0xA0) (hj : o.jseq = some n) (hlt : n < c.roles.jseq)
    (he : (tget {} c.roles.journal (n % journalRing)).seq = n) :
    (tget {} (c.resetWarm t).roles.journal (n % journalRing)).status = stDone := by
  have hended : c.resetEnded t = (c.reach t).journalEnd n stDone := by
    simp [Chip.resetEnded, hops, hcode, Chip.endEntry, hj]
  obtain ⟨r, hr, -⟩ := (c.reach t).journalEnd_shape n stDone
  have hrun : (c.resetEnded t).ResetsWarm := by
    rw [hended, hr]
    simpa using h
  obtain ⟨hroles, -⟩ := Chip.warmReset_keeps hrun 2
  rw [Chip.resetWarm_eq, hroles, hended]
  exact Chip.journalEnd_status _ n stDone (by simpa using hlt) (by simpa using he)

/-! ### Which WARM reset comes (R427, R433, R436) -/

/-- A WARM reset that no CHIP_RESET caused leaves the journal as it is. -/
theorem Chip.warmReset_plain {c : Chip} (h : c.ResetsWarm) (cause : Nat) (hc : cause < 8) :
    c.WarmFrom (c.warmReset cause) cause ∧ (c.warmReset cause).roles.journal = c.roles.journal := by
  obtain ⟨hroles, -⟩ := Chip.warmReset_keeps h cause
  exact ⟨Chip.warmReset_warmFrom h cause hc, by rw [hroles]⟩

theorem Chip.warm_none_due {c : Chip} (hf : c.power.faultDue = false) (hr : c.power.resetDue = none) :
    c.warm = c.warmReset 1 := by
  simp [Chip.warm, hf, hr]

theorem Chip.warm_fault_due {c : Chip} (hf : c.power.faultDue = true) :
    c.warm = c.draw.1.warmReset (if c.draw.2 % 2 = 0 then 1 else 4) := by
  simp [Chip.warm, hf]

theorem Chip.warm_reset_due {c : Chip} {t : Nat} (hf : c.power.faultDue = false) (hr : c.power.resetDue = some t) :
    c.warm = c.draw.1.warmReset 1 ∧ c.now < t ∨ c.warm = c.draw.1.resetWarm t := by
  simp only [Chip.warm, hf, hr, Option.isSome_some, Bool.or_true, Bool.not_true, Bool.false_eq_true, if_false]
  split
  next hb => exact .inl ⟨rfl, of_decide_eq_true (Bool.and_eq_true_iff.1 hb).1⟩
  next => exact .inr rfl

theorem Chip.warm_reset_past {c : Chip} {t : Nat} (hf : c.power.faultDue = false) (hr : c.power.resetDue = some t)
    (ht : t ≤ c.now) : c.warm = c.draw.1.resetWarm t := by
  rcases Chip.warm_reset_due hf hr with ⟨-, hlt⟩ | h
  · omega
  · exact h

/-! ### CHIP_RESET (R436) -/

theorem Chip.chipReset_authorized {c : Chip} {q : Req} {slot : Nat} (h : c.Authorized q 0xA0 [0] installer slot) :
    (c.chipReset q).power = { c.power with resetDue := some (c.now + 1000000) }
    ∧ (c.chipReset q).lane.recs = c.lane.recs ∧ ((c.chipReset q).opOf 0xA0 0).isSome = true := by
  rw [Chip.chipReset, Chip.roleCmd_silent h rfl]
  exact ⟨by simp only [Chip.begin_, Chip.accepted_power, Chip.accepted_now],
    by simp only [Chip.begin_, Chip.accepted_lane], by simp [Chip.opOf, Chip.begin_]⟩

/-! ### The test access port (R466) -/

/-- A port that stands on IDCODE shifts the device identification out. -/
theorem Chip.tapScan_idcode (c : Chip) (h : c.tap.ir = .idcode) :
    (c.tapScan (.dr (List.replicate 32 false))).tap.tdo = bitList 32 0xB6400F9D := by
  have hacts : c.tapActs = .idcode := by simp [Chip.tapActs, h]
  simp only [Chip.tapScan, hacts]
  rfl

/-- A scan changes nothing but the port itself and draws at most a free value. -/
theorem Chip.tapScan_frame (c : Chip) (scan : TapScan) :
    c.tapScan scan = { c.setTap (c.tapScan scan).tap with free := (c.tapScan scan).free } := by
  cases scan with
  | ir i => rfl
  | dr bits =>
    unfold Chip.tapScan
    dsimp only
    split <;> rfl

/-- Settles O54, by what each reset leaves: POR a chip made anew, WARM the main domain cleared, TAP the port alone. -/
theorem resetsClearTheChip : Obligations.ResetsClearTheChip := by
  unfold Obligations.ResetsClearTheChip
  intro s c warm kept runs
  have hplain (cause : Nat) (hc : cause < 8) (h : c.ResetsWarm) : warm cause (c.warmReset cause) ∧ kept (c.warmReset cause) :=
    Chip.warmReset_plain h cause hc
  have hcmd (t : Nat) (h : c.ResetsWarm) : warm 2 (c.draw.1.resetWarm t) ∧ t ≤ (c.draw.1.resetWarm t).now :=
    Chip.resetWarm_warmFrom (c := c.draw.1) h t
  refine ⟨?_, fun h hf hr => ?_, fun h hf => ?_, fun t h hf hr => ⟨?_, fun ht => ?_, fun o n ht hops hcode hj hlt he => ?_⟩,
    fun h => ?_, fun q slot h => ?_, ?_, c.tapScan_frame⟩
  · refine completes_of_does (f := Chip.por) rfl ?_
    obtain ⟨hclear, hmem, hst, hdone, htap⟩ := c.por_anew
    obtain ⟨hjournal, hcreds, hstat⟩ := c.por_roles
    exact ⟨hclear, hmem, hst, hdone, hjournal, htap, hcreds, hstat, c.lifecycle_por, fun pg off _ => c.live_por pg off⟩
  · exact completes_of_does (f := Chip.warm) rfl (by rw [Chip.warm_none_due hf hr]; exact hplain 1 (by decide) h)
  · refine completes_of_does (f := Chip.warm) rfl ?_
    rw [Chip.warm_fault_due hf]
    split
    · obtain ⟨hw, hk⟩ := Chip.warmReset_plain (c := c.draw.1) h 1 (by decide)
      exact ⟨.inl hw, hk⟩
    · obtain ⟨hw, hk⟩ := Chip.warmReset_plain (c := c.draw.1) h 4 (by decide)
      exact ⟨.inr hw, hk⟩
  · refine completes_of_does (f := Chip.warm) rfl ?_
    rcases Chip.warm_reset_due hf hr with ⟨hw, -⟩ | hw <;> rw [hw]
    · exact .inl (Chip.warmReset_plain (c := c.draw.1) h 1 (by decide))
    · exact .inr (hcmd t h)
  · exact completes_of_does (f := Chip.warm) rfl (by rw [Chip.warm_reset_past hf hr ht]; exact (hcmd t h).1)
  · refine completes_of_does (f := Chip.warm) rfl ?_
    rw [Chip.warm_reset_past hf hr ht]
    exact Chip.resetWarm_done (c := c.draw.1) h hops hcode hj hlt he
  · exact completes_of_does (f := Chip.fwWatchdog) rfl (hplain 3 (by decide) h)
  · exact completes_of_does (f := fun d => d.chipReset q) rfl (Chip.chipReset_authorized h)
  · exact completes_of_does (f := fun d => d.setTap {}) rfl ⟨rfl, Chip.tapScan_idcode _ rfl⟩

end Sys2Proof.Machine
end

section
/-! PROOFS. The statement about control and segment register moves (R108, R119, R219): TLBRD in a timed window. -/

namespace Sys2Proof.Machine

/-- What a command that changes the chip alone completes with holds of the changed chip. -/
theorem Completes.of_does {i : Instr} {s : State} {f : Chip → Chip} {P : Chip → Prop} (h : Completes i s P)
    (hx : exec i s = s.does f) : P (f s.chip) := by
  obtain ⟨t, ht, -, hp⟩ := h
  rw [hx] at ht
  cases ht
  exact hp

/-- TLBRD_WRITE issues an MTC to TLBRD. -/
theorem exec_tlbrdWrite (core : Fin 64) (x : Fin 32) (s : State) : exec (.tlbrdWrite core x) s
    = s.does fun c => c.onCore core.val (fun a c => c.orExit a (fun c => c.issueOp a .b (.mtc 0x4C x))) := rfl

/-- A chip on which core 0 runs, at level 1, a timed window of a party that has loaded no TLB entry in an open window; TLB
entry 0 is of the running world and its leaf has R set. -/
def tlbOfOthers : Chip :=
  { pipes := [(0, { run := .run, ctx := some {}, arch := { st := 1 }, tlb := [(0, { pte := 2 })] })] }

/-- The environment of its core. -/
def tlbOfOthersEnv : Env := { core := 0, pi := 0, x := {}, p := tlbOfOthers.pipe 0, pc := 0 }

theorem tlbOfOthers_ready : tlbOfOthers.Ready 0 tlbOfOthersEnv false := by decide

/-- TLBRD of entry 0 there puts zeros under way to every staging register (R218). -/
theorem tlbOfOthers_tlbrd :
    ((tlbOfOthers.onCore 0 (fun a c => c.orExit a (fun c => c.issueOp a .b (.mtc 0x4C 0)))).pipe 0).fly
      = tlbOfOthersEnv.p.landings .b 2 [.core 0x48 0, .core 0x49 0, .core 0x4A 0, .core 0x4B 0] := by decide

/-- Refutes O10: it has TLBRD give every entry of the running world, but in a timed window of a party that did not load the TLB
the entry reads as zeros, so TLBPTEL takes 0 and not the leaf's 2. -/
theorem not_controlAndSegmentRegistersMove : ¬ Obligations.ControlAndSegmentRegistersMove := by
  unfold Obligations.ControlAndSegmentRegistersMove
  intro ⟨h, _⟩
  obtain ⟨-, -, -, -, htlbrd, -⟩ := h { chip := tlbOfOthers } 0 tlbOfOthersEnv tlbOfOthers_ready
  have hworld : (tget {} tlbOfOthersEnv.p.tlb (bits (tlbOfOthersEnv.a.rx 0) 6 0)).world = tlbOfOthersEnv.x.world := by decide
  have hcmd := htlbrd 0 hworld (by decide) (by decide) (by decide) (by decide) (by decide)
  obtain ⟨-, hpipe⟩ := hcmd.of_does (exec_tlbrdWrite 0 0 _)
  have hfly := tlbOfOthers_tlbrd.symm.trans (congrArg Pipe.fly hpipe)
  exact absurd hfly (by decide)

end Sys2Proof.Machine
end

section
/-! PROOFS. Chips that differ only in what observes: the caches, memory and the checks of an access see them alike. -/

namespace Sys2Proof.Machine

/-- While trace drains nothing to memory: two chips that differ at most in pipelines, events, trace, TB and status registers. -/
structure Chip.Alike (c d : Chip) : Prop where
  same : d = { c with pipes := d.pipes, regs := d.regs, hub := d.hub, trace := d.trace, now := d.now, nowFrac := d.nowFrac }
  live : ∀ pg off, off < 0x100 → d.live pg off = c.live pg off
  quiet : c.trStream = false

theorem Chip.Frame.alike {c d : Chip} {pi : Nat} (h : c.Frame d pi) (hs : c.trStream = false) : c.Alike d := by
  obtain ⟨heq, -, hlive⟩ := h
  refine ⟨?_, fun pg off ho => hlive pg off (by omega) (.inl ho), hs⟩
  rw [heq hs]

namespace Chip.Alike

theorem trStream {c d : Chip} (h : c.Alike d) : d.trStream = false := by
  obtain ⟨-, hlive, hs⟩ := h
  rw [← hs, Chip.trStream, Chip.trStream, Chip.fld, Chip.fld, hlive _ _ (by omega)]

theorem symm {c d : Chip} (h : c.Alike d) : d.Alike c := by
  refine ⟨?_, fun pg off ho => (h.live pg off ho).symm, h.trStream⟩
  rw [h.same]

theorem trans {c d f : Chip} (h : c.Alike d) (k : d.Alike f) : c.Alike f := by
  refine ⟨?_, fun pg off ho => (k.live pg off ho).trans (h.live pg off ho), h.quiet⟩
  rw [k.same, h.same]

theorem refl {c : Chip} (h : c.trStream = false) : c.Alike c := ⟨rfl, fun _ _ _ => rfl, h⟩

/-! ### What alike chips agree on -/

section
variable {c d : Chip} (h : c.Alike d)
include h

theorem mem : d.mem = c.mem := by rw [h.same]
theorem ext : d.ext = c.ext := by rw [h.same]
theorem tmBad : d.tmBad = c.tmBad := by rw [h.same]
theorem arr (k : Nat) : d.arr k = c.arr k := by rw [h.same]; rfl
theorem eight (k : Nat) : d.eight k = c.eight k := by rw [h.same]; rfl
theorem arrOf (a : Nat) : d.arrOf a = c.arrOf a := by rw [h.same]; rfl
theorem l1 (a : Nat) (i : Bool) : d.l1 a i = c.l1 a i := by rw [h.same]; rfl
theorem l2 (a : Nat) : d.l2 a = c.l2 a := by rw [h.same]; rfl
theorem l1Find (m : MCtx) (i : Bool) (line : Nat) : d.l1Find m i line = c.l1Find m i line := by rw [h.same]; rfl
theorem mctx (a : Nat) (x : RunCtx) : d.mctx a x = c.mctx a x := by rw [h.same]; rfl
theorem pipeOf (a : Nat) : d.pipeOf a = c.pipeOf a := by rw [h.same]; rfl
theorem tmAddr (a off : Nat) : d.tmAddr a off = c.tmAddr a off := by rw [h.same]; rfl
theorem rdW (key a : Nat) : d.rdW key a = c.rdW key a := by rw [h.same]; rfl
theorem tightRead (a off n : Nat) : d.tightRead a off n = c.tightRead a off n := by rw [h.same]; rfl
theorem lowCore (a : Nat) : d.lowCore a = c.lowCore a := by rw [h.same]; rfl
theorem ownsMem (p : Pipe) (x : RunCtx) (addr n : Nat) (rdOnly : Bool) :
    d.ownsMem p x addr n rdOnly = c.ownsMem p x addr n rdOnly := by rw [h.same]; rfl
theorem ownsReg (party page off : Nat) : d.ownsReg party page off = c.ownsReg party page off := by rw [h.same]; rfl
theorem tightHeld (a off n : Nat) : d.tightHeld a off n = c.tightHeld a off n := by rw [h.same]; rfl

theorem tightErr (a off n : Nat) : d.tightErr a off n = c.tightErr a off n := by rw [h.same]; rfl
theorem pageUp (page : Nat) : d.pageUp page = c.pageUp page := by rw [h.same]; rfl
theorem memErr (a n agent : Nat) : d.memErr a n agent = c.memErr a n agent := by rw [h.same]; rfl
theorem caspBad (m : MCtx) (a n : Nat) : d.caspBad m a n = c.caspBad m a n := by rw [h.same]; rfl
theorem l1CanFill (m : MCtx) (i : Bool) (line : Nat) : d.l1CanFill m i line = c.l1CanFill m i line := by rw [h.same]; rfl
theorem l2TagBad (m : MCtx) (line : Nat) : d.l2TagBad m line = c.l2TagBad m line := by rw [h.same]; rfl

theorem rdN (key a n : Nat) : d.rdN key a n = c.rdN key a n := by
  induction n generalizing a with
  | zero => rfl
  | succ n ih => rw [Chip.rdN, Chip.rdN, ih, h.rdW]

theorem inQdr (a : Nat) : d.inQdr a = c.inQdr a := by
  unfold Chip.inQdr Chip.qdrWords
  rw [h.live _ _ (by omega)]

theorem inLpd (a : Nat) : d.inLpd a = c.inLpd a := by
  unfold Chip.inLpd Chip.lpdWords
  rw [h.live _ _ (by omega)]

theorem region (a : Nat) (p : Pipe) (x : RunCtx) (addr n : Nat) (rdOnly uc : Bool) :
    d.region a p x addr n rdOnly uc = c.region a p x addr n rdOnly uc := by
  unfold Chip.region
  simp only [h.inQdr, h.inLpd, h.ownsMem, h.lowCore, h.tightHeld, h.ownsReg]

/-- An access meets the same outcome. -/
theorem check (a : Nat) (p : Pipe) (x : RunCtx) (done : List Nat) (q : Want) :
    d.check a p x done q = c.check a p x done q := by
  unfold Chip.check
  simp only [h.tightErr, h.mctx, h.lowCore, h.l1Find, h.region, h.pageUp, h.caspBad, h.memErr, h.l1, h.l1CanFill, h.l2TagBad]

end

/-! ### Operations on alike chips -/

section
variable {c d : Chip} (h : c.Alike d)
include h

theorem setMem (m : List Host.Cell) (x : ExtMem) : Chip.Alike { c with mem := m, ext := x } { d with mem := m, ext := x } := by
  refine ⟨?_, h.live, h.quiet⟩
  rw [h.same]

theorem setTight (m : List Host.Cell) (t : Tbl Bool) :
    Chip.Alike { c with mem := m, tmBad := t } { d with mem := m, tmBad := t } := by
  refine ⟨?_, h.live, h.quiet⟩
  rw [h.same]

theorem setArr (k : Nat) (x : ArraySet) : (c.setArr k x).Alike (d.setArr k x) := by
  refine ⟨?_, h.live, h.quiet⟩
  rw [h.same]; rfl

theorem setEight (k : Nat) (x : Eight) : (c.setEight k x).Alike (d.setEight k x) := by
  refine ⟨?_, h.live, h.quiet⟩
  rw [h.same]; rfl

theorem setL1 (a : Nat) (i : Bool) (k : Cache) : (c.setL1 a i k).Alike (d.setL1 a i k) := by
  unfold Chip.setL1
  rw [h.arrOf, h.arr]
  exact h.setArr _ _

theorem setL2 (a : Nat) (k : Cache) : (c.setL2 a k).Alike (d.setL2 a k) := by
  unfold Chip.setL2
  rw [h.eight]
  exact h.setEight _ _

theorem rekey (key a : Nat) : (c.rekey key a).Alike (d.rekey key a) := by
  unfold Chip.rekey
  simp only [h.mem, h.ext, h.rdW]
  split
  · exact h
  · exact h.setMem _ _

theorem wrL (key a : Nat) (ws : List Word) : (c.wrL key a ws).Alike (d.wrL key a ws) := by
  induction ws generalizing c d a with
  | nil => exact h
  | cons w ws ih =>
    have hk := h.rekey key a
    unfold Chip.wrL
    simp only [hk.mem, hk.ext]
    exact ih (hk.setMem _ _) (a + 1)

theorem memWrite (key a : Nat) (ws : List Word) : (c.memWrite key a ws).Alike (d.memWrite key a ws) := by
  have hw := h.wrL key a ws
  unfold Chip.memWrite Chip.clearErr
  simp only [hw.mem, hw.ext]
  exact hw.setMem _ _

theorem poisonQuad (q : Nat) : (c.poisonQuad q).Alike (d.poisonQuad q) := by
  unfold Chip.poisonQuad
  simp only [h.mem, h.ext]
  split
  · exact h.setMem _ _
  · exact h.setMem _ _

theorem foldl {β : Type} (f : Chip → β → Chip) (hf : ∀ {c d : Chip}, c.Alike d → ∀ b, (f c b).Alike (f d b))
    (l : List β) : (l.foldl f c).Alike (l.foldl f d) := by
  induction l generalizing c d with
  | nil => exact h
  | cons b l ih => exact ih (hf h b)

theorem lineToMem (key line : Nat) (x : LineData) (bad : BitVec 8) :
    (c.lineToMem key line x bad).Alike (d.lineToMem key line x bad) :=
  (h.memWrite key (32 * line) (lineWords x)).foldl _ (fun h i => h.poisonQuad (8 * line + i)) _

/-- What is counted stays apart from what the caches and memory hold. -/
theorem countCore (a ev n : Nat) : (c.countCore a ev n).Alike (d.countCore a ev n) := by
  unfold Chip.countCore
  rw [h.pipeOf]
  split
  next pi _ =>
    exact ((Chip.Frame.count c pi ev n).alike h.quiet).symm.trans <| h.trans ((Chip.Frame.count d pi ev n).alike h.trStream)
  next => exact h

end

theorem setLive {c : Chip} (hs : c.trStream = false) (pg off v : Nat) (ho : 0x100 ≤ off) (h8 : off < 0x800) :
    c.Alike (c.setLive pg off v) :=
  ⟨rfl, fun q o hq => c.live_setLive_ne pg off v q o (regKey_ne q o pg off (by omega) h8 (.inr (by omega))), hs⟩

theorem bumpFld {c : Chip} (hs : c.trStream = false) (pg off hi lo : Nat) (ho : 0x100 ≤ off) (h8 : off < 0x800) :
    c.Alike (c.bumpFld pg off hi lo) := by
  unfold Chip.bumpFld
  dsimp only
  split
  · exact setLive hs pg off _ ho h8
  · exact refl hs

/-- The log of an L2 error is in status registers and events. -/
theorem logL2 {c : Chip} (hs : c.trStream = false) (e way addr : Nat) (dirty : Bool) :
    c.Alike (c.l2Error e way addr dirty) := by
  unfold Chip.l2Error
  extract_lets pg b f
  have hb : c.Alike b := bumpFld hs pg 0x300 23 16 (by omega) (by omega)
  have hf : b.Alike f := by
    unfold f
    split
    · exact refl hb.trStream
    · have h1 := setLive hb.trStream pg 0x302 (addr % 2 ^ 32) (by omega) (by omega)
      exact h1.trans (setLive h1.trStream pg 0x304 _ (by omega) (by omega))
  exact hb.trans (hf.trans ⟨rfl, fun _ _ _ => rfl, hf.trStream⟩)

section
variable {c d : Chip} (h : c.Alike d)
include h

theorem l2Error (e way addr : Nat) (dirty : Bool) : (c.l2Error e way addr dirty).Alike (d.l2Error e way addr dirty) :=
  (logL2 h.quiet e way addr dirty).symm.trans <| h.trans (logL2 h.trStream e way addr dirty)

theorem writeBack (m : MCtx) (line : Nat) (x : LineData) (bad : BitVec 8) :
    (c.writeBack m line x bad).Alike (d.writeBack m line x bad) := by
  have hput {c d : Chip} (k : c.Alike d) (s w : Nat) (l : Line) :
      (c.setL2 m.core (((c.l2 m.core).setSlot w s l).touch w s)).Alike
        (d.setL2 m.core (((d.l2 m.core).setSlot w s l).touch w s)) := by
    rw [k.l2]
    exact k.setL2 _ _
  refine Chip.Alike.countCore ?_ m.core 0x08 1
  unfold Chip.l2Put
  simp only [h.l2]
  split
  next w hw =>
    split
    · exact hput (h.l2Error _ _ _ _) _ _ _
    · exact h.setL2 _ _
  next hw =>
    split
    next => exact h.lineToMem _ _ _ _
    next w hv =>
      refine hput ?_ _ _ _
      split
      · exact h.lineToMem _ _ _ _
      · exact h

theorem l1Drop (m : MCtx) (i : Bool) (line : Nat) : (c.l1Drop m i line).Alike (d.l1Drop m i line) := by
  unfold Chip.l1Drop
  simp only [h.l1Find, h.l1]
  split
  · exact h
  · exact h.setL1 _ _ _

theorem l2Drop (m : MCtx) (line : Nat) : (c.l2Drop m line).Alike (d.l2Drop m line) := by
  unfold Chip.l2Drop
  simp only [h.l2]
  split
  · exact h
  · exact h.setL2 _ _

theorem dcinv (m : MCtx) (line : Nat) : (c.dcinv m line).Alike (d.dcinv m line) := (h.l1Drop m false line).l2Drop m line

theorem dcwb (m : MCtx) (line : Nat) : (c.dcwb m line).Alike (d.dcwb m line) := by
  unfold Chip.dcwb
  extract_lets c1 d1
  have h1 : c1.Alike d1 := by
    unfold c1 d1
    simp only [h.l1Find, h.l1]
    split
    · exact h
    · split
      · exact h
      · rw [(h.writeBack m line _ _).l1]
        exact (h.writeBack m line _ _).setL1 _ _ _
  simp only [h1.l2]
  split
  · exact h1
  · split
    · exact h1
    · rw [(h1.lineToMem m.key line _ _).l2]
      exact (h1.lineToMem m.key line _ _).setL2 _ _

theorem tightWrite (a off n x : Nat) : (c.tightWrite a off n x).Alike (d.tightWrite a off n x) := by
  unfold Chip.tightWrite
  extract_lets a1 t1 c1 a2 t2 d1
  have h1 : c1.Alike d1 := by
    unfold c1 d1 t1 t2
    rw [show a2 = a1 from h.tmAddr a off, h.mem, h.tmBad]
    exact h.setTight _ _
  rw [h1.eight]
  split
  · simp only [h1.mem, h1.tmBad]
    split
    · exact h1.setTight _ _
    · exact h1
  · exact h1

end

end Chip.Alike

end Sys2Proof.Machine
end

section
/-! PROOFS. CASP (R109, R241, R477): it stalls for its reply, and with the reply compares and replaces. -/

namespace Sys2Proof.Machine

/-! ### Memory and cache operations leave pipelines as they are -/

@[simp] theorem Chip.lineToMem_pipes (c : Chip) (key line : Nat) (x : LineData) (bad : BitVec 8) :
    (c.lineToMem key line x bad).pipes = c.pipes := by
  have h (l : List Nat) (d : Chip) : (l.foldl (fun c i => c.poisonQuad (8 * line + i)) d).pipes = d.pipes := by
    induction l generalizing d with
    | nil => rfl
    | cons i l ih =>
      rw [List.foldl_cons, ih]
      unfold Chip.poisonQuad
      dsimp only
      split <;> rfl
  unfold Chip.lineToMem
  rw [h, Chip.memWrite_pipes]

@[simp] theorem Chip.countCore_pipes (c : Chip) (a ev n : Nat) : (c.countCore a ev n).pipes = c.pipes := by
  unfold Chip.countCore
  split <;> simp

@[simp] theorem Chip.setL1_pipes (c : Chip) (a : Nat) (i : Bool) (k : Cache) : (c.setL1 a i k).pipes = c.pipes := rfl

@[simp] theorem Chip.setL2_pipes (c : Chip) (a : Nat) (k : Cache) : (c.setL2 a k).pipes = c.pipes := rfl

@[simp] theorem Chip.l2Error_pipes (c : Chip) (e way addr : Nat) (dirty : Bool) :
    (c.l2Error e way addr dirty).pipes = c.pipes := by
  unfold Chip.l2Error
  dsimp only
  rw [Chip.raise_pipes]
  split <;> simp

@[simp] theorem Chip.writeBack_pipes (c : Chip) (m : MCtx) (line : Nat) (x : LineData) (bad : BitVec 8) :
    (c.writeBack m line x bad).pipes = c.pipes := by
  unfold Chip.writeBack Chip.l2Put
  rw [Chip.countCore_pipes]
  dsimp only
  split
  next => split <;> simp
  next =>
    split
    next => simp
    next => dsimp only [Option.getD_some]; split <;> simp

@[simp] theorem Chip.dcwb_pipes (c : Chip) (m : MCtx) (line : Nat) : (c.dcwb m line).pipes = c.pipes := by
  unfold Chip.dcwb
  extract_lets d
  have hd : d.pipes = c.pipes := by
    unfold d
    split
    next => rfl
    next => dsimp only; split <;> simp
  split
  next => exact hd
  next => dsimp only; split <;> simp [hd]

@[simp] theorem Chip.dcinv_pipes (c : Chip) (m : MCtx) (line : Nat) : (c.dcinv m line).pipes = c.pipes := by
  unfold Chip.dcinv Chip.l2Drop Chip.l1Drop
  split <;> split <;> simp

@[simp] theorem Chip.tightWrite_pipes (c : Chip) (a off n x : Nat) : (c.tightWrite a off n x).pipes = c.pipes := by
  unfold Chip.tightWrite
  dsimp only
  split
  next => split <;> rfl
  next => rfl

/-! ### What a CASP does at its place -/

/-- The access of a CASP. -/
def caspWant (a : Arch) (o : CaspOp) : Want :=
  { seg := o.seg, off := a.rx o.xb, n := 2, rd := true, wr := true, casp := true }

theorem opWants_casp (a : Arch) (o : CaspOp) : opWants a (.casp o) = [caspWant a o] := rfl

/-- The chip that the compare and swap at a place leaves, and the pair read there: in QDR the line is first written back and
dropped (R109, R241). -/
def Chip.swapAt (c : Chip) (m : MCtx) (cmp new : Nat) : Target → Chip × Nat
  | .tight off =>
    let v := c.tightRead m.core off 2
    (if v = cmp then c.tightWrite m.core off 2 new else c, v)
  | .mem ad _ =>
    let d := (c.dcwb m (ad / 32)).dcinv m (ad / 32)
    let v := d.rdN m.key ad 2
    (if v = cmp then d.memWrite m.key ad (toWords 2 new) else d, v)
  | .reg _ => (c, 0)

theorem Chip.swapAt_pipes (c : Chip) (m : MCtx) (cmp new : Nat) (t : Target) : (c.swapAt m cmp new t).1.pipes = c.pipes := by
  cases t with
  | tight off => dsimp only [Chip.swapAt]; split <;> simp
  | mem ad u => dsimp only [Chip.swapAt]; split <;> simp
  | reg ad => rfl

/-- Alike chips give the same pair and stay alike. -/
theorem Chip.Alike.swapAt {c d : Chip} (h : c.Alike d) (m : MCtx) (cmp new : Nat) (t : Target) :
    (c.swapAt m cmp new t).1.Alike (d.swapAt m cmp new t).1 ∧ (d.swapAt m cmp new t).2 = (c.swapAt m cmp new t).2 := by
  cases t with
  | tight off =>
    dsimp only [Chip.swapAt]
    rw [h.tightRead]
    refine ⟨?_, rfl⟩
    split
    · exact h.tightWrite _ _ _ _
    · exact h
  | mem ad u =>
    have hd := (h.dcwb m (ad / 32)).dcinv m (ad / 32)
    dsimp only [Chip.swapAt]
    rw [hd.rdN]
    refine ⟨?_, rfl⟩
    split
    · exact hd.memWrite _ _ _
    · exact hd
  | reg ad => exact ⟨h, rfl⟩

theorem Chip.Frame.countTarget (c : Chip) (e : Env) (t : Target) : c.Frame (c.countTarget e t) e.pi := by
  unfold Chip.countTarget
  split
  · exact Chip.Frame.count _ _ _ _
  · exact Chip.Frame.refl _ _

@[simp] theorem Chip.countTarget_pipes (c : Chip) (e : Env) (t : Target) : (c.countTarget e t).pipes = c.pipes := by
  unfold Chip.countTarget
  split <;> simp

/-- What a CASP counts and traces after the access. -/
def Chip.caspSeen (c : Chip) (e : Env) (t : Target) (v new : Nat) (hit : Bool) : Chip :=
  let d := (c.countTarget e t).traceAccess e t 2 false false false v
  if hit then d.traceAccess e t 2 true false false new else d

theorem Chip.Frame.caspSeen (c : Chip) (e : Env) (t : Target) (v new : Nat) (hit : Bool) :
    c.Frame (c.caspSeen e t v new hit) e.pi := by
  have h := (Chip.Frame.countTarget c e t).trans (Chip.Frame.traceAccess _ e.pi e t 2 false false false v)
  unfold Chip.caspSeen
  dsimp only
  split
  · exact h.trans (Chip.Frame.traceAccess _ _ _ _ _ _ _ _ _)
  · exact h

@[simp] theorem Chip.caspSeen_pipes (c : Chip) (e : Env) (t : Target) (v new : Nat) (hit : Bool) :
    (c.caspSeen e t v new hit).pipes = c.pipes := by
  unfold Chip.caspSeen
  dsimp only
  split <;> simp

theorem Chip.Frame.land (c : Chip) (pi : Nat) (s : Slot) (L : Nat) (ws : List LWrite) : c.Frame (c.land pi s L ws) pi :=
  Chip.Frame.setPipe c pi _

/-- CASP swaps, is counted and traced, and puts the pair read under way to XC. -/
theorem Chip.actCasp_eq {c : Chip} {e : Env} {o : CaspOp} {t : Target} (h : c.goesTo e (caspWant e.a o) = some t)
    (hreg : ∀ ad, t ≠ .reg ad) :
    let r := c.swapAt (c.mctx e.core e.x) (e.a.rx o.xc) (e.a.rx o.xn) t
    ∃ b, r.1.Frame b e.pi ∧ b.pipes = c.pipes ∧ c.actCasp e o = b.land e.pi .l 2 (wrReg .pair o.xc r.2) := by
  intro r
  suffices h : ∃ u, c.actCasp e o
      = (r.1.caspSeen e u r.2 (e.a.rx o.xn) (r.2 == e.a.rx o.xc)).land e.pi .l 2 (wrReg .pair o.xc r.2) by
    obtain ⟨u, hu⟩ := h
    exact ⟨_, Chip.Frame.caspSeen .., (Chip.caspSeen_pipes ..).trans (Chip.swapAt_pipes ..), hu⟩
  unfold Chip.actCasp
  rw [opWants_casp, List.head?_cons, Option.bind_some, h]
  cases t with
  | tight off =>
    refine ⟨.tight off, ?_⟩
    simp only [r, Chip.swapAt, Chip.readTarget, Chip.writeTarget, Chip.caspSeen, beq_iff_eq]
  | mem ad u =>
    refine ⟨.mem ad false, ?_⟩
    simp only [r, Chip.swapAt, Chip.readTarget, Chip.writeTarget, Chip.caspSeen, beq_iff_eq]
  | reg ad => exact absurd rfl (hreg ad)

/-! ### The bundle of the reply -/

theorem Chip.goesTo_eq_some {c : Chip} {e : Env} {q : Want} {t : Target} :
    c.goesTo e q = some t ↔ c.check e.core e.p e.x e.done q = .ok t := by
  unfold Chip.goesTo
  cases c.check e.core e.p e.x e.done q <;> simp [Except.toOption]

/-- Two checks with one condition: what passes the one passes the other if that holds of either outcome of the condition. -/
theorem ok_of_ite_ok {ε α : Type} {b : Prop} [Decidable b] {x x' y y' : Except ε α} {t : α} (hx : x = .ok t → x' = .ok t)
    (hy : y = .ok t → y' = .ok t) : (if b then x else y) = .ok t → (if b then x' else y') = .ok t := by
  split
  · exact hx
  · exact hy

/-- A check that passes did not fail at a condition. -/
theorem ok_of_ite_error {ε α : Type} {b : Prop} [Decidable b] {r : ε} {x : Except ε α} {t : α}
    (h : (if b then .error r else x) = .ok t) : x = .ok t := by
  split at h
  · cases h
  · exact h

/-- An access that raises nothing goes to the same place whatever errors its read would meet. -/
theorem Chip.check_noEcc {c : Chip} {a : Nat} {p : Pipe} {x : RunCtx} {done : List Nat} {q : Want} {t : Target}
    (h : c.check a p x done q = .ok t) : c.check a p x done { q with noEcc := true } = .ok t := by
  revert h
  unfold Chip.check
  extract_lets s lv lin m tr mc tm s' lin' m' tr'
  rw [show tr' = tr from rfl]
  clear_value tr
  refine ok_of_ite_ok (fun h => nomatch h) (ok_of_ite_ok id (ok_of_ite_ok (fun h => nomatch h) ?_))
  cases tr with
  | error r => exact fun h => nomatch h
  | ok r =>
    refine ok_of_ite_ok (fun h => nomatch h) ?_
    show (match c.region a p x r.1 q.n (q.rd && !q.wr && !q.own) r.2 with
      | none => _
      | some t => _) = _ → _
    cases c.region a p x r.1 q.n (q.rd && !q.wr && !q.own) r.2 with
    | none => exact fun h => nomatch h
    | some u =>
      exact ok_of_ite_ok (fun h => nomatch h) (fun h => (ok_of_ite_error h :))
/-- An operation without causes of its own gives its bundle none. -/
theorem Chip.firstOf_single {c : Chip} {e : Env} {s : Slot} {o : CoreOp} (he : hasEret [(s, o)] = false)
    (h : c.opCauses e [(s, o)] s o = []) : c.firstOf e [] [(s, o)] = none := by
  rw [Chip.firstOf_plain he, Chip.causeOf, List.nil_append, List.flatMap_cons, List.flatMap_nil, List.append_nil, h]
  rfl

/-- A chip on which a reply has come after a stall: the stall is over, and the stores past the caches are out. -/
def Chip.replied (c : Chip) (e : Env) (n : Nat) : Chip :=
  let d := (c.stallFor e.pi n).storesFirst e
  d.setPipe e.pi { d.pipe e.pi with stall := none }

theorem Chip.storesFirst_nil {c : Chip} {e : Env} (h : (c.pipe e.pi).stores = []) :
    c.storesFirst e = c.setPipe e.pi (c.pipe e.pi) := by
  unfold Chip.storesFirst
  dsimp only
  rw [h]
  dsimp only [List.filter_nil, List.foldl_nil]
  rw [← h]

theorem Chip.stallFor_pipe (c : Chip) (pi n : Nat) :
    (c.stallFor pi n).pipe pi = { c.pipe pi with stalled := (c.pipe pi).stalled + n } := by
  have h : ((c.count pi 0x04 n).count pi 0x01 n).pipe pi = c.pipe pi := Chip.pipe_of_pipes (by simp) pi
  unfold Chip.stallFor
  dsimp only
  rw [Chip.pipe_setPipe, h]

theorem Chip.Frame.stallFor (c : Chip) (pi n : Nat) : c.Frame (c.stallFor pi n) pi :=
  .trans (Chip.Frame.count c pi _ _) <| .trans (Chip.Frame.count _ pi _ _) (Chip.Frame.setPipe _ pi _)

section
variable {c : Chip} {e : Env} (h : (c.pipe e.pi).stores = []) (n : Nat)
include h

theorem Chip.replied_eq : c.replied e n
    = ((c.stallFor e.pi n).setPipe e.pi ((c.stallFor e.pi n).pipe e.pi)).setPipe e.pi
        { c.pipe e.pi with stalled := (c.pipe e.pi).stalled + n, stall := none } := by
  have hs : ((c.stallFor e.pi n).pipe e.pi).stores = [] := by rw [Chip.stallFor_pipe]; exact h
  unfold Chip.replied
  rw [Chip.storesFirst_nil hs]
  dsimp only
  rw [Chip.pipe_setPipe, Chip.stallFor_pipe]

theorem Chip.replied_pipe : (c.replied e n).pipe e.pi
    = { c.pipe e.pi with stalled := (c.pipe e.pi).stalled + n, stall := none } := by
  rw [Chip.replied_eq h, Chip.pipe_setPipe]

theorem Chip.Frame.replied : c.Frame (c.replied e n) e.pi := by
  rw [Chip.replied_eq h]
  exact .trans (Chip.Frame.stallFor c e.pi n) (.trans (Chip.Frame.setPipe _ _ _) (Chip.Frame.setPipe _ _ _))

end

/-- The environment in which the bundle of a core acts once its reply, of a value no register gives, has come. -/
def Env.onReply (e : Env) (n : Nat) : Env :=
  { e with p := { e.p with stalled := e.p.stalled + n, stall := none }, done := [], lost := [], reply := some 0 }

@[simp] theorem Env.onReply_core (e : Env) (n : Nat) : (e.onReply n).core = e.core := rfl
@[simp] theorem Env.onReply_pi (e : Env) (n : Nat) : (e.onReply n).pi = e.pi := rfl
@[simp] theorem Env.onReply_x (e : Env) (n : Nat) : (e.onReply n).x = e.x := rfl
@[simp] theorem Env.onReply_a (e : Env) (n : Nat) : (e.onReply n).a = e.a := rfl
@[simp] theorem Env.onReply_held (e : Env) (n : Nat) : (e.onReply n).p.held = e.p.held := rfl
@[simp] theorem Env.onReply_landings (e : Env) (n : Nat) (s : Slot) (L : Nat) (ws : List LWrite) :
    (e.onReply n).p.landings s L ws = e.p.landings s L ws := rfl

/-- The causes of a CASP are those of the chip as its access sees it. -/
theorem Chip.Alike.opCauses_casp {c d : Chip} (h : c.Alike d) {e : Env} (hdone : e.done = []) (n : Nat) (o : CaspOp)
    (ops : List (Slot × CoreOp)) :
    d.opCauses (e.onReply n) ops .l (.casp o) = c.opCauses e ops .l (.casp o) := by
  have hcheck (q : Want) : d.check e.core (e.onReply n).p e.x [] q = c.check e.core e.p e.x e.done q := by
    rw [hdone, h.check]; rfl
  have haccess : d.opAccess (e.onReply n) (.casp o) = c.opAccess e (.casp o) := by
    unfold Chip.opAccess
    simp only [← hcheck]
    rfl
  unfold Chip.opCauses
  rw [haccess]
  rfl

/-- The reply of a CASP that raises no cause and goes to memory: its bundle acts. -/
theorem Chip.uncachedReply_casp {c : Chip} {core : Nat} {e : Env} {o : CaspOp} {t : Target} (n : Nat)
    (henv : c.env? core = some e) (hdone : e.done = [])
    (hstall : e.p.stall = some (.uncached [] [] [(.l, .casp o)] false)) (hstores : e.p.stores = [])
    (hcauses : c.opCauses e [(.l, .casp o)] .l (.casp o) = []) (hstream : c.trStream = false)
    (hgoes : c.goesTo e (caspWant e.a o) = some t) (hreg : ∀ ad, t ≠ .reg ad) :
    c.uncachedReply core false n = (c.replied e n).actAll (e.onReply n) [(.l, .casp o)] false := by
  have hpipe : e.p = c.pipe e.pi := (Chip.env?_pipe henv).1
  have hfree : (c.replied e n).pipe e.pi = (e.onReply n).p := by rw [Chip.replied_pipe (hpipe ▸ hstores), ← hpipe]; rfl
  have halike : c.Alike (c.replied e n) := (Chip.Frame.replied (hpipe ▸ hstores) n).alike hstream
  have hops : e.p.replyOps = [(.l, .casp o)] := by rw [Pipe.replyOps, hstall]
  have hwant : uncachedWant e [(.l, .casp o)] = some (caspWant e.a o) := rfl
  have hgoes' : (c.replied e n).goesTo (e.onReply n) { caspWant e.a o with noEcc := true } = some t := by
    rw [Chip.goesTo_eq_some] at hgoes ⊢
    rw [hdone] at hgoes
    exact (halike.check ..).trans (Chip.check_noEcc hgoes)
  have hfirst : (c.replied e n).firstOf (e.onReply n) [] [(.l, .casp o)] = none :=
    Chip.firstOf_single rfl ((halike.opCauses_casp hdone n o _).trans hcauses)
  unfold Chip.uncachedReply
  rw [henv]
  dsimp -zeta only
  rw [hops, hwant, hstall]
  dsimp -zeta only
  extract_lets b p d e' bus
  have hd : d = c.replied e n := rfl
  have he' : { e' with reply := some 0 } = e.onReply n := by
    unfold Env.onReply e'
    rw [hd, hfree]
    rfl
  have hplace : d.goesTo e' { caspWant e.a o with noEcc := true } = some t := by
    rw [← he'] at hgoes'
    exact hgoes'
  have hact : d.completeBundle d { e' with reply := some 0 } [(.l, .casp o)] false
      = (c.replied e n).actAll (e.onReply n) [(.l, .casp o)] false := by
    rw [he', hd, Chip.completeBundle, hfirst]
    exact if_neg Bool.false_ne_true
  rw [if_neg Bool.false_ne_true, hplace]
  cases t with
  | reg ad => exact absurd rfl (hreg ad)
  | tight off => exact hact
  | mem ad u => exact hact

@[simp] theorem Pipe.occupy_stall (p : Pipe) (s : Slot) (o : CoreOp) : (p.occupy s o).stall = p.stall := by
  unfold Pipe.occupy; split <;> rfl

@[simp] theorem Pipe.occupy_fly (p : Pipe) (s : Slot) (o : CoreOp) : (p.occupy s o).fly = p.fly := by
  unfold Pipe.occupy; split <;> rfl

/-- A CASP acts: it swaps at its place, its stall is over, and the pair read is under way to XC. -/
theorem Chip.actAll_casp {c : Chip} {e : Env} {o : CaspOp} {t : Target} (hpipe : c.pipe e.pi = e.p)
    (hstream : c.trStream = false) (hgoes : c.goesTo e (caspWant e.a o) = some t) (hreg : ∀ ad, t ≠ .reg ad) :
    let r := c.swapAt (c.mctx e.core e.x) (e.a.rx o.xc) (e.a.rx o.xn) t
    let d := c.actAll e [(.l, .casp o)] false
    (d.pipe e.pi).stall = none ∧ (d.pipe e.pi).fly = e.p.held ++ e.p.landings .l 2 (wrReg .pair o.xc r.2)
      ∧ d.mem = r.1.mem := by
  intro r d
  have hb : c.Alike (c.emitLanded e) := (Chip.Frame.emitLanded c e).alike hstream
  have hplace : (c.emitLanded e).goesTo e (caspWant e.a o) = some t := by
    rw [Chip.goesTo_eq_some] at hgoes ⊢
    exact (hb.check ..).trans hgoes
  obtain ⟨b, hseen, hpipes, hact⟩ := Chip.actCasp_eq hplace hreg
  obtain ⟨hswap, hread⟩ := hb.swapAt (c.mctx e.core e.x) (e.a.rx o.xc) (e.a.rx o.xn) t
  rw [hb.mctx] at hseen hact
  rw [hread] at hact
  obtain ⟨hframe, hleft⟩ := c.actAll_single e .l (.casp o) false (.inl rfl)
  rw [show (c.emitLanded e).actOp e .l (.casp o) = b.land e.pi .l 2 (wrReg .pair o.xc r.2) from hact] at hframe hleft
  have hmem : d.mem = r.1.mem :=
    (hswap.trans ((hseen.trans ((Chip.Frame.land b e.pi .l 2 _).trans hframe)).alike hswap.trStream)).mem
  dsimp only at hleft
  rw [if_neg Bool.false_ne_true, Chip.land, Chip.pipe_setPipe, Chip.pipe_of_pipes hpipes, Chip.emitLanded_pipe,
    hpipe] at hleft
  refine ⟨?_, ?_, hmem⟩
  · rw [hleft, Pipe.occupy_stall]
  · rw [hleft, Pipe.occupy_fly]
    rfl

/-! ### The two commands -/

theorem Chip.env?_fresh {c : Chip} {core : Nat} {e : Env} (h : c.env? core = some e) :
    e.done = [] ∧ e.lost = [] ∧ e.reply = none := by
  unfold Chip.env? at h
  split at h
  · cases h
  · obtain ⟨x, -, rfl⟩ := Option.map_eq_some_iff.1 h
    exact ⟨rfl, rfl, rfl⟩

theorem Pipe.canIssue_run {p : Pipe} {adv : Bool} (h : p.canIssue adv = true) : p.run = .run := by
  unfold Pipe.canIssue at h
  simp only [Bool.and_eq_true, beq_iff_eq] at h
  obtain ⟨⟨⟨⟨hrun, -⟩, -⟩, -⟩, -⟩ := h
  exact hrun

/-- A ready core issues an operation that does not change the order of bundles. -/
theorem Chip.issueOp_ready {c : Chip} {core : Nat} {e : Env} {s : Slot} {o : CoreOp} (hr : c.Ready core e false)
    (ht : o.transfers = false) :
    c.onCore core (fun a c => c.orExit a (fun c => c.issueOp a s o)) = (c.atCode core).tryIssue e [] [(s, o)] false := by
  obtain ⟨halone, hclose, hissue⟩ := hr
  have hrun : e.p.run.finished = false := by rw [Pipe.canIssue_run hissue]; rfl
  rw [Chip.onCore_alone halone]
  unfold Chip.orExit
  rw [halone.1]
  dsimp only
  rw [hrun, Bool.false_or, hclose, if_neg Bool.false_ne_true]
  unfold Chip.issueOp
  dsimp only
  rw [Chip.env?_atCode, halone.1]
  dsimp only
  rw [ht, if_pos hissue]

/-- A CASP that raises no cause waits for its reply (R109, R477). -/
theorem Chip.tryIssue_casp {c : Chip} {e : Env} {o : CaspOp} (hreply : e.reply = none) (hdone : e.done = [])
    (hlost : e.lost = []) (hcauses : c.opCauses e [(.l, .casp o)] .l (.casp o) = [])
    (harmed : c.armed (0x020 + e.pi) = none) :
    c.tryIssue e [] [(.l, .casp o)] false
      = c.setPipe e.pi { c.pipe e.pi with stall := some (.uncached [] [] [(.l, .casp o)] false) } := by
  have hfirst : c.firstOf e [] [(.l, .casp o)] = none := Chip.firstOf_single rfl hcauses
  have hlines : c.linesOf e [(.l, .casp o)] = [] := by
    rw [Chip.linesOf_plain rfl]
    simp [Chip.opLines, opWants_casp, caspWant, Chip.captureLine, Chip.captureAddr, opSelector]
  have hwaits : c.awaited e [(.l, .casp o)] false = some (.uncached [] [] [(.l, .casp o)] false) := by
    unfold Chip.awaited
    rw [hlines, hreply, hdone, hlost]
    rfl
  unfold Chip.tryIssue
  rw [Chip.injectData_unstruck (.inl harmed)]
  dsimp only
  rw [hfirst, hwaits]
  rfl

theorem exec_casp (core : Fin 64) (o : CaspOp) (s : State) : exec (.casp core o) s
    = s.does fun c => c.onCore core.val (fun a c => c.orExit a (fun c => c.issueOp a .l (.casp o))) := rfl

theorem exec_uncachedReply (core : Fin 64) (err : Bool) (n : Word) (s : State) : exec (.uncachedReply core err n) s
    = s.does fun c => c.onCore core.val (fun a c => c.uncachedReply a err n.toNat) := rfl

/-- The reply of a CASP completes it. -/
theorem caspReply_completes {s : State} {core : Fin 64} {e : Env} {o : CaspOp} {t : Target} (n : Word)
    (halone : s.chip.Alone core e) (hstall : e.p.stall = some (.uncached [] [] [(.l, .casp o)] false))
    (hstores : e.p.stores = []) (hcauses : s.chip.opCauses e [(.l, .casp o)] .l (.casp o) = [])
    (hstream : s.chip.trStream = false) (hgoes : s.chip.goesTo e (caspWant e.a o) = some t) (hreg : ∀ ad, t ≠ .reg ad) :
    let r := s.chip.swapAt (s.chip.mctx e.core e.x) (e.a.rx o.xc) (e.a.rx o.xn) t
    Completes (.uncachedReply core false n) s (fun d =>
      (d.pipe e.pi).stall = none ∧ (d.pipe e.pi).fly = e.p.held ++ e.p.landings .l 2 (wrReg .pair o.xc r.2)
        ∧ d.mem = r.1.mem) := by
  intro r
  obtain ⟨hpipe, -⟩ := Chip.env?_pipe halone.1
  obtain ⟨hdone, -⟩ := Chip.env?_fresh halone.1
  rw [hpipe] at hstores
  have halike : s.chip.Alike (s.chip.replied e n.toNat) := (Chip.Frame.replied hstores _).alike hstream
  have hfree : (s.chip.replied e n.toNat).pipe e.pi = (e.onReply n.toNat).p := by
    rw [Chip.replied_pipe hstores, ← hpipe]; rfl
  have hplace : (s.chip.replied e n.toNat).goesTo (e.onReply n.toNat) (caspWant e.a o) = some t := by
    rw [Chip.goesTo_eq_some, hdone] at *
    exact (halike.check ..).trans hgoes
  obtain ⟨hswap, hread⟩ := halike.swapAt (s.chip.mctx e.core e.x) (e.a.rx o.xc) (e.a.rx o.xn) t
  refine completes_of_does (exec_uncachedReply core false n s) ?_
  rw [Chip.onCore_alone halone,
    Chip.uncachedReply_casp n.toNat halone.1 hdone hstall (hpipe ▸ hstores) hcauses hstream hgoes hreg]
  have hacts := Chip.actAll_casp (e := e.onReply n.toNat) hfree halike.trStream hplace hreg
  simp only [Env.onReply_core, Env.onReply_pi, Env.onReply_x, Env.onReply_a, Env.onReply_held, Env.onReply_landings,
    halike.mctx, hread, hswap.mem] at hacts
  exact hacts

/-- Settles O16: until its reply CASP only stalls, as it waits for one whatever its place; with the reply its bundle acts on a
chip that differs from the one it met in what observes alone, so the swap there is the swap the statement names. -/
theorem compareAndSwapWaitsForItsReply : Obligations.CompareAndSwapWaitsForItsReply := by
  unfold Obligations.CompareAndSwapWaitsForItsReply
  intro s core e o
  refine ⟨fun hready hcauses harmed => ?_, fun q n halone hstall hstores hcauses hq hstream => ?_⟩
  · obtain ⟨hpipe, -⟩ := Chip.env?_pipe hready.1.1
    obtain ⟨hdone, hlost, hreply⟩ := Chip.env?_fresh hready.1.1
    refine completes_of_does (exec_casp core o s) ?_
    rw [Chip.issueOp_ready hready rfl, Chip.tryIssue_casp hreply hdone hlost hcauses harmed,
      Chip.pipe_of_pipes (Chip.atCode_pipes _ _), ← hpipe]
  · obtain rfl : caspWant e.a o = q := List.singleton_inj.1 ((opWants_casp e.a o).symm.trans hq)
    intro c m cmp new
    refine ⟨fun off hgoes => ?_, fun ad b hgoes => ?_⟩
    · have h := caspReply_completes n halone hstall hstores hcauses hstream hgoes (fun ad h => nomatch h)
      simp only [Chip.swapAt, apply_ite Chip.mem] at h
      exact h
    · have h := caspReply_completes n halone hstall hstores hcauses hstream hgoes (fun ad h => nomatch h)
      simp only [Chip.swapAt, apply_ite Chip.mem] at h
      exact h

end Sys2Proof.Machine
end

section
/-! PROOFS. The statement about barriers and the predictor (R242): an MBAR of far operations in a timed window. -/

namespace Sys2Proof.Machine

theorem exec_mbar (core : Fin 64) (k : Fin 16) (s : State) : exec (.mbar core k) s
    = s.does fun c => c.onCore core.val (fun a c => c.orExit a (fun c => c.issueOp a .b (.mbar k))) := rfl

/-- An MBAR makes no access and captures nothing, so where it stands legally with its unit free it is clear. -/
theorem Chip.clear_mbar (c : Chip) {e : Env} {k : Fin 16} (hlegal : opLegal .b (.mbar k) = true)
    (hpriv : opPriv e (.mbar k) = false) (hfree : opConflict e .b (.mbar k) = false) : c.Clear e .b (.mbar k) := by
  have htimed : (!e.x.open_ && (CoreOp.mbar k).timedIllegal) = false := Bool.and_false _
  have hopen : (e.x.open_ && (CoreOp.mbar k).openIllegal) = false := Bool.and_false _
  have hline : c.captureLine e (.mbar k) = none := ite_self _
  have hlines : c.opLines e (.mbar k) = [] := by
    unfold Chip.opLines
    rw [hline]
    rfl
  exact ⟨Chip.opCauses_plain c e _ .b _ rfl hopen rfl rfl hlegal htimed hpriv hfree rfl rfl, hlines, rfl, .inr rfl⟩

/-- In a timed window an MBAR with bit 2 of its KIND takes its unit for four cycles and puts its cycle among those of the
barriers that order far operations (R242). -/
theorem mbar_orders_far {s : State} {core : Fin 64} {e : Env} {k : Fin 16} (hready : s.chip.Ready core e false)
    (htimed : e.x.open_ = false) (hfar : bitN k.val 2 = true) :
    OpCompletes s e .b (.mbar k) { e.p.afterOp .b (.mbar k) [] with farBars := e.p.farBars ++ [e.p.cycle] } (.mbar core k) := by
  refine opCompletes_of hready rfl rfl (exec_mbar core k s)
    (fun hlegal _ _ hpriv hfree => Chip.clear_mbar _ hlegal hpriv hfree) (fun b hb => ?_)
  have hact : b.actOp e .b (.mbar k) = b.setPipe e.pi { e.p with fly := e.p.held, farBars := e.p.farBars ++ [e.p.cycle] } := by
    show b.actMbar e k.val = _
    unfold Chip.actMbar
    rw [htimed, hfar, hb]
    rfl
  rw [hact, Chip.pipe_setPipe]
  refine ⟨Chip.Frame.setPipe _ _ _, ?_⟩
  have hstall := Pipe.canIssue_stall hready.2.2
  simp only [Pipe.occupy, Pipe.afterOp, CoreOp.unit, List.append_nil, hstall]

/-- A chip on which core 0 runs a timed window, with nothing in flight. -/
def timedWindow : Chip := { pipes := [(0, { run := .run, ctx := some {} })] }

/-- The environment of its core. -/
def timedWindowEnv : Env := { core := 0, pi := 0, x := {}, p := timedWindow.pipe 0, pc := 0 }

theorem timedWindow_ready : timedWindow.Ready 0 timedWindowEnv false := by decide

/-- Refutes O20: it leaves the pipeline after an MBAR with its unit taken and nothing else changed, but in a timed window an
MBAR of KIND 4 is also recorded among the barriers that order far operations. -/
theorem not_barriersAndPredictorAct : ¬ Obligations.BarriersAndPredictorAct := by
  unfold Obligations.BarriersAndPredictorAct
  intro h
  obtain ⟨hissue, -⟩ := h { chip := timedWindow } 0 timedWindowEnv
  obtain ⟨hmbar, -⟩ := hissue timedWindow_ready
  have hstated := hmbar 4 (by decide) (by decide) (by decide) (by decide) (by decide)
  have hdone := mbar_orders_far (s := { chip := timedWindow }) (core := 0) (k := 4) timedWindow_ready rfl (by decide)
    (by decide) (by decide) (by decide) (by decide) (by decide)
  obtain ⟨-, hp⟩ := hstated.of_does (exec_mbar 0 4 _)
  obtain ⟨-, hq⟩ := hdone.of_does (exec_mbar 0 4 _)
  have hbars : timedWindowEnv.p.farBars ++ [timedWindowEnv.p.cycle] = timedWindowEnv.p.farBars :=
    congrArg Pipe.farBars (hq.symm.trans hp)
  simp at hbars

end Sys2Proof.Machine
end

section
/-! PROOFS. The cache operations and the walk of a page table leave pipelines as they are, and an operation that is clear acts. -/

namespace Sys2Proof.Machine

/-! ### Cache operations leave pipelines as they are -/

@[simp] theorem Chip.l2Put_getD_pipes (c : Chip) (m : MCtx) (line : Nat) (x : LineData) (dirty : Bool) (bad : BitVec 8) :
    ((c.l2Put m line x dirty bad).getD c).pipes = c.pipes := by
  unfold Chip.l2Put
  dsimp only
  split
  next => split <;> simp
  next =>
    split
    next => rfl
    next => dsimp only [Option.getD_some]; split <;> simp

@[simp] theorem Chip.memFetch_pipes (c : Chip) (m : MCtx) (line : Nat) : (c.memFetch m line).1.pipes = c.pipes :=
  c.l2Put_getD_pipes m line _ _ _

@[simp] theorem Chip.lineFetch_pipes (c : Chip) (m : MCtx) (line : Nat) : (c.lineFetch m line).1.pipes = c.pipes := by
  unfold Chip.lineFetch
  dsimp only
  split
  next => simp
  next =>
    split
    next => simp
    next =>
      split
      next => simp
      next => split <;> simp

@[simp] theorem Chip.l1Put_pipes (c : Chip) (m : MCtx) (i : Bool) (w line : Nat) (x : LineData) (bad : BitVec 8)
    (lock : Bool) : (c.l1Put m i w line x bad lock).pipes = c.pipes := by
  unfold Chip.l1Put
  dsimp only
  rw [Chip.setL1_pipes]
  split <;> simp

@[simp] theorem Chip.l1Fill_pipes (c : Chip) (m : MCtx) (i : Bool) (line : Nat) : (c.l1Fill m i line).pipes = c.pipes := by
  unfold Chip.l1Fill
  split <;> simp

@[simp] theorem Chip.cachedRead_pipes (c : Chip) (m : MCtx) (a n : Nat) : (c.cachedRead m a n).1.pipes = c.pipes := by
  unfold Chip.cachedRead
  extract_lets line d
  have hd : d.pipes = c.pipes := by unfold d; split <;> simp
  split
  next => exact hd
  next => exact hd

@[simp] theorem Chip.l1Drop_pipes (c : Chip) (m : MCtx) (i : Bool) (line : Nat) : (c.l1Drop m i line).pipes = c.pipes := by
  unfold Chip.l1Drop
  split <;> rfl

@[simp] theorem Chip.setLock_pipes (c : Chip) (m : MCtx) (i : Bool) (line : Nat) (b : Bool) :
    (c.setLock m i line b).pipes = c.pipes := by
  unfold Chip.setLock
  split <;> rfl

@[simp] theorem Chip.lkResult_pipes (c : Chip) (core : Nat) (i : Bool) (r k : Nat) : (c.lkResult core i r k).pipes = c.pipes :=
  rfl

@[simp] theorem Chip.lockLine_pipes (c : Chip) (m : MCtx) (i : Bool) (line : Nat) : (c.lockLine m i line).pipes = c.pipes := by
  unfold Chip.lockLine
  extract_lets s k ways fill
  have hfill : (fill c).pipes = c.pipes := by
    unfold fill
    split
    next => rfl
    next w _ =>
      rw [Chip.lkResult_pipes, Chip.l1Put_pipes, Chip.lineFetch_pipes]
      split
      next => rfl
      next => dsimp only; split <;> simp
  split
  next =>
    split
    · rfl
    · split
      · simp
      · exact hfill
  next => exact hfill

@[simp] theorem Chip.logError_pipes (c : Chip) (core array addr : Nat) : (c.logError core array addr).pipes = c.pipes := by
  unfold Chip.logError
  dsimp only
  rw [Chip.raise_pipes, Chip.bumpFld_pipes]
  split <;> simp

@[simp] theorem Chip.eccLine_pipes (c : Chip) (e : Env) (ad : Nat) : (c.eccLine e ad).pipes = c.pipes := by
  unfold Chip.eccLine
  dsimp only
  split
  next =>
    split
    next => split <;> simp
    next => rfl
  next =>
    rw [Chip.l1Drop_pipes]
    split
    · simp
    · split <;> simp

/-! ### Walks leave pipelines as they are -/

@[simp] theorem Chip.walkRead_pipes (c : Chip) (e : Env) (addr : Nat) : (c.walkRead e addr).1.pipes = c.pipes := by
  unfold Chip.walkRead
  dsimp only
  iterate 4 (split; · rfl)
  split
  · exact c.eccLine_pipes e addr
  · exact c.cachedRead_pipes _ addr 4

/-- A level of a walk reads one table entry: it ends on the chip the read leaves, or goes on from there. -/
theorem Chip.walkFrom_succ (c : Chip) (e : Env) (asid : BitVec 12) (lin l table : Nat) (w : Walk) :
    let d := (c.walkRead e (table + (if l = 1 then bits lin 41 32 else bits lin 31 22) * 4)).1
    (c.walkFrom e asid lin (l + 1) table w).1 = d
      ∨ ∃ table' w', c.walkFrom e asid lin (l + 1) table w = d.walkFrom e asid lin l table' w' := by
  rw [Chip.walkFrom]
  dsimp only
  generalize c.walkRead e _ = r
  obtain ⟨d, line | ⟨q, hit⟩ | code⟩ := r
  · exact .inl rfl
  · dsimp only
    split
    · exact .inl rfl
    · split
      · exact .inl rfl
      · exact .inr ⟨_, _, rfl⟩
  · exact .inl rfl

@[simp] theorem Chip.walkFrom_pipes (c : Chip) (e : Env) (asid : BitVec 12) (lin l table : Nat) (w : Walk) :
    (c.walkFrom e asid lin l table w).1.pipes = c.pipes := by
  induction l generalizing c table w with
  | zero =>
    rw [← c.walkRead_pipes e (table + bits lin 21 12 * 4), Chip.walkFrom]
    generalize c.walkRead e _ = r
    obtain ⟨d, line | ⟨q, hit⟩ | code⟩ := r <;> rfl
  | succ l ih =>
    obtain h | ⟨table', w', h⟩ := c.walkFrom_succ e asid lin l table w
    · rw [h, Chip.walkRead_pipes]
    · rw [h, ih, Chip.walkRead_pipes]

@[simp] theorem Chip.walk_pipes (c : Chip) (e : Env) (y : Nat) : (c.walk e y).1.pipes = c.pipes := by
  unfold Chip.walk
  extract_lets root asid wc find
  split
  · rfl
  · split
    · rfl
    · split <;> exact Chip.walkFrom_pipes _ _ _ _ _ _ _

/-! ### An operation that is clear acts -/

/-- What the command of an operation that is clear leaves: the chip on which the operation has acted, its unit occupied. -/
theorem completes_of_clear {s : State} {core : Fin 64} {e : Env} {sl : Slot} {o : CoreOp} {i : Instr}
    (hready : s.chip.Ready core e false) (hclear : (s.chip.atCode core).Clear e sl o) (ht : o.transfers = false)
    (he : hasEret [(sl, o)] = false)
    (hx : exec i s = s.does fun c => c.onCore core.val (fun a c => c.orExit a (fun c => c.issueOp a sl o))) :
    let r := ((s.chip.atCode core).emitLanded e).actOp e sl o
    Completes i s (fun d => r.Frame d e.pi ∧ d.pipe e.pi = Pipe.occupy { r.pipe e.pi with stall := none } sl o) := by
  intro r
  refine completes_of_does hx ?_
  rw [Chip.issueOp_clear hready hclear ht he]
  exact Chip.actAll_single _ e sl o false (.inl rfl)

/-- The pipeline of a core that issues, once the packets of its landed loads are out. -/
theorem Chip.issuing_pipe {c : Chip} {core : Nat} {e : Env} (h : c.env? core = some e) :
    ((c.atCode core).emitLanded e).pipe e.pi = { e.p with fly := e.p.held } := by
  obtain ⟨hpipe, -⟩ := Chip.env?_pipe h
  rw [Chip.emitLanded_pipe, Chip.pipe_of_pipes (Chip.atCode_pipes c core), ← hpipe]

end Sys2Proof.Machine
end

section
/-! PROOFS. The statement about cache line operations (R226, R234, R235). -/

namespace Sys2Proof.Machine

/-- The command of a cache line operation. -/
def CacheFn.command (core : Fin 64) (o : CacheArg) : CacheFn → Instr
  | .prefd => .prefd core o
  | .prefi => .prefi core o
  | .pref2 => .pref2 core o
  | .dcwb => .dcwb core o
  | .dcinv => .dcinv core o
  | .dcwbi => .dcwbi core o
  | .icinv => .icinv core o
  | .dlock => .dlock core o
  | .dunlk => .dunlk core o
  | .ilock => .ilock core o
  | .iunlk => .iunlk core o

theorem exec_cacheCommand (core : Fin 64) (fn : CacheFn) (o : CacheArg) (s : State) : exec (fn.command core o) s
    = s.does fun c => c.onCore core.val (fun a c => c.orExit a (fun c => c.issueOp a .b (.cache fn o))) := by
  cases fn <;> rfl

/-- What a cache line operation does on a line of memory: a prefetch where it acts, the others always (R234, R235). -/
def Chip.lineAct (c : Chip) (m : MCtx) (acts : Bool) (line : Nat) : CacheFn → Chip
  | .prefd => if acts && (c.l1Find m false line).isNone && c.l1CanFill m false line then c.l1Fill m false line else c
  | .prefi => if acts && (c.l1Find m true line).isNone && c.l1CanFill m true line then c.l1Fill m true line else c
  | .pref2 => if acts then (c.lineFetch m line).1 else c
  | .dcwb => c.dcwb m line
  | .dcinv => c.dcinv m line
  | .dcwbi => (c.dcwb m line).dcinv m line
  | .icinv => c.l1Drop m true line
  | .dlock => c.lockLine m false line
  | .ilock => c.lockLine m true line
  | .dunlk => c.setLock m false line false
  | .iunlk => c.setLock m true line false

/-- What a cache line operation does at a place that no cache holds: a lock says so (R235). -/
def Chip.uncachedAct (c : Chip) (e : Env) : CacheFn → Chip
  | .dlock => c.lkResult e.core false 2 1
  | .ilock => c.lkResult e.core true 2 1
  | _ => c

/-- What a cache line operation does where its check has led it. -/
def Chip.actAt (c : Chip) (e : Env) (fn : CacheFn) (o : CacheArg) : Target → Chip
  | .mem ad _ => c.lineAct (c.mctx e.core e.x) (c.prefetches e o) (ad / 32) fn
  | _ => c.uncachedAct e fn

theorem Chip.cacheAct_of_ok {c : Chip} {e : Env} {fn : CacheFn} {o : CacheArg} {t : Target}
    (h : c.check e.core e.p e.x e.done (cacheWant e.a fn o) = .ok t) : c.cacheAct e fn o = c.actAt e fn o t := by
  unfold Chip.cacheAct
  rw [h]
  cases t <;> cases fn <;> rfl

theorem Chip.cacheAct_of_error {c : Chip} {e : Env} {fn : CacheFn} {o : CacheArg} {k : Raised}
    (h : c.check e.core e.p e.x e.done (cacheWant e.a fn o) = .error k) : c.cacheAct e fn o = c := by
  unfold Chip.cacheAct
  rw [h]

@[simp] theorem Chip.lineAct_pipes (c : Chip) (m : MCtx) (acts : Bool) (line : Nat) (fn : CacheFn) :
    (c.lineAct m acts line fn).pipes = c.pipes := by
  cases fn with
  | prefd | prefi | pref2 => simp only [Chip.lineAct]; split <;> simp
  | _ => simp [Chip.lineAct]

@[simp] theorem Chip.uncachedAct_pipes (c : Chip) (e : Env) (fn : CacheFn) : (c.uncachedAct e fn).pipes = c.pipes := by
  cases fn <;> rfl

@[simp] theorem Chip.cacheAct_pipes (c : Chip) (e : Env) (fn : CacheFn) (o : CacheArg) :
    (c.cacheAct e fn o).pipes = c.pipes := by
  cases h : c.check e.core e.p e.x e.done (cacheWant e.a fn o) with
  | error k => rw [Chip.cacheAct_of_error h]
  | ok t =>
    rw [Chip.cacheAct_of_ok h]
    cases t with
    | mem ad cached => exact c.lineAct_pipes _ _ (ad / 32) fn
    | tight off => exact c.uncachedAct_pipes e fn
    | reg ad => exact c.uncachedAct_pipes e fn

/-- A prefetch that does not act changes nothing, wherever it would go (R226). -/
theorem Chip.cacheAct_of_not_prefetches {c : Chip} {e : Env} {fn : CacheFn} {o : CacheArg} (h : c.prefetches e o = false)
    (hfn : fn.isPrefetch = true) : c.cacheAct e fn o = c := by
  cases hcheck : c.check e.core e.p e.x e.done (cacheWant e.a fn o) with
  | error k => exact Chip.cacheAct_of_error hcheck
  | ok t =>
    rw [Chip.cacheAct_of_ok hcheck]
    cases fn with
    | prefd | prefi | pref2 => cases t <;> simp [Chip.actAt, Chip.lineAct, Chip.uncachedAct, h]
    | _ => cases hfn

/-- The command of a cache line operation that is clear: the operation acts on its line and occupies its unit. -/
theorem cacheCommand_completes {s : State} {core : Fin 64} {e : Env} {o : CacheArg} (fn : CacheFn)
    (hready : s.chip.Ready core e false) (hclear : (s.chip.atCode core).Clear e .b (.cache fn o)) :
    let r := ((s.chip.atCode core).emitLanded e).cacheAct e fn o
    Completes (fn.command core o) s (fun d => r.Leaves d e (.cache fn o)) := by
  have h := completes_of_clear hready hclear rfl rfl (exec_cacheCommand core fn o s)
  have hstall : e.p.stall = none := Pipe.canIssue_stall hready.2.2
  have hpipe : (((s.chip.atCode core).emitLanded e).cacheAct e fn o).pipe e.pi = { e.p with fly := e.p.held } :=
    (Chip.pipe_of_pipes (Chip.cacheAct_pipes ..) e.pi).trans (Chip.issuing_pipe hready.1.1)
  obtain ⟨t, hx, hpend, hframe, hleft⟩ := h
  refine ⟨t, hx, hpend, hframe, hleft.trans ?_⟩
  rw [show ((s.chip.atCode core).emitLanded e).actOp e .b (.cache fn o)
    = ((s.chip.atCode core).emitLanded e).cacheAct e fn o from rfl, hpipe]
  have hland := Pipe.occupy_land e.p .b (.cache fn o) 1 [] hstall
  simpa [Pipe.land, Pipe.landings] using hland

/-- The same where its checks have led it to a place. -/
theorem lineOp_completes {s : State} {core : Fin 64} {e : Env} {o : CacheArg} {t : Target} {r : Chip} (fn : CacheFn)
    (hready : s.chip.Ready core e false) (hop : (s.chip.atCode core).LineOp e fn o t)
    (hr : ((s.chip.atCode core).emitLanded e).actAt e fn o t = r) :
    Completes (fn.command core o) s (fun d => r.Leaves d e (.cache fn o)) := by
  obtain ⟨hclear, hcheck⟩ := hop
  rw [← hr, ← Chip.cacheAct_of_ok hcheck]
  exact cacheCommand_completes fn hready hclear

/-- The same of a prefetch that does not act. -/
theorem prefetch_completes {s : State} {core : Fin 64} {e : Env} {o : CacheArg} (fn : CacheFn)
    (hready : s.chip.Ready core e false) (hfn : fn.isPrefetch = true)
    (hnot : ((s.chip.atCode core).emitLanded e).prefetches e o = false)
    (hclear : (s.chip.atCode core).Clear e .b (.cache fn o)) :
    Completes (fn.command core o) s (fun d => ((s.chip.atCode core).emitLanded e).Leaves d e (.cache fn o)) := by
  have h := cacheCommand_completes fn hready hclear
  rwa [Chip.cacheAct_of_not_prefetches hnot hfn] at h

/-- Settles O19: an operation that passes its checks leaves the chip on which it has acted at the place its check has led it
to, with its unit occupied; a prefetch acts where its conditions stand, and changes nothing where it does not act. -/
theorem cacheLineOperationsAct : Obligations.CacheLineOperationsAct := by
  unfold Obligations.CacheLineOperationsAct
  intro s core e o ad cached hready c b m line t
  refine ⟨fun hop hacts hmiss hway => ?prefd, fun hop hacts hmiss hway => ?prefi, fun hop hacts => ?pref2,
    fun hnot => ⟨fun hclear => prefetch_completes .prefd hready rfl hnot hclear,
      fun hclear => prefetch_completes .prefi hready rfl hnot hclear,
      fun hclear => prefetch_completes .pref2 hready rfl hnot hclear⟩,
    fun hop => lineOp_completes .dcwb hready hop rfl, fun hop => lineOp_completes .dcinv hready hop rfl,
    fun hop => lineOp_completes .dcwbi hready hop rfl, fun hop => lineOp_completes .icinv hready hop rfl,
    fun hop => lineOp_completes .dlock hready hop rfl, fun hop => lineOp_completes .ilock hready hop rfl,
    fun hop => lineOp_completes .dunlk hready hop rfl, fun hop => lineOp_completes .iunlk hready hop rfl,
    fun off hop => lineOp_completes .dlock hready hop rfl, fun off hop => lineOp_completes .ilock hready hop rfl⟩
  case prefd => exact lineOp_completes .prefd hready hop (if_pos (by rw [hacts, hmiss, hway]; rfl))
  case prefi => exact lineOp_completes .prefi hready hop (if_pos (by rw [hacts, hmiss, hway]; rfl))
  case pref2 => exact lineOp_completes .pref2 hready hop (if_pos hacts)

end Sys2Proof.Machine
end

section
/-! PROOFS. The statement about translation operations (R213, R217, R220, R223): TLBW and TLBI issue and land, TWALK walks. -/

namespace Sys2Proof.Machine

/-! ### TLBW and TLBI issue -/

theorem exec_tlbw (core : Fin 64) (w : Fin 64) (s : State) : exec (.tlbw core w) s
    = s.does fun c => c.onCore core.val (fun a c => c.orExit a (fun c => c.issueOp a .b (.tlbw w))) := rfl

theorem exec_tlbi (core : Fin 64) (o : TlbiOp) (s : State) : exec (.tlbi core o) s
    = s.does fun c => c.onCore core.val (fun a c => c.orExit a (fun c => c.issueOp a .b (.tlbi o))) := rfl

/-- An operation that makes no access, captures no selector and walks no table, where it stands legally with its unit free. -/
theorem Chip.clear_of_no_access (c : Chip) {e : Env} {s : Slot} {o : CoreOp} (hwants : opWants e.a o = [])
    (hsel : opSelector e.a o = none) (hwalk : ∀ q, o ≠ .twalk q)
    (hcauses : c.opCauses e [(s, o)] s o = c.opAccess e o ++ c.opCapture e o) : c.Clear e s o := by
  refine ⟨?_, ?_, ?_, .inr ?_⟩
  · rw [hcauses, Chip.opAccess, hwants, Chip.opCapture, hsel]
    rfl
  · have hline : c.captureLine e o = none := by
      rw [Chip.captureLine, Chip.captureAddr, hsel]
      exact ite_self _
    unfold Chip.opLines
    rw [hwants, hline]
    split
    next q => exact absurd rfl (hwalk q)
    next => rfl
  · rw [Chip.opUncached, hwants]
    rfl
  · rw [hwants]
    rfl

/-! ### TWALK -/

theorem exec_twalk (core : Fin 64) (o : TwalkOp) (s : State) : exec (.twalk core o) s
    = s.does fun c => c.onCore core.val (fun a c => c.orExit a (fun c => c.issueOp a .b (.twalk o))) := rfl

/-- The results of a TWALK: the status of its walk, and the leaf that the walk has found (R220). -/
def Walk.writes (r : Walk) (o : TwalkOp) : List LWrite :=
  wrReg .word o.wr r.status ++ (match r.leaf with
    | some q => wrReg .quad o.ya q.toNat
    | none => [])

/-- A TWALK walks, stalls for what it has found in L1D, keeps the walk cache the walk leaves, and puts its results in flight. -/
theorem Chip.actTwalk_eq (c : Chip) (e : Env) (o : TwalkOp) :
    let r := c.walk e (e.a.rd .quad o.yb)
    let d := (r.1.count e.pi 0x0D 1).stallFor e.pi (4 * r.2.hits)
    c.actTwalk e o = (d.setPipe e.pi { d.pipe e.pi with wc := r.2.wc }).land e.pi .b (if r.2.reads = 0 then 1 else 2)
      (r.2.writes o) := by
  unfold Chip.actTwalk Walk.writes
  rfl

theorem Chip.Frame.actTwalk (c : Chip) (e : Env) (o : TwalkOp) :
    (c.walk e (e.a.rd .quad o.yb)).1.Frame (c.actTwalk e o) e.pi := by
  rw [Chip.actTwalk_eq]
  exact .trans (Chip.Frame.count _ _ _ _) <| .trans (Chip.Frame.stallFor _ _ _) <|
    .trans (Chip.Frame.setPipe _ _ _) (Chip.Frame.land _ _ _ _ _)

theorem Chip.actTwalk_pipe (c : Chip) (e : Env) (o : TwalkOp) :
    let r := (c.walk e (e.a.rd .quad o.yb)).2
    let p := c.pipe e.pi
    (c.actTwalk e o).pipe e.pi = Pipe.land { p with stalled := p.stalled + 4 * r.hits, wc := r.wc } .b
      (if r.reads = 0 then 1 else 2) (r.writes o) := by
  have h : ((c.walk e (e.a.rd .quad o.yb)).1.count e.pi 0x0D 1).pipe e.pi = c.pipe e.pi := Chip.pipe_of_pipes (by simp) _
  rw [Chip.actTwalk_eq, Chip.land, Chip.pipe_setPipe, Chip.pipe_setPipe, Chip.stallFor_pipe, h]

/-- The command of a TWALK that is clear. -/
theorem twalk_completes {s : State} {core : Fin 64} {e : Env} {o : TwalkOp} (hready : s.chip.Ready core e false)
    (hclear : (s.chip.atCode core).Clear e .b (.twalk o)) :
    let r := ((s.chip.atCode core).emitLanded e).walk e (e.a.rd .quad o.yb)
    Completes (.twalk core o) s (fun d => r.1.Frame d e.pi ∧ d.pipe e.pi =
      { e.p.afterOp .b (.twalk o) (e.p.landings .b (if r.2.reads = 0 then 1 else 2) (r.2.writes o)) with
        wc := r.2.wc, stalled := e.p.stalled + 4 * r.2.hits }) := by
  intro r
  obtain ⟨t, hx, hpend, hframe, hleft⟩ := completes_of_clear hready hclear rfl rfl (exec_twalk core o s)
  have hstall : e.p.stall = none := Pipe.canIssue_stall hready.2.2
  have hact := ((s.chip.atCode core).emitLanded e).actTwalk_pipe e o
  rw [Chip.issuing_pipe hready.1.1] at hact
  refine ⟨t, hx, hpend, .trans (Chip.Frame.actTwalk _ e o) hframe, hleft.trans ?_⟩
  rw [show ((s.chip.atCode core).emitLanded e).actOp e .b (.twalk o)
    = ((s.chip.atCode core).emitLanded e).actTwalk e o from rfl, hact]
  exact Pipe.occupy_land { e.p with stalled := e.p.stalled + 4 * r.2.hits, wc := r.2.wc } .b (.twalk o) _ (r.2.writes o) hstall

/-! ### The end of a cycle in which one result lands -/

theorem exec_resultLanding (core : Fin 64) (s : State) : exec (.resultLanding core) s
    = s.does fun c => c.onCore core.val (fun a c => c.endCycle a) := rfl

@[simp] theorem Chip.emitPwr_pipes (c : Chip) (core : Nat) (p : Pipe) (x : RunCtx) (st : Nat) :
    (c.emitPwr core p x st).pipes = c.pipes := by
  unfold Chip.emitPwr
  dsimp only
  split
  · exact c.emit_pipes _ _ _ _
  · exact c.emit_pipes _ _ _ _

@[simp] theorem Chip.featherPacket_pipes (c : Chip) (e : Env) : (c.featherPacket e).pipes = c.pipes := by
  unfold Chip.featherPacket
  split <;> simp

/-- Of the pipelines a far operation that completes changes at most whether one runs on. -/
theorem Chip.farEffect_pipe (c : Chip) (core k : Nat) (f : FarOp) :
    ∃ r, (c.farEffect core f).pipe k = { c.pipe k with run := r } := by
  have hsame {d : Chip} (h : d.pipes = c.pipes) : ∃ r, d.pipe k = { c.pipe k with run := r } :=
    ⟨(c.pipe k).run, Chip.pipe_of_pipes h k⟩
  unfold Chip.farEffect
  split
  · exact hsame (Chip.memWrite_pipes ..)
  · split
    · unfold Chip.farFail
      split
      next => exact hsame rfl
      next e henv =>
        split
        · exact hsame rfl
        · dsimp only
          by_cases hk : k = e.pi
          · subst hk
            exact ⟨.faulted Cause.farop.code f.off, by rw [Chip.pipe_setPipe, (Chip.env?_pipe henv).1]⟩
          · refine ⟨(c.pipe k).run, ?_⟩
            rw [Chip.pipe_setPipe_ne _ _ _ _ hk]
            exact Chip.pipe_of_pipes (by simp) k
    · exact hsame (Chip.tightWrite_pipes ..)

/-- Far operations that complete leave a pipeline as it was but for the list of them and whether it runs on. -/
theorem Chip.farEnd_pipe (c : Chip) (core pi : Nat) (f : FarOp → Bool) :
    ∃ r fs, (c.farEnd core pi f).pipe pi = { c.pipe pi with run := r, far := fs } := by
  have hall (l : List FarOp) (d : Chip) :
      ∃ r, (l.foldl (fun c q => c.farEffect core q) d).pipe pi = { d.pipe pi with run := r } := by
    induction l generalizing d with
    | nil => exact ⟨(d.pipe pi).run, rfl⟩
    | cons q l ih =>
      obtain ⟨r, hr⟩ := ih (d.farEffect core q)
      obtain ⟨r', hr'⟩ := d.farEffect_pipe core pi q
      exact ⟨r, by rw [List.foldl_cons, hr, hr']⟩
  unfold Chip.farEnd
  extract_lets fs p sel
  obtain ⟨r, hr⟩ := hall (fs.filter sel) (c.setPipe pi { p with far := fs.filter (fun q => !sel q) })
  exact ⟨r, _, hr.trans (by rw [Chip.pipe_setPipe])⟩

/-- One result that lands and sets no sticky flag. -/
theorem Pipe.landAll_single (p : Pipe) (l : Landing) (h : p.arch.landSticky l.wr = 0) : p.landAll [l] = p.landOne l.wr := by
  have hfl : (p.landOne l.wr).arch.fl ||| (0 ||| p.arch.landSticky l.wr) = (p.landOne l.wr).arch.fl := by
    rw [h]
    exact BitVec.or_zero
  unfold Pipe.landAll
  simp only [sortLandings, List.foldl_cons, List.foldl_nil, insertLanding]
  rw [hfl]

/-- A result in flight that is no trace packet stays in flight as packets are sent. -/
theorem Pipe.held_single {p : Pipe} {l : Landing} (hfly : p.fly = [l]) (hres : ∀ k wr ad sz x, l.wr ≠ .tdata k wr ad sz x) :
    p.held = [l] := by
  obtain ⟨at_, issue, pri, w⟩ := l
  unfold Pipe.held
  rw [hfly]
  cases w with
  | tdata k wr ad sz x => exact absurd rfl (hres k wr ad sz x)
  | _ => simp

@[simp] theorem Pipe.landOne_stores (p : Pipe) (w : LWrite) : (p.landOne w).stores = p.stores := by cases w <;> rfl

section
variable {e : Env} {l : Landing} (hstores : e.p.stores = []) (hfly : e.p.fly = [l]) (hdue : l.at_ ≤ e.p.cycle)
  (hres : ∀ k wr ad sz x, l.wr ≠ .tdata k wr ad sz x) (hsticky : e.p.arch.landSticky l.wr = 0)
include hstores hfly hdue hres hsticky

/-- The results of a cycle land in which one is due, no trace packet and no sticky flag, and no store is in flight. -/
theorem Chip.landCycle_single {c : Chip} (hpipe : c.pipe e.pi = e.p) :
    (c.landCycle e).pipe e.pi = { e.p.landOne l.wr with fly := [], stores := [] } := by
  unfold Chip.landCycle
  extract_lets b p due q p' now d
  have hp : p = e.p := by
    unfold p b
    rw [Chip.emitLanded_pipe, hpipe, Pipe.held_single hfly hres, ← hfly]
  have hlist : due = [l] := by simp [due, hp, hfly, hdue]
  have hq : q = e.p.landOne l.wr := by
    unfold q
    rw [hlist, hp, Pipe.landAll_single _ _ hsticky]
  have hleft : p' = { e.p.landOne l.wr with fly := [] } := by
    unfold p'
    rw [hq, hp, hfly, List.filter_cons_of_neg (by simpa using hdue), List.filter_nil]
  have hnone : p'.stores = [] := by rw [hleft]; exact (Pipe.landOne_stores _ _).trans hstores
  have hnow : now = [] := by unfold now; rw [hnone]; rfl
  rw [hnow]
  show d.pipe e.pi = _
  unfold d
  rw [Chip.pipe_setPipe, hnone, hleft]
  rfl

/-- At the end of such a cycle the pipeline is as the landing leaves it, but for what a cycle that ends and the far operations
that complete change. -/
theorem Chip.endCycle_single {c : Chip} {core : Nat} (henv : c.env? core = some e) (hticks : e.p.ticks = true) :
    let q := e.p.landOne l.wr
    ∃ r fs, (c.endCycle core).pipe e.pi = { q with
      fly := [], stores := [], run := r, far := fs, pred := q.pred.applyDue q.cycle, cycle := q.cycle + 1, issued := false
      gap := q.gap - 1 } := by
  intro q
  have hcount (b : Bool) (ev : Nat) (d : Chip) : (if b then d.count e.pi ev 1 else d).pipes = d.pipes := by
    split <;> simp
  unfold Chip.endCycle
  rw [henv]
  dsimp -zeta only
  rw [hticks, if_neg (by decide)]
  extract_lets c1 c2 c3 p
  have hpipe : c2.pipe e.pi = e.p := by
    rw [(Chip.env?_pipe henv).1]
    exact Chip.pipe_of_pipes ((hcount _ _ c1).trans (hcount _ _ c)) e.pi
  obtain ⟨r, fs, hleft⟩ := (c2.landCycle e).farEnd_pipe core e.pi (fun f => decide (f.until_ ≤ e.p.cycle + 1))
  rw [Chip.landCycle_single hstores hfly hdue hres hsticky hpipe] at hleft
  refine ⟨r, fs, ?_⟩
  rw [Chip.pipe_of_pipes (Chip.featherPacket_pipes _ _), Chip.pipe_setPipe, show p = _ from hleft]

/-- The command RESULT_LANDING there. -/
theorem landing_completes {s : State} {core : Fin 64} (halone : s.chip.Alone core e) (hticks : e.p.ticks = true) :
    Completes (.resultLanding core) s (fun d => let p := d.pipe e.pi
      let q := e.p.landOne l.wr
      p.arch = q.arch ∧ p.tlb = q.tlb ∧ p.wc = q.wc ∧ p.fab = q.fab) := by
  refine completes_of_does (exec_resultLanding core s) ?_
  obtain ⟨r, fs, hp⟩ := Chip.endCycle_single hstores hfly hdue hres hsticky halone.1 hticks
  rw [Chip.onCore_alone halone]
  dsimp only
  rw [hp]
  exact ⟨rfl, rfl, rfl, rfl⟩

end

/-- Settles O18: TLBW and TLBI make no access and only put their effect in flight, and TWALK acts on the chip its walk leaves.
Of what lands alone, the end of a cycle changes neither the registers, the TLB, the walk cache nor the fetch-ahead buffer. -/
theorem translationOperationsIssue : Obligations.TranslationOperationsIssue := by
  unfold Obligations.TranslationOperationsIssue
  refine ⟨fun s core e hready => ⟨fun w => ?tlbw, fun o => ?tlbi, fun o hclear => ?twalk⟩,
    fun s core e l halone hticks hstores hfly hdue => ⟨fun n t hwr => ?tlbwLands, fun sc w a lin hwr => ?tlbiLands⟩⟩
  case tlbw =>
    refine registerOp_of hready rfl rfl (exec_tlbw core w s) (fun hlegal htimed hoper hpriv hfree => ?_)
      (fun b => ⟨b, rfl, Chip.Frame.refl b e.pi, rfl⟩)
    exact Chip.clear_of_no_access _ rfl rfl (fun _ => nofun)
      (Chip.opCauses_plain _ e _ .b _ rfl (Bool.and_false _) rfl hoper hlegal htimed hpriv hfree rfl rfl)
  case tlbi =>
    refine registerOp_of hready rfl rfl (exec_tlbi core o s) (fun hlegal htimed hoper hpriv hfree => ?_)
      (fun b => ⟨b, rfl, Chip.Frame.refl b e.pi, rfl⟩)
    exact Chip.clear_of_no_access _ rfl rfl (fun _ => nofun)
      (Chip.opCauses_plain _ e _ .b _ rfl (Bool.and_false _) rfl hoper hlegal htimed hpriv hfree rfl rfl)
  case twalk => exact twalk_completes hready hclear
  case tlbwLands =>
    obtain ⟨u, hx, hpend, harch, htlb, -, hfab⟩ := landing_completes hstores hfly hdue (by simp [hwr])
      (by rw [hwr]; rfl) halone hticks
    rw [hwr] at harch htlb hfab
    refine ⟨u, hx, hpend, ?_, fun k hk => ?_, hfab, harch⟩
    · rw [htlb]
      exact tget_tset_self {} e.p.tlb n t
    · rw [htlb]
      exact tget_tset_ne {} e.p.tlb n k t hk
  case tlbiLands =>
    obtain ⟨u, hx, hpend, harch, htlb, hwc, hfab⟩ := landing_completes hstores hfly hdue (by simp [hwr])
      (by rw [hwr]; rfl) halone hticks
    rw [hwr] at harch htlb hwc hfab
    exact ⟨u, hx, hpend, htlb, hwc, hfab, harch⟩

end Sys2Proof.Machine
end

section
/-! PROOFS. The statement about the core commands and the end of an array copy (R260, R268). -/

namespace Sys2Proof.Machine

/-! ### Tables in which a range was copied -/

/-- A key that the first table does not list is read in the second. -/
theorem tget_append_of_not_mem_left {α : Type} (d : α) (t u : Tbl α) (k : Nat) (h : ∀ e ∈ t, e.1 ≠ k) :
    tget d (t ++ u) k = tget d u k := by
  induction t with
  | nil => rfl
  | cons x t ih =>
    obtain ⟨hx, ht⟩ := List.forall_mem_cons.1 h
    rw [List.cons_append, tget, if_neg hx, ih ht]

/-- A key that the second table does not list is read in the first. -/
theorem tget_append_of_not_mem_right {α : Type} (d : α) (t u : Tbl α) (k : Nat) (h : ∀ e ∈ u, e.1 ≠ k) :
    tget d (t ++ u) k = tget d t k := by
  induction t with
  | nil => exact tget_of_not_mem d u k h
  | cons x t ih => rw [List.cons_append, tget, tget, ih]

/-- Within the replaced range a table reads as what replaced it. -/
theorem tget_tsplice_inside {α : Type} (d : α) (t xs : Tbl α) {lo n k : Nat} (hlo : lo ≤ k) (hhi : k < lo + n) :
    tget d (tsplice t lo n xs) k = tget d xs k := by
  have hbelow : ∀ e ∈ t.filter (fun e => e.1 < lo), e.1 ≠ k := fun e he => by
    have := of_decide_eq_true (List.mem_filter.1 he).2
    omega
  have habove : ∀ e ∈ t.filter (fun e => lo + n ≤ e.1), e.1 ≠ k := fun e he => by
    have := of_decide_eq_true (List.mem_filter.1 he).2
    omega
  rw [tsplice, tget_append_of_not_mem_right d _ _ k habove, tget_append_of_not_mem_left d _ _ k hbelow]

/-- Entries taken from the range at `src` and moved to `dst` read there as they did. -/
theorem tget_map_shift {α : Type} (d : α) (t : Tbl α) (src dst : Nat) {n i : Nat} (hi : i < n) :
    tget d ((t.filter (fun e => src ≤ e.1 && e.1 < src + n)).map (fun e => (dst + (e.1 - src), e.2))) (dst + i)
      = tget d t (src + i) := by
  induction t with
  | nil => rfl
  | cons x t ih =>
    obtain ⟨j, y⟩ := x
    rw [List.filter_cons]
    by_cases hin : src ≤ j ∧ j < src + n
    · have hkey : (dst + (j - src) = dst + i) = (j = src + i) := propext (by omega)
      rw [if_pos (by simpa using hin), List.map_cons, tget, tget, ih]
      exact ite_congr hkey (fun _ => rfl) (fun _ => rfl)
    · rw [if_neg (by simpa using hin), ih, tget, if_neg (by omega)]

/-- What was copied to a range reads there as it did where it came from. -/
theorem tget_tcopy_inside {α : Type} (d : α) (t : Tbl α) (src dst : Nat) {n i : Nat} (hi : i < n) :
    tget d (tcopy t src dst n) (dst + i) = tget d t (src + i) := by
  rw [tcopy, tget_tsplice_inside d _ _ (by omega) (by omega), tget_map_shift d t src dst hi]

/-! ### The acceptance of a role command leaves the eights and the outstanding operations as they are -/

@[simp] theorem Chip.setCred_eights (c : Chip) (slot : Nat) (x : Cred) : (c.setCred slot x).eights = c.eights := by
  unfold Chip.setCred; split <;> rfl
@[simp] theorem Chip.setCred_ops (c : Chip) (slot : Nat) (x : Cred) : (c.setCred slot x).roles.ops = c.roles.ops := by
  unfold Chip.setCred; split <;> rfl

@[simp] theorem Chip.journalNew_eights (c : Chip) (kind role keyId code status digest : Nat) :
    (c.journalNew kind role keyId code status digest).eights = c.eights := by simp [Chip.journalNew]
@[simp] theorem Chip.journalNew_ops (c : Chip) (kind role keyId code status digest : Nat) :
    (c.journalNew kind role keyId code status digest).roles.ops = c.roles.ops := by simp [Chip.journalNew]

@[simp] theorem Chip.anchorStep_eights (c : Chip) : c.anchorStep.eights = c.eights := by
  unfold Chip.anchorStep Chip.alarmRecord; dsimp only; split <;> split <;> simp
@[simp] theorem Chip.anchorStep_ops (c : Chip) : c.anchorStep.roles.ops = c.roles.ops := by
  unfold Chip.anchorStep Chip.alarmRecord; dsimp only; split <;> split <;> simp

@[simp] theorem Chip.accepted_eight (c : Chip) (q : Req) (slot code : Nat) (ops : List Word) (e : Nat) :
    (c.accepted q slot code ops).eight e = c.eight e := by simp [Chip.accepted, Chip.eight]
@[simp] theorem Chip.accepted_opOf (c : Chip) (q : Req) (slot code : Nat) (ops : List Word) (k arg : Nat) :
    (c.accepted q slot code ops).opOf k arg = c.opOf k arg := by simp [Chip.accepted, Chip.opOf]

/-! ### A role command that completes later -/

/-- An authorized role command whose body answers for later is outstanding on the chip the body leaves. -/
theorem Chip.roleCmd_later {c d : Chip} {q : Req} {code slot arg : Nat} {ops : List Word} {right : Nat → Bool}
    {body : Chip → Chip × Answer} (h : c.Authorized q code ops right slot)
    (hbody : body (c.accepted q slot code ops) = (d, .later arg)) :
    c.roleCmd q code ops right body = d.begin_ q code (c.acceptedSeq q slot) arg := by
  obtain ⟨htake, hauth, hanchor, hflash⟩ := h
  unfold Chip.accepted at hbody
  simp [Chip.roleCmd, Chip.served, htake, hauth, hanchor, hflash, hbody, Chip.acceptedSeq]

@[simp] theorem Chip.eight_begin (c : Chip) (q : Req) (code seq arg e : Nat) :
    (c.begin_ q code seq arg).eight e = c.eight e := rfl

/-- A command that has begun is outstanding. -/
theorem Chip.opOf_begin_isSome (c : Chip) (q : Req) (code seq arg : Nat) :
    ((c.begin_ q code seq arg).opOf code arg).isSome = true := by
  simp [Chip.opOf, Chip.begin_]

/-! ### The core commands (R260, R268) -/

/-- An ARRAY_MOVE that finds a spare array set and no move in its eight begins one. -/
theorem Chip.arrayMove_move {c : Chip} {q : Req} {slot core dest : Nat}
    (h : c.Authorized q 0x0022 [BitVec.ofNat 16 core] installer slot)
    (hnone : (c.eight (core / 8)).move = none) (hspare : (c.eight (core / 8)).spareArr = some dest) :
    ((c.arrayMove q core).eight (core / 8)).move = some ⟨core, dest, false⟩ := by
  rw [Chip.arrayMove, Chip.roleCmd_later h (by simp only [Chip.accepted_eight, hnone, hspare]; rfl)]
  simp

/-- The end of a copy marks the move as done. -/
theorem Chip.arrayCopied_move {c : Chip} {e : Nat} {mv : ArrMove} (hmove : (c.eight e).move = some mv)
    (hdone : mv.done = false) : ((c.arrayCopied e).eight e).move = some { mv with done := true } := by
  simp [Chip.arrayCopied, hmove, hdone]

/-- The end of a copy leaves in the spare array set what the core's tight memory holds. -/
theorem Chip.arrayCopied_mem {c : Chip} {e : Nat} {mv : ArrMove} (hmove : (c.eight e).move = some mv)
    (hdone : mv.done = false) : (c.arrayCopied e).mem
      = tcopy c.mem (2 * c.tmAddr mv.core 0) (2 * (tightBase + (9 * e + mv.dest) * 0x1_0000)) 0x2_0000 := by
  simp [Chip.arrayCopied, hmove, hdone]

/-- A CORE_SUBST that finds a spare pipeline and none of its core outstanding raises a trigger of rank 4 and is outstanding. -/
theorem Chip.coreSubst_trigger {c : Chip} {q : Req} {slot core : Nat}
    (h : c.Authorized q 0x0020 [BitVec.ofNat 16 core] installer slot)
    (hspare : (c.eight (core / 8)).spare?.isSome = true) (hfree : c.opOf 0x0020 core = none) :
    ((c.coreSubst q core).eight (core / 8)).trig = (c.eight (core / 8)).trig ++ [⟨4, core, c.now, false⟩]
    ∧ ((c.coreSubst q core).opOf 0x0020 core).isSome = true := by
  have hnot : (c.eight (core / 8)).spare?.isNone = false := by
    rw [← Option.not_isSome, hspare]; rfl
  rw [Chip.coreSubst, Chip.roleCmd_later h (by
    simp only [Chip.accepted_eight, Chip.accepted_opOf, Chip.accepted_now, hnot, hfree]; rfl)]
  exact ⟨by simp, Chip.opOf_begin_isSome _ _ _ _ _⟩

/-- A CORE_TEST of a pipeline that is SPARE or RETIRED puts it in TEST. -/
theorem Chip.coreTest_test {c : Chip} {q : Req} {slot pi : Nat}
    (h : c.Authorized q 0x0021 [BitVec.ofNat 16 pi] installer slot)
    (hst : tget .service (c.eight (pi / 9)).pst (pi % 9) = .spare ∨ tget .service (c.eight (pi / 9)).pst (pi % 9) = .retired) :
    tget .service ((c.coreTest q pi).eight (pi / 9)).pst (pi % 9) = .test := by
  have hidle : (tget .service (c.eight (pi / 9)).pst (pi % 9) == .service
      || tget .service (c.eight (pi / 9)).pst (pi % 9) == .test) = false := by
    rcases hst with hst | hst <;> rw [hst] <;> rfl
  rw [Chip.coreTest, Chip.roleCmd_later h (by simp only [Chip.accepted_eight, hidle]; rfl)]
  simp

/-- Settles O28: an accepted role command acts on eights and outstanding operations that its acceptance has left as they were,
and the end of an array copy is one copy of a range of memory. -/
theorem coreCommandsAct : Obligations.CoreCommandsAct := by
  unfold Obligations.CoreCommandsAct
  intro s q slot c
  refine ⟨fun core dest h hnone hspare => ?move, fun e mv hmove hdone => ?copied, fun core h hspare hfree => ?subst,
    fun pi h hst => ?test⟩
  case move => exact completes_of_does (f := fun c => c.arrayMove q core) rfl (Chip.arrayMove_move h hnone hspare)
  case copied =>
    refine completes_of_does (f := fun c => c.arrayCopied e) rfl ⟨Chip.arrayCopied_move hmove hdone, fun _ i hi => ?_⟩
    rw [Chip.arrayCopied_mem hmove hdone]
    exact tget_tcopy_inside 0 c.mem _ _ hi
  case subst => exact completes_of_does (f := fun c => c.coreSubst q core) rfl (Chip.coreSubst_trigger h hspare hfree)
  case test => exact completes_of_does (f := fun c => c.coreTest q pi) rfl (Chip.coreTest_test h hst)

end Sys2Proof.Machine
end

section
/-! PROOFS. The event hub: sets of sources, the slices of targets, accesses to its pages, and the statements about delivery and
about configuration (R269 to R287). -/

namespace Sys2Proof.Machine

/-! ### Sets of sources -/

theorem testBit_setBit (x s i : Nat) : (setBit x s).testBit i = (x.testBit i || decide (s = i)) := by
  rw [setBit, Nat.testBit_or, Nat.testBit_two_pow]

/-- To clear a bit is to write 0 to the field of that bit alone. -/
theorem clrBit_eq_setBits (x s : Nat) : clrBit x s = setBits x s s 0 := by
  have hb : bits x s s = if x.testBit s then 1 else 0 := by
    refine Nat.eq_of_testBit_eq fun i => ?_
    rw [testBit_bits]
    cases i with
    | zero => cases x.testBit s <;> simp
    | succ i => cases x.testBit s <;> simp [Nat.testBit_succ]
  rw [clrBit, setBits, hb]
  split <;> simp [Nat.one_shiftLeft]

theorem testBit_clrBit (x s i : Nat) : (clrBit x s).testBit i = if i = s then false else x.testBit i := by
  have hfield : (s ≤ i ∧ i < s + (s + 1 - s)) ↔ i = s := by omega
  rw [clrBit_eq_setBits, testBit_setBits, Nat.zero_testBit]
  simp only [hfield]

/-- A group write gives each source of its list the written bit and leaves every other (R285). -/
theorem testBit_putBits (v x g : Nat) (ss : List Nat) (i : Nat) :
    (putBits v x g ss).testBit i = if i ∈ ss then x.testBit (i - 32 * g) else v.testBit i := by
  induction ss generalizing v with
  | nil => rfl
  | cons s ss ih =>
    rw [putBits, List.foldl_cons]
    refine (ih _).trans ?_
    have hput : (if bitN x (s - 32 * g) then setBit v s else clrBit v s).testBit i
        = if i = s then x.testBit (i - 32 * g) else v.testBit i := by
      rw [apply_ite (Nat.testBit · i), testBit_setBit, testBit_clrBit, bitN]
      by_cases hi : i = s
      · subst hi; cases x.testBit (i - 32 * g) <;> simp
      · simp [hi, Ne.symm hi]
    rw [hput]
    by_cases hs : i ∈ ss <;> by_cases hi : i = s <;> simp [hs, hi]

/-! ### Occurrences (R272) -/

/-- An occurrence reaches PEND alone. -/
theorem Hub.occur_shape (h : Hub) (s : Nat) : h.occur s = { h with pend := (h.occur s).pend } := by
  unfold Hub.occur
  split <;> rfl

/-- Software sources are not reserved. -/
theorem srcReserved_of_software {s : Nat} (h : s < 0x080) : srcReserved s = false := by
  rw [srcReserved, decide_eq_false (by omega : ¬ 0x32F ≤ s), decide_eq_false (by omega : ¬ 0x080 ≤ s)]
  rfl

theorem Hub.testBit_occur (h : Hub) (s i : Nat) : (h.occur s).pend.testBit i
    = (h.pend.testBit i || (decide (i = s) && h.ena.testBit s && !srcReserved s)) := by
  have hdrop : (srcReserved s || !h.ena.testBit s) = !(h.ena.testBit s && !srcReserved s) := by
    rw [Bool.not_and, Bool.not_not, Bool.or_comm]
  rw [Hub.occur, hdrop, Bool.and_assoc]
  cases h.ena.testBit s && !srcReserved s with
  | true => simp [Nat.testBit_two_pow, eq_comm]
  | false => simp

/-! ### Slices and PSTAT -/

@[simp] theorem Hub.slice_setSlice_self (h : Hub) (t : Nat) (x : Slice) : (h.setSlice t x).slice t = x :=
  tget_tset_self _ _ _ _

theorem Hub.slice_setSlice_ne (h : Hub) {t k : Nat} (x : Slice) (hk : k ≠ t) : (h.setSlice t x).slice k = h.slice k :=
  tget_tset_ne _ _ _ _ _ hk

@[simp] theorem Hub.pst_pstSet_self (h : Hub) (u m : Nat) : (h.pstSet u m).pst u = h.pst u ||| m :=
  tget_tset_self _ _ _ _

/-! ### Evaluation and moderation (R275, R276, R281) -/

/-- The candidates of a target depend on no slice but its own. -/
theorem Chip.cands_setSlice_ne (c : Chip) {t k : Nat} (x : Slice) (hk : k ≠ t) :
    Chip.cands { c with hub := c.hub.setSlice t x } k = c.cands k := by
  have hcand : Chip.isCand { c with hub := c.hub.setSlice t x } k = c.isCand k := by
    funext s
    simp only [Chip.isCand, Hub.slice_setSlice_ne _ _ hk]
    rfl
  rw [Chip.cands, hcand, Chip.cands]

/-- What the evaluation of a target makes of its slice. -/
def Chip.evalSlice (c : Chip) (t : Nat) : Slice := (c.evalTarget t).hub.slice t

theorem Chip.setSlice_shape (c : Chip) (t : Nat) (x : Slice) : ({ c with hub := c.hub.setSlice t x } : Chip)
    = { c with hub := { c.hub with slices := (c.hub.setSlice t x).slices } } := rfl

/-- An evaluation reaches slices alone. -/
theorem Chip.evalTarget_shape (c : Chip) (t : Nat) :
    c.evalTarget t = { c with hub := { c.hub with slices := (c.evalTarget t).hub.slices } } := c.setSlice_shape t _

theorem Chip.evalTarget_slice_ne (c : Chip) {t k : Nat} (hk : k ≠ t) : (c.evalTarget t).hub.slice k = c.hub.slice k :=
  Hub.slice_setSlice_ne _ _ hk

/-- An evaluated target's line carries 1 while it has a candidate that moderation releases. -/
theorem Chip.evalSlice_line (c : Chip) (t : Nat) :
    (c.evalSlice t).line = (!(c.cands t).isEmpty && c.modRelease t (c.cands t) (c.hub.slice t)) := by
  rw [Chip.evalSlice, Chip.evalTarget]
  simp only [Hub.slice_setSlice_self]
  cases hc : (c.cands t).isEmpty with
  | true => rfl
  | false => cases c.modRelease t (c.cands t) (c.hub.slice t) <;> rfl

/-- What an evaluation makes of a slice depends on no other slice but through the candidates. -/
theorem Chip.evalSlice_congr {c d : Chip} {t : Nat} (hd : d = { c with hub := { c.hub with slices := d.hub.slices } })
    (hslice : d.hub.slice t = c.hub.slice t) (hcands : d.cands t = c.cands t) : d.evalSlice t = c.evalSlice t := by
  have hmod : ∀ cs s, d.modRelease t cs s = c.modRelease t cs s := fun cs s => by rw [hd]; rfl
  have hnow : d.now = c.now := by rw [hd]
  simp only [Chip.evalSlice, Chip.evalTarget, Hub.slice_setSlice_self, hslice, hcands, hmod, hnow]

/-- The evaluation of one target changes nothing that the evaluation of another reads. -/
theorem Chip.evalSlice_evalTarget_ne (c : Chip) {t k : Nat} (hk : k ≠ t) : (c.evalTarget t).evalSlice k = c.evalSlice k :=
  Chip.evalSlice_congr (c.evalTarget_shape t) (c.evalTarget_slice_ne hk) (c.cands_setSlice_ne _ hk)

/-- Targets that are not evaluated keep their slices. -/
theorem Chip.slice_foldl_evalTarget_of_not_mem (ts : List Nat) (c : Chip) {t : Nat} (ht : t ∉ ts) :
    (ts.foldl Chip.evalTarget c).hub.slice t = c.hub.slice t := by
  induction ts generalizing c with
  | nil => rfl
  | cons k ts ih =>
    obtain ⟨hk, hts⟩ := List.ne_and_not_mem_of_not_mem_cons ht
    rw [List.foldl_cons, ih _ hts, c.evalTarget_slice_ne hk]

/-- Targets evaluated one after another come out as each evaluated by itself. -/
theorem Chip.slice_foldl_evalTarget (ts : List Nat) (c : Chip) (hnd : ts.Nodup) {t : Nat} (ht : t ∈ ts) :
    (ts.foldl Chip.evalTarget c).hub.slice t = c.evalSlice t := by
  induction ts generalizing c with
  | nil => cases ht
  | cons k ts ih =>
    obtain ⟨hk, hts⟩ := List.nodup_cons.1 hnd
    rw [List.foldl_cons]
    rcases List.mem_cons.1 ht with rfl | hmem
    · exact Chip.slice_foldl_evalTarget_of_not_mem ts _ hk
    · rw [ih _ hts hmem, c.evalSlice_evalTarget_ne (ne_of_mem_of_not_mem hmem hk)]

/-- With no source to record in NTSRC, HUB_EVALUATION is the evaluation of every target. -/
theorem Chip.hubEvaluate_slice {c : Chip} (hdue : c.hub.ntDue = []) {t : Nat} (ht : t < 65) :
    c.hubEvaluate.hub.slice t = c.evalSlice t := by
  have hclear : ({ c with hub := { c.hub with ntDue := [] } } : Chip) = c := by rw [← hdue]
  rw [Chip.hubEvaluate, hdue, List.foldl_nil, hclear]
  exact Chip.slice_foldl_evalTarget _ c List.nodup_range (List.mem_range.2 ht)

@[simp] theorem Chip.cands_reach (c : Chip) (n t : Nat) : (c.reach n).cands t = c.cands t := by
  unfold Chip.reach
  split <;> rfl

/-- A running timer that ends releases its target's line. -/
theorem Chip.modExpiry_releases {c : Chip} {t : Nat} (ht : (c.hub.slice t).timer.isSome = true) :
    ((c.modExpiry t).hub.slice t).released = true ∧ ((c.modExpiry t).hub.slice t).line = !(c.cands t).isEmpty := by
  obtain ⟨t0, ht0⟩ := Option.isSome_iff_exists.1 ht
  simp only [Chip.modExpiry, ht0, Hub.slice_setSlice_self, Chip.cands_reach, and_self]

/-! ### Acknowledge and end of interrupt (R278, R279) -/

theorem Chip.iack_of_bestCand {c : Chip} {r : Requester} {q : Nat} (hu : r.unit ≤ 64) (hq : c.bestCand r.unit = some q)
    (hroom : (c.hub.slice r.unit).stack.length < 32) :
    c.iack r = (
      { c with hub := Hub.setSlice { c.hub with pend := clrBit c.hub.pend q, act := setBit c.hub.act q } r.unit
                { c.hub.slice r.unit with stack := ⟨q, (c.srcCfg q).pri, false⟩ :: (c.hub.slice r.unit).stack } },
      q + (c.srcCfg q).pri * 2 ^ 10) := by
  simp only [Chip.iack, if_neg (Nat.not_lt.2 hu), hq, if_neg (Nat.not_le.2 hroom)]

theorem Chip.ieoi_of_top {c : Chip} {r : Requester} {x : Nat} {e : StackE} {rest : List StackE} (hu : r.unit ≤ 64)
    (hid : bits x 9 0 = e.id) (hreal : e.id ≠ 0x3FF) (hst : (c.hub.slice r.unit).stack = e :: rest) (hlive : e.stale = false) :
    c.ieoi r x = { c with hub := { c.hub.setSlice r.unit { c.hub.slice r.unit with stack := rest } with
      act := clrBit c.hub.act e.id } } := by
  have hacts : (decide (64 < r.unit) || e.id == 0x3FF) = false := by simp [hreal, hu]
  simp only [Chip.ieoi, hid, hacts, Bool.false_eq_true, if_false, hst, hlive, if_true]
  rfl

/-! ### Accesses by a requester (R209, R454) -/

theorem Chip.requester_unit {c : Chip} {u : Nat} {r : Requester} (h : c.requester u = some r) : r.unit = u := by
  unfold Chip.requester at h
  split at h
  next =>
    split at h
    next => cases h
    next =>
      split at h
      next => split at h <;> cases h; rfl
      next => cases h
  next => split at h <;> cases h; rfl

/-- The address of a register of a listed page leads to that page. -/
theorem regPage_of_listed {page off : Nat} (hp : (pageBlk page).isSome = true) (hlt : page < 0x140) (ho : off < 0x800) :
    regPage (devBase + page * 0x800 + off) = some page := by
  obtain ⟨b, hb⟩ := Option.isSome_iff_exists.1 hp
  have hpage : (devBase + page * 0x800 + off - devBase) / 0x800 = page := by omega
  rw [regPage, if_pos (by simp only [devBase]; omega)]
  simp only [hpage, hb, Option.map_some]

section
variable {c : Chip} {u page off : Nat} {r : Requester} (h : c.Reaches u page off r) (hp : (pageBlk page).isSome = true)
  (hlt : page < 0x140) (ho : off < 0x800)
include h hp hlt ho

/-- A requester that reaches a register reads it, and the value stands in `reply`. -/
theorem Chip.readBy_of_reaches :
    c.readBy u page off = { (c.pairRead r page off).1 with reply := (c.pairRead r page off).2 } := by
  obtain ⟨hr, hpass, hup⟩ := h
  have hoff : (devBase + page * 0x800 + off - devBase) % 0x800 = off := by omega
  simp [Chip.readBy, hr, hpass, Chip.regLoad, regPage_of_listed hp hlt ho, hup, hoff]

/-- A requester that reaches a register writes it. -/
theorem Chip.writeBy_of_reaches (x : Nat) : c.writeBy u page off x = c.pairWrite r page off x := by
  obtain ⟨hr, hpass, hup⟩ := h
  have hoff : (devBase + page * 0x800 + off - devBase) % 0x800 = off := by omega
  simp [Chip.writeBy, hr, hpass, Chip.regStore, regPage_of_listed hp hlt ho, hup, hoff]

end

/-! ### Accesses to the pages of the hub (R283, R285) -/

/-- An offset of a page has a register that is live, not staged. -/
def liveReg (page off : Nat) : Bool := (regD page off).any (fun d => !d.isStaged)

theorem exists_of_liveReg {page off : Nat} (h : liveReg page off = true) :
    ∃ d, regD page off = some d ∧ d.isStaged = false := by
  simpa [liveReg, Option.any_eq_true] using h

/-- A read of IACK acknowledges. -/
theorem Chip.readBy_iack {c : Chip} {u : Nat} {r : Requester} (h : c.Reaches u 0x070 0x100 r) (hu : u ≤ 64) :
    c.readBy u 0x070 0x100 = { (c.iack r).1 with reply := (c.iack r).2 } := by
  have hr : ¬ 64 < r.unit := by rw [Chip.requester_unit h.1]; omega
  obtain ⟨d, hd, hs⟩ := exists_of_liveReg (page := 0x070) (off := 0x100) rfl
  have hread : c.pairRead r 0x070 0x100 = c.iack r := by
    simp [Chip.pairRead, hr, hd, hs, Chip.regRead]
  rw [Chip.readBy_of_reaches h rfl (by omega) (by omega), hread]

theorem Chip.liveWrite_evh0 (c : Chip) (r : Requester) (off x : Nat) (d : RegD) :
    c.liveWrite ⟨r, 0x070, off, true⟩ x d = c.hubWrite r off x := rfl

theorem Chip.liveWrite_evh1 (c : Chip) (r : Requester) (off x : Nat) (d : RegD) : c.liveWrite ⟨r, 0x071, off, true⟩ x d
    = c.groupWrite r true ((off - 0x100) / 0x40) ((off - 0x100) % 0x40 / 2) x := rfl

section
variable {c : Chip} {r : Requester} (hu : r.unit ≤ 64)
include hu

theorem Chip.hubWrite_ieoi (x : Nat) : c.hubWrite r 0x102 x = c.ieoi r x := by
  simp [Chip.hubWrite, Nat.not_lt.2 hu]

theorem Chip.hubWrite_swset (x : Nat) : c.hubWrite r 0x10C x = c.swset r x := by
  simp [Chip.hubWrite, Nat.not_lt.2 hu]

theorem Chip.hubWrite_cfgw (x : Nat) : c.hubWrite r 0x10E x = c.cfgw r x := by
  simp [Chip.hubWrite, Nat.not_lt.2 hu]

theorem Chip.hubWrite_group {off : Nat} (hlo : 0x140 ≤ off) (hhi : off < 0x200) (x : Nat) :
    c.hubWrite r off x = c.groupWrite r false ((off - 0x140) / 0x40) ((off - 0x140) % 0x40 / 2) x := by
  simp (disch := omega) only [Chip.hubWrite, if_neg, if_pos]

end

/-- A write to a register of the party window is the hub's. -/
theorem Chip.writeBy_hub {c : Chip} {u off : Nat} {r : Requester} (h : c.Reaches u 0x070 off r) (hu : u ≤ 64)
    (hlo : 0x100 ≤ off) (hhi : off ≤ 0x23F) (hlive : liveReg 0x070 off = true) (x : Nat) :
    c.writeBy u 0x070 off x = c.hubWrite r off x := by
  have hr : ¬ 64 < r.unit := by rw [Chip.requester_unit h.1]; omega
  have hwin : (inWindow 0x070 off && errBanked 0x070) = true := by simp [inWindow, errBanked, hlo, hhi]
  obtain ⟨d, hd, hs⟩ := exists_of_liveReg hlive
  rw [Chip.writeBy_of_reaches h rfl (by omega) (by omega)]
  simp [Chip.pairWrite, hwin, hr, hd, hs, show ¬ 0x400 ≤ off by omega, show ¬ off < 0x16 by omega, Chip.liveWrite_evh0]

/-- No party reaches the page of all sources: it is the launch controller's at all times (R270). -/
theorem Chip.party_of_reaches_evh1 {c : Chip} {u off : Nat} {r : Requester} (h : c.Reaches u 0x071 off r) : r.party = none := by
  obtain ⟨-, hpass, -⟩ := h
  cases hr : r.party with
  | none => rfl
  | some q =>
    rw [Chip.passes, hr] at hpass
    exact absurd hpass (by simp [Chip.ownsReg, Chip.pageOwner, inWindow, show pageBlk 0x071 = some (.evh1, 1) from rfl])

/-- A write to a register of the page of all sources is a group write. -/
theorem Chip.writeBy_evh1 {c : Chip} {u off : Nat} {r : Requester} (h : c.Reaches u 0x071 off r)
    (hlo : 0x100 ≤ off) (hhi : off ≤ 0x23F) (hlive : liveReg 0x071 off = true) (x : Nat) :
    c.writeBy u 0x071 off x = c.groupWrite r true ((off - 0x100) / 0x40) ((off - 0x100) % 0x40 / 2) x := by
  have hparty := Chip.party_of_reaches_evh1 h
  obtain ⟨d, hd, hs⟩ := exists_of_liveReg hlive
  rw [Chip.writeBy_of_reaches h rfl (by omega) (by omega)]
  simp [Chip.pairWrite, errBanked, hparty, hd, hs, Chip.windowOnly, show ¬ 0x400 ≤ off by omega, show ¬ off < 0x16 by omega,
    Chip.liveWrite_evh1]

theorem liveReg_group (g : GroupAt) : liveReg g.page g.off = true := by
  obtain ⟨all, kind, g⟩ := g
  revert g
  cases all <;> cases kind <;> decide

/-- A write to the register of a group is the write of that group. -/
theorem Chip.writeBy_group {c : Chip} {u : Nat} {r : Requester} {g : GroupAt} (h : c.Reaches u g.page g.off r) (hu : u ≤ 64)
    (x : Nat) : c.writeBy u g.page g.off x = c.groupWrite r g.all g.kind.num g.g x := by
  have hlive := liveReg_group g
  obtain ⟨all, kind, g⟩ := g
  have hnum : kind.num ≤ 2 := by cases kind <;> decide
  have hr : r.unit ≤ 64 := Chip.requester_unit h.1 ▸ hu
  cases all with
  | false =>
    have hoff : GroupAt.off ⟨false, kind, g⟩ = 0x140 + 0x40 * kind.num + 2 * g.val := rfl
    have hkind : (GroupAt.off ⟨false, kind, g⟩ - 0x140) / 0x40 = kind.num := by omega
    have hg : (GroupAt.off ⟨false, kind, g⟩ - 0x140) % 0x40 / 2 = g.val := by omega
    rw [show GroupAt.page ⟨false, kind, g⟩ = 0x070 from rfl] at h hlive ⊢
    rw [Chip.writeBy_hub h hu (by omega) (by omega) hlive, Chip.hubWrite_group hr (by omega) (by omega), hkind, hg]
  | true =>
    have hoff : GroupAt.off ⟨true, kind, g⟩ = 0x100 + 0x40 * kind.num + 2 * g.val := rfl
    have hkind : (GroupAt.off ⟨true, kind, g⟩ - 0x100) / 0x40 = kind.num := by omega
    have hg : (GroupAt.off ⟨true, kind, g⟩ - 0x100) % 0x40 / 2 = g.val := by omega
    rw [show GroupAt.page ⟨true, kind, g⟩ = 0x071 from rfl] at h hlive ⊢
    rw [Chip.writeBy_evh1 h (by omega) (by omega) hlive, hkind, hg]

/-! ### Configuration, software sources and groups (R282, R285, R287) -/

theorem Chip.cfgw_owned {c : Chip} {r : Requester} {x : Nat} (hu : r.unit ≤ 64) (hown : c.ownsSrc r (bits x 9 0) = true)
    (hok : ∀ t, t = bits x 24 18 ∨ t = bits x 31 25 → partyTarget t = true ∨ (r.unit = 64 ∧ t = 64)) :
    c.cfgw r x = { c with hub := { c.hub with
      cfg := tset {} c.hub.cfg (bits x 9 0) ⟨bits x 17 10, bits x 24 18, bits x 31 25⟩ } } := by
  have hgood : ∀ t, t = bits x 24 18 ∨ t = bits x 31 25 →
      (if r.unit = 64 then !(partyTarget t || t == 64) else !partyTarget t) = false := fun t ht => by
    rcases hok t ht with hp | ⟨h64, rfl⟩
    · simp [hp]
    · simp [h64]
  simp only [Chip.cfgw, if_neg (Nat.not_lt.2 hu), hown, hgood _ (.inl rfl), hgood _ (.inr rfl), Bool.not_true, Bool.or_self,
    Bool.false_eq_true, if_false]

theorem Chip.cfgw_notOwned {c : Chip} {r : Requester} {x : Nat} (hu : r.unit ≤ 64) (hown : c.ownsSrc r (bits x 9 0) = false) :
    c.cfgw r x = { c with hub := c.hub.pstSet r.unit 1 } := by
  simp [Chip.cfgw, Nat.not_lt.2 hu, hown]

theorem Chip.swset_owned {c : Chip} {r : Requester} {x : Nat} (hu : r.unit ≤ 64) (hsw : bits x 9 0 < 0x080)
    (hown : c.ownsSrc r (bits x 9 0) = true) : c.swset r x = c.raise (bits x 9 0) := by
  simp [Chip.swset, Nat.not_lt.2 hu, hsw, hown]

theorem Chip.swset_refused {c : Chip} {r : Requester} {x : Nat} (hu : r.unit ≤ 64)
    (hno : 0x080 ≤ bits x 9 0 ∨ c.ownsSrc r (bits x 9 0) = false) :
    c.swset r x = { c with hub := c.hub.pstSet r.unit 1 } := by
  have hbad : (decide (bits x 9 0 < 0x080) && c.ownsSrc r (bits x 9 0)) = false := by
    rcases hno with hge | hown
    · rw [decide_eq_false (Nat.not_lt.2 hge), Bool.false_and]
    · rw [hown, Bool.and_false]
  simp [Chip.swset, Nat.not_lt.2 hu, hbad]

theorem Chip.groupWrite_group (c : Chip) {r : Requester} (hu : r.unit ≤ 64) (all : Bool) (k k' : GroupKind) (g x : Nat) :
    (c.groupWrite r all k.num g x).hub.group k'
      = if k' = k then putBits (c.hub.group k) x g (c.groupBits r all g) else c.hub.group k' := by
  simp only [Chip.groupWrite, if_neg (Nat.not_lt.2 hu)]
  cases k <;> cases k' <;> rfl

/-! ### The statements -/

/-- Settles O29: an occurrence reaches one bit of PEND, a target is evaluated as if by itself, and an acknowledge and an end of
interrupt by a requester that reaches its register act on the top of its own stack. -/
theorem hubDeliversSources : Obligations.HubDeliversSources := by
  unfold Obligations.HubDeliversSources
  intro s c
  refine ⟨fun src => ?occurrence, fun hdue => ?evaluation, fun t ht => ?expiry, fun u r src hu h hq hroom => ?acknowledge,
    fun u r x e rest hu h hid hreal hst hlive => ?endOfInterrupt⟩
  case occurrence =>
    refine completes_of_does (f := fun c => c.raise src) rfl ⟨?_, fun i hi => ?_, ?_⟩
    · simp [Chip.raise, Hub.testBit_occur, c]
    · simp [Chip.raise, Hub.testBit_occur, hi, c]
    · rw [Chip.raise, ← Hub.occur_shape]
  case evaluation =>
    refine completes_of_does (f := Chip.hubEvaluate) rfl fun t ht => ?_
    rw [Chip.hubEvaluate_slice hdue ht, Chip.evalSlice_line]
  case expiry =>
    exact completes_of_does (f := fun c => c.modExpiry t) rfl (Chip.modExpiry_releases ht)
  case acknowledge =>
    have hunit := Chip.requester_unit h.1
    refine completes_of_does (f := fun c => c.readBy u 0x070 0x100) rfl ?_
    rw [Chip.readBy_iack h hu, Chip.iack_of_bestCand (hunit ▸ hu) (hunit ▸ hq) (hunit ▸ hroom), hunit]
    refine ⟨rfl, ?_, ?_, ?_⟩
    · rw [Hub.slice_setSlice_self]
    · exact (testBit_clrBit _ _ _).trans (if_pos rfl)
    · exact (testBit_setBit _ _ _).trans (by simp)
  case endOfInterrupt =>
    have hunit := Chip.requester_unit h.1
    refine completes_of_does (f := fun c => c.writeBy u 0x070 0x102 x.toNat) rfl ?_
    rw [Chip.writeBy_hub h hu (by omega) (by omega) rfl, Chip.hubWrite_ieoi (hunit ▸ hu),
      Chip.ieoi_of_top (hunit ▸ hu) hid hreal (hunit ▸ hst) hlive, hunit]
    exact ⟨congrArg Slice.stack (Hub.slice_setSlice_self c.hub _ _), (testBit_clrBit _ _ _).trans (if_pos rfl)⟩

/-- Settles O30: a requester that reaches the party window writes as the hub serves it, and a source it does not own costs it
only the NOTOWN bit of its PSTAT. -/
theorem ownersConfigureSources : Obligations.OwnersConfigureSources := by
  unfold Obligations.OwnersConfigureSources
  intro s u r x hu c src
  have hcfgw : c.Reaches u 0x070 0x10E r → c.writeBy u 0x070 0x10E x.toNat = c.cfgw r x.toNat := fun h => by
    rw [Chip.writeBy_hub h hu (by omega) (by omega) rfl, Chip.hubWrite_cfgw (Chip.requester_unit h.1 ▸ hu)]
  have hswset : c.Reaches u 0x070 0x10C r → c.writeBy u 0x070 0x10C x.toNat = c.swset r x.toNat := fun h => by
    rw [Chip.writeBy_hub h hu (by omega) (by omega) rfl, Chip.hubWrite_swset (Chip.requester_unit h.1 ▸ hu)]
  refine ⟨fun h hown hok => ?configured, fun h hown => ?notConfigured, fun h hsw hown => ?raised, fun h hno => ?notRaised,
    fun g h => ?group⟩
  case configured =>
    refine completes_of_does (f := fun c => c.writeBy u 0x070 0x10E x.toNat) rfl ?_
    have hunit := Chip.requester_unit h.1
    rw [hcfgw h, Chip.cfgw_owned (hunit ▸ hu) hown (hunit ▸ hok)]
    exact ⟨rfl, tget_tset_self _ _ _ _, fun k hk => tget_tset_ne _ _ _ _ _ hk⟩
  case notConfigured =>
    refine completes_of_does (f := fun c => c.writeBy u 0x070 0x10E x.toNat) rfl ?_
    have hunit := Chip.requester_unit h.1
    rw [hcfgw h, Chip.cfgw_notOwned (hunit ▸ hu) hown, hunit]
    exact ⟨rfl, by simp⟩
  case raised =>
    refine completes_of_does (f := fun c => c.writeBy u 0x070 0x10C x.toNat) rfl fun i => ?_
    have hunit := Chip.requester_unit h.1
    rw [hswset h, Chip.swset_owned (hunit ▸ hu) hsw hown, Chip.raise, Hub.testBit_occur, srcReserved_of_software hsw]
    by_cases hi : i = bits x.toNat 9 0 <;> simp [hi, src, c]
  case notRaised =>
    refine completes_of_does (f := fun c => c.writeBy u 0x070 0x10C x.toNat) rfl ?_
    have hunit := Chip.requester_unit h.1
    rw [hswset h, Chip.swset_refused (hunit ▸ hu) hno, hunit]
    exact ⟨rfl, by simp⟩
  case group =>
    refine completes_of_does (f := fun c => c.writeBy u g.page g.off x.toNat) rfl ?_
    have hunit := Chip.requester_unit h.1
    rw [Chip.writeBy_group h hu]
    refine ⟨fun i => ?_, fun k hk => ?_⟩
    · rw [Chip.groupWrite_group _ (hunit ▸ hu), if_pos rfl, testBit_putBits]
    · rw [Chip.groupWrite_group _ (hunit ▸ hu), if_neg hk]

end Sys2Proof.Machine
end
